-- ==== Sys2Proof/Word.lean ====
section
/-! DEFINITION. The word types of the part. -/

namespace Sys2Proof

/-- A byte of a frame, a block or a format. -/
abbrev Byte := BitVec 8

/-- A value of the free-running 32-bit time base, in µs (00_scope.md, Conventions). -/
abbrev Time := BitVec 32

/-- A 48-bit station or Ethernet address, first written byte in the top eight bits (R169). -/
abbrev Addr := BitVec 48

/-- One symbol as it is demodulated on one receive path: for each of the 60 groups, the bits of each of
its 16 carriers (2.2, R24, R25). -/
abbrev HeardSymbol := List (List (List Bool))

end Sys2Proof
end

