-- ==== Sys2Proof/Syntax.lean ====
section
/-! DEFINITION. The commands of the part: one constructor for each row of spec/opcode_table.json.
The table gives the rows no fields; the operands are what the rows' rules need (log entries 1, 9,
12, 19). Every command carries the instant `t` at which it is taken. -/

namespace Sys2Proof

/-- The level of the CFGSRC strap (R158). -/
inductive Strap where
  | flash
  | port
deriving DecidableEq, Repr

/-- One sample of the ZC input (R1). -/
inductive ZcLevel where
  | low
  | high
deriving DecidableEq, Repr

/-- The kind of a frame, in descriptors and block headers (R171). -/
inductive FrameKind where
  | data
  | notice
deriving DecidableEq, Repr

/-- Symbols of a burst, in order from the first, as each path gives them (R23). In SINGLE path B plays no
part. -/
structure SymbolsHeard where
  onA : List HeardSymbol
  onB : List HeardSymbol
deriving DecidableEq, Repr

/-- The two header symbols, and the notch mask of the station that sends them: its groups that carry
nothing (R24, R29). DESIGN CHOICE: log entry 41. -/
structure HeaderHeard extends SymbolsHeard where
  senderNotch : List Bool
deriving DecidableEq, Repr

/-- What the modem finds in a receipt slot (R23, R35): where the preamble symbol starts, the paths it is
detected on, the SNR of each of its groups on each path in thousandths of a dB, and the robust symbol
after it as each path gives it. -/
structure ReceiptHeard where
  start : Time
  onA : Bool
  onB : Bool
  snrA : List Int
  snrB : List Int
  symbolA : HeardSymbol
  symbolB : HeardSymbol
deriving DecidableEq, Repr

/-- The commands. -/
inductive Instr where
  /-- QUALIFIED_CROSSING (R1): the HIGH sample that brings the candidate run to Q. -/
  | qualifiedCrossing (t : Time)
  /-- ACQUIRING_TIMEOUT (R7). -/
  | acquiringTimeout (t : Time)
  /-- HOLDOVER_INSTANT (R9). -/
  | holdoverInstant (t : Time)
  /-- LOSS_INSTANT (R11). -/
  | lossInstant (t : Time)
  /-- ENERGY_REPORT (R32): what the detectors of paths A and B find at `t`. -/
  | energyReport (t : Time) (onA onB : Bool)
  /-- QUIET_REPORT (R32). -/
  | quietReport (t : Time)
  /-- GAP_TAIL_CHECK (R38). -/
  | gapTailCheck (t : Time)
  /-- OPENING_INSTANT (R39). -/
  | openingInstant (t : Time)
  /-- MARK_SLOT_LISTEN_END (R39). -/
  | markSlotListenEnd (t : Time)
  /-- CLAIM_BIT_SLOT (R43). -/
  | claimBitSlot (t : Time)
  /-- CLAIM_PERIOD_END (R44, R45). -/
  | claimPeriodEnd (t : Time)
  /-- BURST_START (R18). -/
  | burstStart (t : Time)
  /-- HIDDEN_WINNER_DEADLINE (R46). -/
  | hiddenWinnerDeadline (t : Time)
  /-- OCCUPANCY_END (R47). -/
  | occupancyEnd (t : Time)
  /-- BURST_DETECTED (R29): the start of the first preamble symbol, the paths the pattern is found
  on, and the SNR of each group on each path in thousandths of a dB. -/
  | burstDetected (t start : Time) (onA onB : Bool) (snrA snrB : List Int)
  /-- HEADER_OUTCOME (R23, R24, R29, R30): the two header symbols and their sender's notch mask. -/
  | headerOutcome (t : Time) (heard : HeaderHeard)
  /-- REVIEW_COMPLETE (R71) of a record index. -/
  | reviewComplete (t : Time) (idx : Nat)
  /-- BLOCK_HANDED (R23, R31): the payload symbols of the burst so far. -/
  | blockHanded (t : Time) (heard : SymbolsHeard)
  /-- RX_PAYLOAD_END (R31). -/
  | rxPayloadEnd (t : Time)
  /-- SEND_RECEIPT (R34). -/
  | sendReceipt (t : Time)
  /-- RECEIPT_END (R34). -/
  | receiptEnd (t : Time)
  /-- OWN_PAYLOAD_END (R18). -/
  | ownPayloadEnd (t : Time)
  /-- RECEIPT_SLOT_END (R35): what was heard in the slot. -/
  | receiptSlotEnd (t : Time) (heard : Option ReceiptHeard)
  /-- SILENCE_INSTANT (R59) of a record index. -/
  | silenceInstant (t : Time) (idx : Nat)
  /-- MAP_SET_LIFETIME (R62) of a record index. -/
  | mapSetLifetime (t : Time) (idx : Nat)
  /-- LAST_UNICAST_EXPIRY (R55) of a record index. -/
  | lastUnicastExpiry (t : Time) (idx : Nat)
  /-- LAST_NOTICE_EXPIRY (R84) of a record index. -/
  | lastNoticeExpiry (t : Time) (idx : Nat)
  /-- ROBUST_RESEND_EXPIRY (R99) of a record index. -/
  | robustResendExpiry (t : Time) (idx : Nat)
  /-- FRAME_EXPIRY (R124) of the frame that holds a descriptor. -/
  | frameExpiry (t : Time) (kind : FrameKind) (desc : Nat)
  /-- REASSEMBLY_TIMEOUT (R135) of a table position. -/
  | reassemblyTimeout (t : Time) (pos : Nat)
  /-- PORT_FRAME_RECEIVED (R145): the bytes that arrived since the last block draw, and whether the
  receive side signalled an error. -/
  | portFrameReceived (t : Time) (bytes : List Byte) (rxError : Bool)
  /-- PAUSE_END (R147). -/
  | pauseEnd (t : Time)
  /-- FORWARDING_AGING (R152) of a table position. -/
  | forwardingAging (t : Time) (pos : Nat)
  /-- EGRESS_LAST_BYTE (R153, R154). -/
  | egressLastByte (t : Time)
  /-- EGRESS_GAP_END (R155). -/
  | egressGapEnd (t : Time)
  /-- REPLY_PLACED (R164). -/
  | replyPlaced (t : Time)
  /-- NRST_ASSERT (R158). -/
  | nrstAssert (t : Time)
  /-- HARDWARE_RESET (R158): the strap as sampled. -/
  | hardwareReset (t : Time) (strap : Strap)
  /-- FLASH_READ_START (R160). -/
  | flashReadStart (t : Time)
  /-- FLASH_READ_END (R160): the bytes read. -/
  | flashReadEnd (t : Time) (bytes : List Byte)
  /-- IDENTIFY (R165): the request of that name is taken. -/
  | identify (t : Time)
  /-- STATUS (R167): the request of that name is taken. -/
  | status (t : Time)
  /-- EVENT_MASK (R165): the request of that name is taken. -/
  | eventMask (t : Time)
  /-- FLOOR (R116, R165): the request of that name is taken. -/
  | floor (t : Time)
  /-- PEER_LIST (R65, R165): the request of that name is taken. -/
  | peerList (t : Time)
  /-- PEER_DETAIL (R65, R165): the request of that name is taken. -/
  | peerDetail (t : Time)
  /-- CONFIG_LOAD (R161): the request of that name is taken. -/
  | configLoad (t : Time)
  /-- RESTART (R159): the request of that name is taken. -/
  | restart (t : Time)
  /-- UNKNOWN_REQUEST (R164): a request whose code names no request is taken. -/
  | unknownRequest (t : Time)
  /-- RESTART_TAKEN (R159). -/
  | restartTaken (t : Time)
  /-- ZC_SAMPLE (R1): the level sampled. -/
  | zcSample (t : Time) (level : ZcLevel)
  /-- INGRESS_BLOCK_DRAW (R107): the bytes of the stretch that begins to arrive, and whether the
  receive side signals an error in it. -/
  | ingressBlockDraw (t : Time) (stretch : List Byte) (rxError : Bool)
deriving DecidableEq, Repr

end Sys2Proof
end

