-- ==== Sys2Proof/Config.lean ====
section
/-! DEFINITION. What the spec leaves to the moment of power-on, fixed for `State.reset`; and the free
values: the two codes of the line, which the spec gives by their rates alone, and what a decoder makes
of what no undisturbed symbol can be, carriers on which nothing was demodulated among it. -/

namespace Sys2Proof.Config

/-- The strap level sampled at the reset that `State.reset` shows. DESIGN CHOICE, unsafe: log entry
5. HARDWARE_RESET takes the level as its operand. -/
def resetStrap : Strap := .flash

/-- The time base in `State.reset`. DESIGN CHOICE, unsafe: log entry 5. -/
def resetTime : Time := 0

/-- Start time of the candidate run while its length is 0. DESIGN CHOICE, unsafe: log entry 6. -/
def resetRunStart : Time := 0

/-- Level of the candidate run while its length is 0. DESIGN CHOICE, unsafe: log entry 6. -/
def resetRunLevel : ZcLevel := .low

/-- The modem's own instants before the first use of each. DESIGN CHOICE, unsafe: log entry 8. -/
def resetModemTime : Time := 0

/-! ### Free values (log entry 33) -/

/-- The rate-1/2 code of the robust map (R24), as the permutation of the words of `n` bits that takes data
bits followed by zeros to their codeword. Free: the spec gives the rate alone. -/
opaque robustCode : (n : Nat) → Equiv.Perm (BitVec n)

/-- The rate-3/4 code of the window maps (R25), in the same form. Free: the spec gives the rate alone. -/
opaque windowCode : (n : Nat) → Equiv.Perm (BitVec n)

/-- Data bit `i` that the decoder of the robust map gives for a word that is no codeword. Free. -/
opaque robustGuess : List Bool → Nat → Bool

/-- Data bit `i` that the decoder of a window map gives for a word that is no codeword. Free. -/
opaque windowGuess : List Bool → Nat → Bool

/-- The coded bit that the four carriers of a repetition give, by what each of them gave, when they do not
agree on one bit or one of them gave none (R24). Free. -/
opaque repeatGuess : List (List Bool) → Bool

/-- Coded bit `i` of a carrier that did not give the bits of its loading, by what it gave (R25). Free. -/
opaque carrierGuess : List Bool → Nat → Bool

end Sys2Proof.Config
end

