-- ==== Sys2Proof/Machine/Constants.lean ====
section
/-! DEFINITION. The capacities and intervals that the rules state. -/

namespace Sys2Proof.Machine

/-- Groups of carriers (2.2). -/
def groupCount : Nat := 60
/-- Windows of a mains cycle (R12). -/
def windowCount : Nat := 12
/-- Slots of a map set (R77, R90). -/
def slotCount : Nat := 4
/-- Peer records (R54). -/
def peerCount : Nat := 16
/-- Levels (R106). -/
def levelCount : Nat := 8
/-- Positions of the reassembly table (R131). -/
def entryCount : Nat := 32
/-- Positions of the forwarding table (R150). -/
def forwardCount : Nat := 256
/-- Frames the egress FIFO holds (R153). -/
def fifoCapacity : Nat := 32
/-- Replies the reply slot holds (R154). -/
def slotCapacity : Nat := 2
/-- Requests the request queue holds (R164). -/
def requestCapacity : Nat := 2
/-- Frames a train holds (R112). -/
def trainFrames : Nat := 4
/-- Blocks of the transmit pool (R107). -/
def txBlocks : Nat := 512
/-- Data descriptors (R107). -/
def dataDescriptors : Nat := 160
/-- Blocks of the control reserve (R107). -/
def controlBlocks : Nat := 64
/-- Notice descriptors (R107). -/
def noticeDescriptors : Nat := 32
/-- Blocks of the receive pool (R130). -/
def rxBlocks : Nat := 256
/-- Bits of a block on the line (R26). -/
def blockBits : Nat := 1088
/-- Payload bytes of a block (R26). -/
def blockPayload : Nat := 128
/-- Most payload symbols of a burst (R26). -/
def maxSymbols : Nat := 28
/-- Most blocks of a burst (R27, R28). -/
def maxBlocks : Nat := 48
/-- Attempts after which a frame is dropped (R123). -/
def retryLimit : Nat := 16
/-- Pairs of a recent-completion list (R137). -/
def recentCapacity : Nat := 16
/-- Bytes of a map notice (R90). -/
def noticeLength : Nat := 140
/-- Shortest and longest Ethernet frame the port takes (R145). -/
def minFrame : Nat := 64
/-- The longest Ethernet frame the port takes (R145). -/
def maxFrame : Nat := 1522
/-- Bits of a burst header without its check, and with it (R170). -/
def headerCovered : Nat := 142
/-- Bits of a burst header (R27, R170). -/
def headerBits : Nat := 158

/-- Silence after which a record is released, in µs (R59). -/
def silenceTime : Nat := 120000000
/-- Lifetime of a transmit map set, in µs (R62). -/
def mapSetLifetime : Nat := 60000000
/-- Last unicast from becomes absent when it lies more than this back (R55, R85). -/
def unicastRecent : Nat := 10000000
/-- Last notice sent becomes absent when it lies this far back (R84, R100). -/
def noticeInterval : Nat := 20000000
/-- The robust-resend time becomes absent when it lies this far back (R99). -/
def robustResendInterval : Nat := 1000000
/-- Lifetime of a notice, in µs (R109). -/
def noticeLifetime : Nat := 500000
/-- Age at which a reassembly entry times out (R135). -/
def entryTimeout : Nat := 250000
/-- Age from which a reassembly entry may be evicted (R133). -/
def evictionGuard : Nat := 20000
/-- Age at which a forwarding entry is removed (R152). -/
def forwardAge : Nat := 300000000
/-- Time without a crossing that ends ACQUIRING (R7). -/
def acquiringLimit : Nat := 50000
/-- Time without energy after which quiet is reported (R32). -/
def quietTime : Nat := 100
/-- From the free instant to the check for its tail (R38). -/
def tailTime : Nat := 10
/-- From the free instant to the opening instant (R38). -/
def openingDelay : Nat := 40
/-- Length of the mark slot and of each bit slot (R39, R43). -/
def slotTime : Nat := 30
/-- Head of a slot in which a listener disregards energy (R39, R43). -/
def listenGuard : Nat := 6
/-- From the mark start to CPE (R39). -/
def claimPeriod : Nat := 270
/-- From CPE to the burst start (R14, R18). -/
def turnaround : Nat := 20
/-- From CPE to the hidden-winner deadline (R46). -/
def hiddenDelay : Nat := 200
/-- From the burst start to the header outcome (R29). -/
def headerDelay : Nat := 170
/-- From the burst start to the payload, K symbols before its end (R19). -/
def payloadOffset : Nat := 160
/-- From the burst start to the receipt, K symbols later (R34). -/
def receiptOffset : Nat := 220
/-- From the burst start to the end of the receipt slot, K symbols later (R19). -/
def receiptEndOffset : Nat := 300
/-- Length of a symbol (2.1). -/
def symbolTime : Nat := 40
/-- Length of a receipt (R34). -/
def receiptTime : Nat := 80
/-- Tolerance of the receipt start (R35). -/
def receiptTolerance : Nat := 8
/-- From hardware reset to the flash read (R158). -/
def flashDelay : Nat := 1000
/-- Whole µs of the 35.84 µs of a flash read (R160; log entry 20). -/
def flashReadTime : Nat := 35
/-- Largest value of a 32-bit saturating counter (10.5, R64). -/
def counterMax : Nat := 4294967295
/-- The management EtherType (R146). -/
def managementType : Nat := 0x89C3
/-- The EtherType of port control frames (R145). -/
def controlType : Nat := 0x8808
/-- The EtherType position's value in a tagged frame (R148). -/
def vlanType : Nat := 0x8100

end Sys2Proof.Machine
end

