-- ==== Sys2Proof/Machine/Types.lean ====
section
/-! DEFINITION. The types of the parts of the state, block by block. All are plain data. -/

namespace Sys2Proof.Machine

/-! ### Line-Cycle Unit (chapter 1) -/

/-- The qualifier's accepted level (R1). -/
inductive Accepted where
  | low
  | high
  | unsettled
deriving DecidableEq, Repr

/-- Lock state (1.3). -/
inductive LockState where
  | noLine
  | acquiring
  | locked
  | holdover
deriving DecidableEq, Repr

/-- The state of the LCU (chapter 1, R17). -/
structure Lcu where
  accepted : Accepted
  runLevel : ZcLevel
  runLength : Nat
  runStart : Time
  q : Nat
  lock : LockState
  p16 : Nat
  tPrev : Option Time
  accCount : Nat
  tLast : Option Time
  latchStart : Time
  latchPhase : Option Nat
  latchP16 : Nat
deriving DecidableEq, Repr

/-! ### Maps and peers (chapters 2, 4, 5, 6) -/

/-- A slot's map with its version (R83, R90): 60 loadings, one for each group. -/
structure VersionedMap where
  version : Nat
  loads : List Nat
deriving DecidableEq, Repr

/-- A window list (R79, R90): the slot of each of the 12 windows, or `none` for ROBUST. -/
abbrev WindowList := List (Option Nat)

/-- The map selector of a header (R28). -/
inductive MapSelector where
  | robust
  | slot (s version : Nat)
deriving DecidableEq, Repr

/-- The transmit map set (R62, R94). -/
structure TxMapSet where
  windows : WindowList
  slots : List (Option VersionedMap)
  installed : Time
deriving DecidableEq, Repr

/-- The receive maps of one slot (R82). -/
structure RxSlot where
  current : Option VersionedMap
  previous : Option VersionedMap
deriving DecidableEq, Repr

/-- Average and worst value of one group in one window (R68). -/
structure GroupStat where
  average : Nat
  worst : Nat
deriving DecidableEq, Repr

/-- One window of a measurement store (R68). -/
structure WindowStore where
  count : Nat
  groups : List GroupStat
deriving DecidableEq, Repr

/-- A measurement store: 12 windows (4.1). -/
abbrev Store := List WindowStore

/-- The per-peer counters, in the order of R64. -/
structure PeerCounters where
  burstsSent : Nat
  blocksSent : Nat
  blocksRetried : Nat
  noReceipts : Nat
  mapUnknown : Nat
  burstsReceived : Nat
  blocksAccepted : Nat
deriving DecidableEq, Repr

/-- An ACTIVE peer record (4.1). A FREE record is the absence of one. -/
structure Peer where
  address : Addr
  lastHeard : Time
  lastUnicast : Option Time
  txMaps : Option TxMapSet
  fallback : Nat
  nextTag : List Nat
  store : Store
  filings : Nat
  rxMaps : List RxSlot
  announced : WindowList
  lastNotice : Option Time
  noticePending : Bool
  robustResend : Option Time
  recent : List (Nat × Nat)
  counters : PeerCounters
  deferred : Bool
deriving DecidableEq, Repr

/-- A review in flight (R69): its start and the snapshot. -/
structure Review where
  start : Time
  snapshot : Store
deriving DecidableEq, Repr

/-- The state of the LAE (chapter 5): the margin, and for each record index IDLE (`none`) or
RUNNING. -/
structure Lae where
  margin : Nat
  reviews : List (Option Review)
deriving DecidableEq, Repr

/-! ### Transmit Scheduler and pools (chapter 7) -/

/-- Destination of a frame: a peer's record index, or BROADCAST (R149). -/
inductive Dest where
  | peer (idx : Nat)
  | broadcast
deriving DecidableEq, Repr

/-- State of a block of a frame (R112, R120, R121). -/
inductive BlockState where
  | pending
  | onLine
  | done
deriving DecidableEq, Repr

/-- A block of a frame, with its sent-before flag. -/
structure FrameBlock where
  state : BlockState
  sentBefore : Bool
deriving DecidableEq, Repr

/-- A frame descriptor with the frame's bytes (table of chapter 7). `desc` is the number of the
descriptor drawn (log entry 18). The length is that of `bytes`, the block count that of `blocks`. -/
structure Frame where
  kind : FrameKind
  desc : Nat
  level : Nat
  dest : Dest
  bytes : List Byte
  blocks : List FrameBlock
  expiry : Time
  tag : Option Nat
  attempts : Nat
  expired : Bool
deriving DecidableEq, Repr

/-- A train (R112): its frames in train order. -/
structure Train where
  level : Nat
  dest : Dest
  frames : List Frame
deriving DecidableEq, Repr

/-- The map that payload symbols are sent or decoded with (R24, R25): the robust map, or the loadings of a
window map. -/
inductive PayloadMap where
  | robust
  | window (loads : List Nat)
deriving DecidableEq, Repr

/-- One block of a burst: the frame's kind and descriptor, and the place of the block in it, from 0. -/
structure BlockRef where
  kind : FrameKind
  desc : Nat
  index : Nat
deriving DecidableEq, Repr

/-- The burst on line (R117, R120): destination record and address, map selector, the map with its data
bits per symbol, K, the blocks in burst order and their 136 bytes. -/
structure BurstOnLine where
  dest : Dest
  destAddr : Addr
  selector : MapSelector
  map : PayloadMap
  dataBits : Nat
  symbols : Nat
  refs : List BlockRef
  blocks : List (List Byte)
deriving DecidableEq, Repr

/-- The state of the TSC (chapter 7). The stack's top stands first. -/
structure Tsc where
  queues : List (List Frame)
  active : Option Train
  stack : List Train
  floor : Nat
  lifetimes : List Nat
  bcastTags : List Nat
  prospective : Option Nat
  onLine : Option BurstOnLine
deriving DecidableEq, Repr

/-- The free counts of the BPM's pools (R107, R130). -/
structure Bpm where
  txFree : Nat
  txDesc : Nat
  ctlFree : Nat
  ctlDesc : Nat
  rxFree : Nat
deriving DecidableEq, Repr

/-! ### Line Modem (chapter 2) -/

/-- Activity of the modem (2.6.1). -/
inductive Activity where
  | off
  | listen
  | receive
  | sendBurst
  | receiptWait
  | sendReceipt
deriving DecidableEq, Repr

/-- Path mode (R21). -/
inductive PathMode where
  | single
  | dual
deriving DecidableEq, Repr

/-- A receive path (R23). -/
inductive RxPath where
  | a
  | b
deriving DecidableEq, Repr

/-- The contents of a well-formed header (R28). -/
structure Header where
  label : BitVec 16
  sender : Addr
  dest : Addr
  stamp : Option Nat
  selector : MapSelector
  symbols : Nat
  blocks : Nat
deriving DecidableEq, Repr

/-- How far the reception of the burst in hand has come (R30, R31): the header is awaited; the
payload of a served burst is decoded; the payload of a burst addressed here has ended; a burst
addressed here was refused for its slot and version. -/
inductive RxStage where
  | header
  | payload
  | ended
  | refused
deriving DecidableEq, Repr

/-- The burst in hand (R22, R23, R29 to R31): start, measurement, path choice, header, stage, the map
its payload is decoded with and the data bits per symbol of that map, and the blocks handed so far. -/
structure BurstInHand where
  start : Time
  measurement : List Nat
  choice : List RxPath
  header : Option Header
  stage : RxStage
  map : PayloadMap
  dataBits : Nat
  handed : Nat
deriving DecidableEq, Repr

/-- The receipt expectation (R35). -/
structure ReceiptExpect where
  start : Time
  dest : Addr
  blocks : Nat
deriving DecidableEq, Repr

/-- What one group carries in one symbol that the part sends (R18, R20, R24, R25): nothing; the fixed
preamble pattern; claim slot energy; or on each of its 16 carriers the bits of a point of that many
bits, one bit on the robust map. -/
inductive GroupSignal where
  | silent
  | preamble
  | claim
  | carriers (bits : List (List Bool))
deriving DecidableEq, Repr

/-- One symbol that the part sends: the signal of each of the 60 groups. -/
abbrev Symbol := List GroupSignal

/-- What the part puts on the line (R18, R32, R34): the claim signal of a slot; the preamble, header and
payload symbols of a burst; the preamble symbol and the robust symbol of a receipt. -/
inductive LineOut where
  | silent
  | claimSignal (signal : Symbol)
  | burst (preamble header payload : List Symbol)
  | receipt (preamble robust : Symbol)
deriving DecidableEq, Repr

/-- The state of the LMD (chapter 2). `energy` is the onset of the energy report in progress,
`lastEnergy` the last instant at which energy was reported, `quietFrom` the start of the stretch of
watching without energy, `listenFrom` the instant LISTEN was last entered, absent once a report of quiet
since then shows that nothing on the line now began before it (log entry 13). -/
structure Lmd where
  activity : Activity
  notch : List Bool
  path : PathMode
  inHand : Option BurstInHand
  expect : Option ReceiptExpect
  lineOut : LineOut
  energy : Option Time
  lastEnergy : Option Time
  quietFrom : Time
  listenFrom : Option Time
  receiptStart : Time
deriving DecidableEq, Repr

/-! ### Claim Controller (chapter 3) -/

/-- Medium state (3.1). -/
inductive Medium where
  | idle
  | gap
  | claiming
  | occupied
  | sensedBusy
  | sending
  | awaitReceipt
deriving DecidableEq, Repr

/-- Claim state (chapter 3): NONE, IN, OUT. -/
inductive ClaimState where
  | none
  | contending
  | out
deriving DecidableEq, Repr

/-- The state of the CLC (chapter 3). `markListen`: the station is not pending and listens through
the mark slot that follows the opening instant (R39). `lossCounted`: the period's loss has been counted
at CPE, and the station waits OUT for the outcome (R45, R46; log entry 16). -/
structure Clc where
  medium : Medium
  claim : ClaimState
  markStart : Option Time
  word : Option (BitVec 8)
  level : Option Nat
  freeInstant : Option Time
  occupancyEnd : Option Time
  quietFlag : Bool
  rng : BitVec 16
  lastLevel : Option Nat
  lostStreak : Nat
  waited : Bool
  markListen : Bool
  lossCounted : Bool
deriving DecidableEq, Repr

/-! ### Receive Assembler (chapter 8) -/

/-- A block header (R171). -/
structure BlockHeader where
  kind : FrameKind
  level : Nat
  tag : Nat
  index : Nat
  total : Nat
  last : Nat
deriving DecidableEq, Repr

/-- A reassembly entry (R131): key, kind, total, last-block length, the stored blocks with their
indices, and the last-block time. -/
structure Entry where
  sender : Nat
  level : Nat
  tag : Nat
  bcast : Bool
  kind : FrameKind
  total : Nat
  last : Nat
  blocks : List (Nat × List Byte)
  lastTime : Time
deriving DecidableEq, Repr

/-- Result carried by a receipt (R34). -/
inductive ReceiptResult where
  | received
  | mapUnknown
deriving DecidableEq, Repr

/-- A receipt: result, buffer-short flag, bitmap in burst block order (R34). -/
structure Receipt where
  result : ReceiptResult
  bufferShort : Bool
  bitmap : List Bool
deriving DecidableEq, Repr

/-- The burst in service (R127). -/
structure Service where
  sender : Nat
  bcast : Bool
  blocks : Nat
  receipt : Option Receipt
deriving DecidableEq, Repr

/-- The state of the RXA (chapter 8). -/
structure Rxa where
  table : List (Option Entry)
  service : Option Service
deriving DecidableEq, Repr

/-! ### Port Unit (chapter 9) -/

/-- The frame in ingress (R144): the bytes so far, the blocks drawn for it, and its flags. -/
structure Ingress where
  bytes : List Byte
  drawn : Nat
  short : Bool
  rxError : Bool
deriving DecidableEq, Repr

/-- A forwarding entry (R150). -/
structure ForwardEntry where
  address : Addr
  peer : Nat
  lastSeen : Time
deriving DecidableEq, Repr

/-- A frame of the egress FIFO (R153): its bytes, the receive-pool blocks it holds, its level. -/
structure EgressFrame where
  bytes : List Byte
  blocks : Nat
  level : Nat
deriving DecidableEq, Repr

/-- A reply (R154, R164): its bytes before padding and check sequence, and whether it answers the
RESTART request (R159). -/
structure Reply where
  bytes : List Byte
  restart : Bool
deriving DecidableEq, Repr

/-- Egress activity (R155), with the frame being sent. -/
inductive Egress where
  | idle
  | sendingData (f : EgressFrame)
  | sendingReply (r : Reply)
  | gap
deriving DecidableEq, Repr

/-- The state of the PTU (chapter 9). `receiving`: the receive data of a frame is under way on the RGMII
pins, whether or not the frame is in ingress (R157; log entry 38). -/
structure Ptu where
  ingress : Option Ingress
  priority : List Nat
  defaultLevel : Nat
  fwd : List (Option ForwardEntry)
  fifo : List EgressFrame
  slot : List Reply
  egress : Egress
  pauseEnd : Option Time
  txError : Bool
  receiving : Bool
deriving DecidableEq, Repr

/-! ### Management Unit and Start-up Controller (chapter 10) -/

/-- A diverted request (R164, R172): source address, code, sequence value, argument length, and the
bytes present from frame byte 20 up to the check sequence. -/
structure Request where
  source : Addr
  code : Byte
  sequence : Nat
  argLength : Nat
  args : List Byte
deriving DecidableEq, Repr

/-- Result codes (R164). -/
inductive ResultCode where
  | ok
  | unknownRequest
  | wrongState
  | badArgument
deriving DecidableEq, Repr

/-- The RESTART in progress (R159): none, requested, or requested with its reply sent. -/
inductive RestartPhase where
  | none
  | outstanding
  | due
deriving DecidableEq, Repr

/-- The events, in the order of the event table of chapter 10. -/
inductive Event where
  | lineLocked
  | lineLost
  | holdoverEntered
  | peerLearned
  | peerReleased
  | peerTableFull
  | frameDroppedAdmission
  | frameExpired
  | frameRetryLimit
  | egressOverflow
  | mapInstalled
  | mapUnknownSeen
  | configInvalid
  | mgmtOverflow
deriving DecidableEq, Repr

/-- The counters of one level (R126). -/
structure LevelCounters where
  sent : Nat
  admissionDrops : Nat
  expiries : Nat
  retryDrops : Nat
deriving DecidableEq, Repr

/-- The station counters, in the order of the table of 10.5. -/
structure Counters where
  spuriousCrossings : Nat
  undecodedBursts : Nat
  foreignBursts : Nat
  claimsWon : Nat
  claimsLost : Nat
  unlearnedBursts : Nat
  framesReleased : Nat
  noticesRejected : Nat
  levels : List LevelCounters
  lineDelivered : Nat
  egressOverflows : Nat
  abandoned : Nat
  bufferRefusals : Nat
  portReceived : Nat
  portErrors : Nat
  portControl : Nat
  portToStation : Nat
  portOffline : Nat
  managementLost : Nat
  forwardReplacements : Nat
  portSent : Nat
  repliesSent : Nat
  requestsDropped : Nat
deriving DecidableEq, Repr

/-- The state of the MGU (chapter 10). The request in service is held as the reply it waits with:
the taking itself is indivisible (R164). -/
structure Mgu where
  queue : List Request
  service : Option Reply
  restart : RestartPhase
  flags : BitVec 14
  mask : BitVec 14
  counters : Counters
  attn : Bool
deriving DecidableEq, Repr

/-- Station state (10.2). -/
inductive StationState where
  | config
  | configWait
  | online
deriving DecidableEq, Repr

/-- The configuration image (R163), its values clamped under R162. -/
structure ConfigImage where
  source : Strap
  address : Addr
  label : BitVec 16
  notch : List Bool
  margin : Nat
  q : Nat
  path : PathMode
  priority : List Nat
  defaultLevel : Nat
  lifetimes : List Nat
  floor : Nat
  mask : BitVec 14
deriving DecidableEq, Repr

/-- The state of the SUC (chapter 10). -/
structure Suc where
  strap : Strap
  station : StationState
  flashDue : Option Time
  flashRead : Option Time
  image : Option ConfigImage
  address : Option Addr
  label : Option (BitVec 16)
deriving DecidableEq, Repr

end Sys2Proof.Machine
end

