-- ==== Sys2Proof/Machine/Operands.lean ====
section
/-! DEFINITION. The formats of chapter 11 and the operand forms of the commands: bits and bytes, the
three checks, the burst header, the receipt, the block, the map notice, the management envelope and
the configuration block. -/

namespace Sys2Proof.Machine

/-! ### Numbers, bits and bytes (R169) -/

/-- A number in `w` bits, most significant bit first. -/
def natBits (w n : Nat) : List Bool := (List.range w).map fun i => n.testBit (w - 1 - i)

/-- The number that bits spell, most significant bit first. -/
def bitsNat (bs : List Bool) : Nat := bs.foldl (fun a b => 2 * a + b.toNat) 0

/-- A number in `k` bytes, most significant byte first. -/
def natBytes (k n : Nat) : List Byte :=
  (List.range k).map fun i => BitVec.ofNat 8 (n >>> (8 * (k - 1 - i)))

/-- The number that bytes spell, most significant byte first. -/
def bytesNat (bs : List Byte) : Nat := bs.foldl (fun a b => 256 * a + b.toNat) 0

/-- The bits of bytes, each byte most significant bit first. -/
def bytesBits (bs : List Byte) : List Bool := bs.flatMap fun b => natBits 8 b.toNat

/-- The bits of bytes, each byte least significant bit first. -/
def bytesBitsLsb (bs : List Byte) : List Bool := bs.flatMap fun b => (natBits 8 b.toNat).reverse

/-- The byte at `i` of a format whose bytes are numbered from 1. -/
def byteAt (bs : List Byte) (i : Nat) : Byte := bs.getD (i - 1) 0

/-- The number in bytes `i` to `i + k - 1` of a format whose bytes are numbered from 1. -/
def fieldAt (bs : List Byte) (i k : Nat) : Nat := bytesNat ((bs.drop (i - 1)).take k)

/-- A list cut or filled up with `x` to length `n`. -/
def fitTo {α : Type} (n : Nat) (x : α) (l : List α) : List α := (l ++ List.replicate n x).take n

/-- Broadcast: all ones (R169). -/
def broadcastAddr : Addr := BitVec.allOnes 48

/-- The group bit: the lowest bit of the first byte (R169). -/
def isGroup (a : Addr) : Bool := a.getLsbD 40

/-- The six bytes of an address (R169). -/
def addrBytes (a : Addr) : List Byte := natBytes 6 a.toNat

/-- The address in the six bytes from `i`, numbered from 1. -/
def addrAt (bs : List Byte) (i : Nat) : Addr := BitVec.ofNat 48 (fieldAt bs i 6)

/-! ### Checks (R169) -/

/-- One bit into a check register of generator `poly`. -/
def crcBit {w : Nat} (poly : BitVec w) (r : BitVec w) (b : Bool) : BitVec w :=
  if r.msb ^^ b then (r <<< 1) ^^^ poly else r <<< 1

/-- The remainder over bits in the order sent, the register starting at all ones. -/
def crc {w : Nat} (poly : BitVec w) (bits : List Bool) : BitVec w :=
  bits.foldl (crcBit poly) (BitVec.allOnes w)

/-- The 16-bit check: x^16+x^12+x^5+1, no inversion. -/
def crc16 (bits : List Bool) : BitVec 16 := crc 0x1021#16 bits

/-- The 32-bit check of a block over bytes, most significant bit first, inverted. -/
def blockCheck (bs : List Byte) : BitVec 32 := ~~~ (crc 0x04C11DB7#32 (bytesBits bs))

/-- The four check sequence bytes of an Ethernet frame: bytes taken least significant bit first, the
remainder inverted, and its coefficients from x^31 to x^0 placed eight to a byte, the first of each
eight in the least significant bit. -/
def frameCheck (bs : List Byte) : List Byte :=
  let r := (~~~ (crc 0x04C11DB7#32 (bytesBitsLsb bs))).toNat
  let bits := natBits 32 r
  (List.range 4).map fun i => BitVec.ofNat 8 (bitsNat ((bits.drop (8 * i)).take 8).reverse)

/-- A frame's last four bytes are the check sequence of the bytes before them (R144, R145). -/
def frameCheckOk (bs : List Byte) : Bool :=
  decide (4 ≤ bs.length) && (bs.drop (bs.length - 4) == frameCheck (bs.take (bs.length - 4)))

/-! ### Maps (R24, R25, R26) -/

/-- Raw bits per symbol of a window map. -/
def rawBits (loads : List Nat) : Nat := 16 * loads.sum

/-- Data bits per symbol of a window map: floor(3R/4). -/
def dataBits (loads : List Nat) : Nat := 3 * rawBits loads / 4

/-- Data bits per symbol of the robust map: 2 × G_on. -/
def robustBits (gOn : Nat) : Nat := 2 * gOn

/-- Data bits per symbol of a map at `gOn` groups (R24, R25). -/
def PayloadMap.bits (gOn : Nat) : PayloadMap → Nat
  | .robust => robustBits gOn
  | .window loads => Machine.dataBits loads

/-- Groups the notch mask leaves on (R20). -/
def groupsOn (notch : List Bool) : Nat := (notch.filter (fun n => !n)).length

/-- Blocks that K symbols carry at D data bits per symbol: floor(K × D / 1088). -/
def blocksCarried (symbols d : Nat) : Nat := symbols * d / blockBits

/-- Symbols that n blocks need at D data bits per symbol: ceil(n × 1088 / D). -/
def symbolsNeeded (n d : Nat) : Nat := (n * blockBits + d - 1) / d

/-- The receipt limit min(48, 2 × G_on − 66) (R27). -/
def receiptLimit (gOn : Nat) : Nat := min maxBlocks (2 * gOn - 66)

/-! ### The burst header (R28, R170) -/

/-- The bits of a header before its check. -/
def headerFields (h : Header) : List Bool :=
  natBits 16 h.label.toNat ++ natBits 48 h.sender.toNat ++ natBits 48 h.dest.toNat ++
  (match h.stamp with
   | some p => true :: natBits 11 p
   | none => false :: natBits 11 0) ++
  (match h.selector with
   | .robust => true :: natBits 6 0
   | .slot s v => false :: (natBits 2 s ++ natBits 4 v)) ++
  natBits 5 h.symbols ++ natBits 6 h.blocks

/-- The 158 bits of a header with its check. -/
def encodeHeader (h : Header) : List Bool :=
  headerFields h ++ natBits 16 (crc16 (headerFields h)).toNat

/-- The data bits of the two header symbols: the first 4 × G_on bits, zeros after the check (R27). -/
def headerSymbols (gOn : Nat) (h : Header) : List Bool := fitTo (4 * gOn) false (encodeHeader h)

/-- The number in bits `i` to `i + k - 1` of a bit stream, numbered from 0. -/
def bitsAt (bs : List Bool) (i k : Nat) : Nat := bitsNat ((bs.drop i).take k)

/-- The fields of a header, read from its first 142 bits. -/
def readHeader (bs : List Bool) : Header where
  label := BitVec.ofNat 16 (bitsAt bs 0 16)
  sender := BitVec.ofNat 48 (bitsAt bs 16 48)
  dest := BitVec.ofNat 48 (bitsAt bs 64 48)
  stamp := if bs.getD 112 false then some (bitsAt bs 113 11) else none
  selector :=
    if bs.getD 124 false then .robust else .slot (bitsAt bs 125 2) (bitsAt bs 127 4)
  symbols := bitsAt bs 131 5
  blocks := bitsAt bs 136 6

/-- The ranges of R29 hold: otherwise the header is malformed. -/
def headerWellFormed (h : Header) : Bool :=
  decide (1 ≤ h.symbols) && decide (h.symbols ≤ maxSymbols) && decide (1 ≤ h.blocks) &&
  decide (h.blocks ≤ maxBlocks) && (match h.stamp with | some p => decide (p ≤ 1199) | none => true) &&
  (h.dest != h.sender)

/-- A header decoded from the data bits of the two header symbols at `gOn` groups: the check passes
and the header is well formed (R24, R27, R29). -/
def decodeHeader (gOn : Nat) (bits : List Bool) : Option Header :=
  let bs := bits.take (4 * gOn)
  if headerBits ≤ bs.length ∧ bitsAt bs headerCovered 16 = (crc16 (bs.take headerCovered)).toNat ∧
      headerWellFormed (readHeader bs) = true
  then some (readHeader bs) else none

/-- The declared free instant of a header (R19, R33). -/
def declaredFree (start : Time) (h : Header) : Time :=
  start + BitVec.ofNat 32
    ((if h.dest = broadcastAddr then payloadOffset else receiptEndOffset) + symbolTime * h.symbols)

/-! ### The receipt (R34, R170) -/

/-- The bits of a receipt before its check. -/
def receiptFields (address : Addr) (r : Receipt) : List Bool :=
  natBits 48 address.toNat ++ [decide (r.result = .mapUnknown), r.bufferShort] ++
  (match r.result with | .received => r.bitmap | .mapUnknown => [])

/-- The data bits of a receipt's robust symbol: the receipt, its check, and zeros (R34). A burst whose
header declares more blocks than the receipt limit of R27 asks for a receipt that does not fit: it is
cut at the symbol's 2 × G_on bits. DESIGN CHOICE: log entry 36. -/
def receiptSymbol (gOn : Nat) (address : Addr) (r : Receipt) : List Bool :=
  fitTo (2 * gOn) false
    (receiptFields address r ++ natBits 16 (crc16 (receiptFields address r)).toNat)

/-- A receipt read by a sender whose burst had `n` blocks for `address`: the check passes where the
result bit places it, and the receiver address is the destination (R35, R170). -/
def decodeReceipt (gOn : Nat) (address : Addr) (n : Nat) (bits : List Bool) : Option Receipt :=
  let bs := bits.take (2 * gOn)
  let unknown := bs.getD 48 false
  let covered := if unknown then 50 else 50 + n
  if covered + 16 ≤ bs.length ∧ bitsAt bs covered 16 = (crc16 (bs.take covered)).toNat ∧
      bitsAt bs 0 48 = address.toNat
  then some
    { result := if unknown then .mapUnknown else .received
      bufferShort := bs.getD 49 false
      bitmap := if unknown then [] else (bs.drop 50).take n }
  else none

/-! ### The block (R26, R171) -/

/-- The four bytes of a block header. -/
def encodeBlockHeader (h : BlockHeader) : List Byte :=
  [BitVec.ofNat 8 ((match h.kind with | .data => 0 | .notice => 128) + 16 * h.level),
   BitVec.ofNat 8 h.tag, BitVec.ofNat 8 (16 * h.index + h.total), BitVec.ofNat 8 (h.last - 1)]

/-- The block header in the first four bytes of a block. -/
def readBlockHeader (bs : List Byte) : BlockHeader where
  kind := if (byteAt bs 1).getLsbD 7 then .notice else .data
  level := (byteAt bs 1).toNat / 16 % 8
  tag := (byteAt bs 2).toNat
  index := (byteAt bs 3).toNat / 16
  total := (byteAt bs 3).toNat % 16
  last := (byteAt bs 4).toNat % 128 + 1

/-- The payload of block `j` (from 0) of a frame: 128 bytes, zeros after the frame's last byte. -/
def blockBytes (frame : List Byte) (j : Nat) : List Byte :=
  fitTo blockPayload 0 ((frame.drop (blockPayload * j)).take blockPayload)

/-- Blocks of a frame of `length` bytes: ceil(length / 128). -/
def blocksOf (length : Nat) : Nat := (length + blockPayload - 1) / blockPayload

/-- The 136 bytes of a block on the line. -/
def encodeBlock (h : BlockHeader) (payload : List Byte) : List Byte :=
  let body := encodeBlockHeader h ++ payload
  body ++ natBytes 4 (blockCheck body).toNat

/-- The CRC-32 of a block's 136 bytes matches (R26, R31). -/
def blockIntact (bs : List Byte) : Bool :=
  decide (bs.length = 136) && decide (fieldAt bs 133 4 = (blockCheck (bs.take 132)).toNat)

/-- The payload bytes of a block. -/
def blockPayloadOf (bs : List Byte) : List Byte := (bs.drop 4).take blockPayload

/-- Length of the frame a block header implies (8.2). -/
def impliedLength (h : BlockHeader) : Nat := (h.total - 1) * blockPayload + h.last

/-- The tests of R129 that a block header passes when the block is sound; `bcast`: the burst is
broadcast. -/
def blockSound (h : BlockHeader) (bcast : Bool) : Bool :=
  decide (1 ≤ h.index) && decide (h.index ≤ 12) && decide (1 ≤ h.total) && decide (h.total ≤ 12) &&
  decide (h.index ≤ h.total) &&
  (match h.kind with
   | .data => decide (minFrame ≤ impliedLength h) && decide (impliedLength h ≤ maxFrame)
   | .notice => decide (h.level = 0) && decide (h.total = 2) && decide (h.last = 12) && !bcast)

/-- The payload bits of a burst: its blocks back to back, then zeros to K × D bits (R26). -/
def payloadBits (symbols d : Nat) (blocks : List (List Byte)) : List Bool :=
  fitTo (symbols * d) false (blocks.flatMap bytesBits)

/-! ### The map notice (R90, R171) -/

/-- A slot record of 32 bytes. -/
def slotRecord : Option VersionedMap → List Byte
  | none => List.replicate 32 0
  | some m => 1 :: BitVec.ofNat 8 m.version ::
      (List.range 30).map fun k =>
        BitVec.ofNat 8 (16 * m.loads.getD (2 * k) 0 + m.loads.getD (2 * k + 1) 0)

/-- The map of a slot record: present when its first byte is 1. -/
def readSlotRecord (bs : List Byte) : Option VersionedMap :=
  if byteAt bs 1 = 1 then
    some { version := (byteAt bs 2).toNat
           loads := (List.range groupCount).map fun g =>
             let b := (byteAt bs (3 + g / 2)).toNat
             if g % 2 = 0 then b / 16 else b % 16 }
  else none

/-- The byte of a window list entry: the slot, or 4 for ROBUST. -/
def windowByte : Option Nat → Byte
  | some s => BitVec.ofNat 8 s
  | none => 4

/-- The 140 bytes of a map notice. -/
def encodeNotice (windows : WindowList) (slots : List (Option VersionedMap)) : List Byte :=
  windows.map windowByte ++ slots.flatMap slotRecord

/-- The window list and slot maps of a notice; a window entry above 3 is ROBUST (R171). -/
def readNotice (bs : List Byte) : WindowList × List (Option VersionedMap) :=
  ((List.range windowCount).map fun w =>
      let b := (byteAt bs (w + 1)).toNat
      if b < slotCount then some b else none,
   (List.range slotCount).map fun s => readSlotRecord ((bs.drop (12 + 32 * s)).take 32))

/-- R93: a present slot with a version above 15, a loading above 10, or a loading other than 0 on a
group notched here makes the notice rejected. -/
def noticeRejected (notch : List Bool) (slots : List (Option VersionedMap)) : Bool :=
  slots.any fun s => match s with
    | none => false
    | some m => decide (15 < m.version) || m.loads.any (fun b => decide (10 < b)) ||
        (List.range groupCount).any fun g => notch.getD g false && (m.loads.getD g 0 != 0)

/-- R94: the window list as it is settled at install. -/
def settleWindows (gOn : Nat) (slots : List (Option VersionedMap)) (ws : WindowList) : WindowList :=
  ws.map fun w => match w with
    | none => none
    | some s => match slots.getD s none with
      | none => none
      | some m => if dataBits m.loads ≤ robustBits gOn then none else some s

/-! ### Management frames (R146, R172) -/

/-- Request codes (R172). -/
def codeIdentify : Byte := 0x01
/-- The code of STATUS. -/
def codeStatus : Byte := 0x02
/-- The code of EVENT MASK. -/
def codeEventMask : Byte := 0x03
/-- The code of FLOOR. -/
def codeFloor : Byte := 0x04
/-- The code of PEER LIST. -/
def codePeerList : Byte := 0x05
/-- The code of PEER DETAIL. -/
def codePeerDetail : Byte := 0x06
/-- The code of CONFIG LOAD. -/
def codeConfigLoad : Byte := 0x07
/-- The code of RESTART. -/
def codeRestart : Byte := 0x08

/-- The code names a request (R172). -/
def codeKnown (c : Byte) : Bool := decide (1 ≤ c.toNat) && decide (c.toNat ≤ 8)

/-- The EtherType position, bytes 13..14. -/
def etherType (bs : List Byte) : Nat := fieldAt bs 13 2

/-- A request read from a diverted frame: the bytes from 20 up to the check sequence are present as
arguments. -/
def readRequest (bs : List Byte) : Request where
  source := addrAt bs 7
  code := byteAt bs 15
  sequence := fieldAt bs 16 2
  argLength := fieldAt bs 18 2
  args := (bs.take (bs.length - 4)).drop 19

/-- The argument length fits the bytes present and covers the `need` bytes the request needs; otherwise
BAD_ARGUMENT (R164, R172). -/
def argsOk (r : Request) (need : Nat) : Bool :=
  decide (r.argLength ≤ r.args.length) && decide (need ≤ r.argLength)

/-- The number of a result code (R172). -/
def resultByte : ResultCode → Byte
  | .ok => 0
  | .unknownRequest => 1
  | .wrongState => 2
  | .badArgument => 3

/-- A reply's bytes before padding and check sequence (R164, R172). -/
def encodeReply (source : Addr) (r : Request) (result : ResultCode) (contents : List Byte) :
    List Byte :=
  addrBytes r.source ++ addrBytes source ++ natBytes 2 managementType ++
  [r.code + 0x80] ++ natBytes 2 r.sequence ++ [resultByte result] ++
  natBytes 2 contents.length ++ contents

/-- A reply as egress sends it: padded with zeros to 60 bytes, with its check sequence (R154). -/
def replyOnWire (bytes : List Byte) : List Byte :=
  let padded := bytes ++ List.replicate (60 - bytes.length) 0
  padded ++ frameCheck padded

/-- A 14-event selection or mask in two bytes: bits 14 and 15 are ignored (R169). -/
def eventBits (n : Nat) : BitVec 14 := BitVec.ofNat 14 n

/-! ### The configuration block (R162, R173) -/

/-- The notch mask of a configuration block: 60 groups. -/
def readNotch (bs : List Byte) : List Bool :=
  (List.range groupCount).map fun g => (byteAt bs (12 + g / 8)).getLsbD (7 - g % 8)

/-- The tests of R162 on a block whose length is given as `len`. -/
def configValid (len : Nat) (bs : List Byte) : Bool :=
  decide (len = 52) && decide (fieldAt bs 1 2 = 0x4E4B) && decide (byteAt bs 3 = 1) &&
  decide (fieldAt bs 51 2 = (crc16 (bytesBits (bs.take 50))).toNat) &&
  !(isGroup (addrAt bs 4)) && decide (0 < groupsOn (readNotch bs))

/-- A value held within a range. -/
def clampTo (lo hi n : Nat) : Nat := min hi (max lo n)

/-- The configuration image of a valid block, its values clamped (R162, R163). -/
def readConfig (source : Strap) (bs : List Byte) : ConfigImage where
  source := source
  address := addrAt bs 4
  label := BitVec.ofNat 16 (fieldAt bs 10 2)
  notch := readNotch bs
  margin := min 40 (byteAt bs 20).toNat
  q := clampTo 2 32 (byteAt bs 21).toNat
  path := if byteAt bs 22 = 1 then .dual else .single
  priority := (List.range levelCount).map fun p => min 7 (byteAt bs (23 + p)).toNat
  defaultLevel := min 7 (byteAt bs 31).toNat
  lifetimes := (List.range levelCount).map fun l => clampTo 1 1000 (fieldAt bs (32 + 2 * l) 2)
  floor := min 7 (byteAt bs 48).toNat
  mask := eventBits (fieldAt bs 49 2)

end Sys2Proof.Machine
end

