-- ==== Sys2Proof/Machine/Signals.lean ====
section
/-! DEFINITION. The symbols of the line (2.2, 2.4): what each group carries when the part sends, and the
data bits that are decoded from symbols heard on the two paths. -/

namespace Sys2Proof.Machine

/-! ### The codes (R24, R25; log entries 33 and 34) -/

/-- The codeword of `n` bits of a symbol's data bits. -/
def codeWord (code : (n : Nat) → Equiv.Perm (BitVec n)) (n : Nat) (data : List Bool) : List Bool :=
  natBits n (code n (BitVec.ofNat n (bitsNat (fitTo n false data)))).toNat

/-- The `k` data bits of a word of `n` bits: those of its codeword, or the decoder's guess. -/
def decodeWord (code : (n : Nat) → Equiv.Perm (BitVec n)) (guess : List Bool → Nat → Bool)
    (n k : Nat) (word : List Bool) : List Bool :=
  let data := natBits n ((code n).symm (BitVec.ofNat n (bitsNat word))).toNat
  if (data.drop k).all (fun b => !b) then data.take k else (List.range k).map (guess word)

/-! ### Symbols without data (R18, R20, R32, R34) -/

/-- Every group that is not notched carries the same signal. -/
def plainSymbol (signal : GroupSignal) (notch : List Bool) : Symbol :=
  notch.map fun n => if n then .silent else signal

/-- A preamble symbol: the fixed pattern on every group that is not notched (R18, R34). -/
def preambleSymbol (notch : List Bool) : Symbol := plainSymbol .preamble notch

/-- The claim signal: energy on every group that is not notched (R20, R32). -/
def claimSymbol (notch : List Bool) : Symbol := plainSymbol .claim notch

/-! ### The robust map (R24) -/

/-- Coded bits of one group, each on four carriers, one bit to a carrier. -/
def repeatFour (coded : List Bool) : List (List Bool) := coded.flatMap fun b => List.replicate 4 [b]

/-- Coded bits placed on the groups that are not notched, four to a group, in group order. -/
def placeRobust : List Bool → List Bool → Symbol
  | [], _ => []
  | true :: notch, coded => .silent :: placeRobust notch coded
  | false :: notch, coded => .carriers (repeatFour (coded.take 4)) :: placeRobust notch (coded.drop 4)

/-- A robust symbol of 2 × G_on data bits (R24). -/
def robustSymbol (notch : List Bool) (data : List Bool) : Symbol :=
  placeRobust notch (codeWord Config.robustCode (4 * groupsOn notch) data)

/-- The coded bit that the four carriers of one repetition give: the bit that each of them gave, otherwise
a free value. -/
def combineFour (carriers : List (List Bool)) : Bool :=
  if carriers = List.replicate 4 [true] then true
  else if carriers = List.replicate 4 [false] then false
  else Config.repeatGuess carriers

/-- The four coded bits of a group from its carriers. A carrier on which nothing was demodulated gives no
bit, and its repetition a free value: the spec is silent on it. DESIGN CHOICE: log entry 33. -/
def groupCoded (carriers : List (List Bool)) : List Bool :=
  (List.range 4).map fun j => combineFour ((List.range 4).map fun k => carriers.getD (4 * j + k) [])

/-- The coded bits of a robust symbol, from the groups that the receiver does not notch. -/
def gatherRobust : List Bool → HeardSymbol → List Bool
  | [], _ => []
  | true :: notch, heard => gatherRobust notch heard.tail
  | false :: notch, heard => groupCoded (heard.headD []) ++ gatherRobust notch heard.tail

/-- The 2 × G_on data bits of a robust symbol, with the receiver's own notch mask (R24). -/
def readRobust (notch : List Bool) (heard : HeardSymbol) : List Bool :=
  decodeWord Config.robustCode Config.robustGuess (4 * groupsOn notch) (robustBits (groupsOn notch))
    (gatherRobust notch heard)

/-! ### Window maps (R20, R25) -/

/-- The loadings in use: 0 on a notched group (R25). -/
def maskLoads (notch : List Bool) (loads : List Nat) : List Nat :=
  notch.zipWith (fun n b => if n then 0 else b) loads

/-- Coded bits placed on the groups with a loading, that many on each of 16 carriers, in group order. -/
def placeLoads : List Nat → List Bool → Symbol
  | [], _ => []
  | 0 :: loads, coded => .silent :: placeLoads loads coded
  | (b + 1) :: loads, coded =>
    .carriers ((List.range 16).map fun k => (coded.drop ((b + 1) * k)).take (b + 1)) ::
      placeLoads loads (coded.drop (16 * (b + 1)))

/-- A payload symbol on a window map (R25). -/
def windowSymbol (notch : List Bool) (loads : List Nat) (data : List Bool) : Symbol :=
  placeLoads (maskLoads notch loads) (codeWord Config.windowCode (rawBits loads) data)

/-- The coded bits of a carrier with loading `b`: what it gave, when that is `b` bits, otherwise free
values. A carrier on which nothing was demodulated gives none: the spec is silent on it. DESIGN CHOICE:
log entry 33. -/
def carrierCoded (b : Nat) (bits : List Bool) : List Bool :=
  if bits.length = b then bits else (List.range b).map (Config.carrierGuess bits)

/-- The coded bits of a payload symbol, from the groups with a loading. -/
def gatherLoads : List Nat → HeardSymbol → List Bool
  | [], _ => []
  | 0 :: loads, heard => gatherLoads loads heard.tail
  | (b + 1) :: loads, heard =>
    ((List.range 16).flatMap fun k => carrierCoded (b + 1) ((heard.headD []).getD k [])) ++
      gatherLoads loads heard.tail

/-- The data bits of a payload symbol on a window map, decoded with the same loadings (R25). -/
def readWindow (notch : List Bool) (loads : List Nat) (heard : HeardSymbol) : List Bool :=
  decodeWord Config.windowCode Config.windowGuess (rawBits loads) (dataBits loads)
    (gatherLoads (maskLoads notch loads) heard)

/-! ### Headers, payloads and receipts -/

/-- A symbol on a map. -/
def mapSymbol (notch : List Bool) (map : PayloadMap) (data : List Bool) : Symbol :=
  match map with
  | .robust => robustSymbol notch data
  | .window loads => windowSymbol notch loads data

/-- The data bits of a symbol on a map. -/
def readSymbol (notch : List Bool) (map : PayloadMap) (heard : HeardSymbol) : List Bool :=
  match map with
  | .robust => readRobust notch heard
  | .window loads => readWindow notch loads heard

/-- Data bits sent as `k` symbols on a map, each taking its D bits of them in order. -/
def mapSymbols (notch : List Bool) (map : PayloadMap) (k : Nat) (data : List Bool) : List Symbol :=
  let d := map.bits (groupsOn notch)
  (List.range k).map fun i => mapSymbol notch map ((data.drop (d * i)).take d)

/-- The bits on each carrier of a group that carries data. -/
def GroupSignal.carrierBits : GroupSignal → List (List Bool)
  | .carriers bits => bits
  | .silent | .preamble | .claim => []

/-- A symbol sent, as a path demodulates it that nothing disturbs. -/
def asHeard (symbol : Symbol) : HeardSymbol := symbol.map GroupSignal.carrierBits

/-- R23: a symbol taken group by group from the chosen path. -/
def fromPaths (choice : List RxPath) (onA onB : HeardSymbol) : HeardSymbol :=
  (List.range groupCount).map fun g =>
    match choice.getD g .a with
    | .a => onA.getD g []
    | .b => onB.getD g []

/-- Symbol `i` (from 0) of the symbols heard, from the chosen paths; one that is not there has nothing
demodulated. -/
def chosenSymbol (choice : List RxPath) (heard : SymbolsHeard) (i : Nat) : HeardSymbol :=
  fromPaths choice (heard.onA.getD i []) (heard.onB.getD i [])

/-- The data bits of the first `k` symbols heard on a map. -/
def readSymbols (notch : List Bool) (map : PayloadMap) (choice : List RxPath) (k : Nat)
    (heard : SymbolsHeard) : List Bool :=
  (List.range k).flatMap fun i => readSymbol notch map (chosenSymbol choice heard i)

/-- A map uses group `g`: it is not notched, and has a loading where the map gives one (R24, R25). -/
def groupUsed (notch : List Bool) (map : PayloadMap) (g : Nat) : Bool :=
  !notch.getD g false && (match map with | .robust => true | .window loads => loads.getD g 0 != 0)

/-- The line was silent in a symbol: no carrier of any group that the map uses gave a bit on the path chosen
for it. -/
def symbolSilent (notch : List Bool) (map : PayloadMap) (heard : HeardSymbol) : Bool :=
  (List.range groupCount).all fun g =>
    !groupUsed notch map g || (heard.getD g []).all fun c => c.isEmpty

/-- R24, R27, R29: whether a header of a station with this notch mask can be decoded here: the mask is the
receiver's own, and leaves the header the 40 groups it needs. -/
def headerReadable (m : Lmd) (senderNotch : List Bool) : Bool :=
  decide (senderNotch = m.notch) && decide (40 ≤ groupsOn senderNotch)

/-- R23, R24, R27, R29: the header decoded from the two header symbols, if one is. A burst that ends before
its two symbols have, so that one of them is silent, has no header decoded. DEDUCED: log entry 39. -/
def headerHeard (m : Lmd) (b : BurstInHand) (heard : HeaderHeard) : Option Header :=
  if !headerReadable m heard.senderNotch ||
      (List.range 2).any fun i =>
        symbolSilent m.notch .robust (chosenSymbol b.choice heard.toSymbolsHeard i) then none
  else decodeHeader (groupsOn m.notch) (readSymbols m.notch .robust b.choice 2 heard.toSymbolsHeard)

/-- R128: the payload has gone silent in a symbol that holds bits of block `j` (from 1) of the burst in
hand, whether or not a later symbol is heard: the spec gives no test for it. DESIGN CHOICE: log entry 40.
-/
def blockSilent (m : Lmd) (b : BurstInHand) (h : Header) (j : Nat) (heard : SymbolsHeard) : Bool :=
  (List.range h.symbols).any fun i =>
    decide (i * b.dataBits < blockBits * j) && decide (blockBits * (j - 1) < (i + 1) * b.dataBits) &&
      symbolSilent m.notch b.map (chosenSymbol b.choice heard i)

/-- R23, R26, R31: the 136 bytes of block `j` (from 1) of the burst in hand, from its payload symbols. -/
def blockHeard (m : Lmd) (b : BurstInHand) (h : Header) (j : Nat) (heard : SymbolsHeard) : List Byte :=
  let bits := readSymbols m.notch b.map b.choice h.symbols heard
  (List.range 136).map fun k => BitVec.ofNat 8 (bitsAt bits (blockBits * (j - 1) + 8 * k) 8)

end Sys2Proof.Machine
end

