-- ==== Sys2Proof/Machine/Resets.lean ====
section
/-! DEFINITION. The value of each block's state after hardware reset, and of each record when it is
claimed. RESTART gives every block but the LCU the same values. -/

namespace Sys2Proof.Machine

/-- R17. -/
def resetLcu : Lcu where
  accepted := .unsettled
  runLevel := Config.resetRunLevel
  runLength := 0
  runStart := Config.resetRunStart
  q := 8
  lock := .noLine
  p16 := 0
  tPrev := none
  accCount := 0
  tLast := none
  latchStart := 0
  latchPhase := none
  latchP16 := 0

/-- R20, R21, R36. -/
def resetLmd : Lmd where
  activity := .off
  notch := List.replicate groupCount false
  path := .single
  inHand := none
  expect := none
  lineOut := .silent
  energy := none
  lastEnergy := none
  quietFrom := Config.resetModemTime
  listenFrom := none
  receiptStart := Config.resetModemTime

/-- R52. -/
def resetClc : Clc where
  medium := .sensedBusy
  claim := .none
  markStart := none
  word := none
  level := none
  freeInstant := none
  occupancyEnd := none
  quietFlag := false
  rng := 1
  lastLevel := none
  lostStreak := 0
  waited := false
  markListen := false
  lossCounted := false

/-- R54, R66. -/
def resetPeers : List (Option Peer) := List.replicate peerCount none

/-- R75, R89. -/
def resetLae : Lae where
  margin := 16
  reviews := List.replicate peerCount none

/-- R110, R126. -/
def resetTsc : Tsc where
  queues := List.replicate levelCount []
  active := none
  stack := []
  floor := 7
  lifetimes := [20, 40, 60, 100, 200, 300, 500, 1000]
  bcastTags := List.replicate levelCount 0
  prospective := none
  onLine := none

/-- R126, R143. -/
def resetBpm : Bpm where
  txFree := txBlocks
  txDesc := dataDescriptors
  ctlFree := controlBlocks
  ctlDesc := noticeDescriptors
  rxFree := rxBlocks

/-- R143. -/
def resetRxa : Rxa where
  table := List.replicate entryCount none
  service := none

/-- R148, R157. That no receive data is under way is the model's choice, for `State.reset` alone: a reset
leaves it as the port has it. DESIGN CHOICE: log entry 38. -/
def resetPtu : Ptu where
  ingress := none
  priority := [7, 6, 5, 4, 3, 2, 1, 0]
  defaultLevel := 4
  fwd := List.replicate forwardCount none
  fifo := []
  slot := []
  egress := .idle
  pauseEnd := none
  txError := false
  receiving := false

/-- 10.5: every station counter is 0. -/
def resetCounters : Counters where
  spuriousCrossings := 0
  undecodedBursts := 0
  foreignBursts := 0
  claimsWon := 0
  claimsLost := 0
  unlearnedBursts := 0
  framesReleased := 0
  noticesRejected := 0
  levels := List.replicate levelCount ⟨0, 0, 0, 0⟩
  lineDelivered := 0
  egressOverflows := 0
  abandoned := 0
  bufferRefusals := 0
  portReceived := 0
  portErrors := 0
  portControl := 0
  portToStation := 0
  portOffline := 0
  managementLost := 0
  forwardReplacements := 0
  portSent := 0
  repliesSent := 0
  requestsDropped := 0

/-- The mask after reset enables CONFIG_INVALID, bit 12, alone (R158, R169). -/
def resetMask : BitVec 14 := 1#14 <<< 12

/-- R158, R168. -/
def resetMgu : Mgu where
  queue := []
  service := none
  restart := .none
  flags := 0
  mask := resetMask
  counters := resetCounters
  attn := false

/-- R158: the station state follows from the strap sample; `due` is the instant of the flash read of
a FLASH sample. -/
def resetSuc (strap : Strap) (due : Time) : Suc where
  strap := strap
  station := match strap with | .flash => .config | .port => .configWait
  flashDue := match strap with | .flash => some due | .port => none
  flashRead := none
  image := none
  address := none
  label := none

/-- A window of a store that nothing was filed into (4.1). -/
def emptyWindow : WindowStore where
  count := 0
  groups := List.replicate groupCount ⟨0, 0⟩

/-- A record when it is claimed at `now` for a sender (4.1, R56). -/
def claimedPeer (address : Addr) (now : Time) (addressedHere : Bool) : Peer where
  address := address
  lastHeard := now
  lastUnicast := if addressedHere then some now else none
  txMaps := none
  fallback := 0
  nextTag := List.replicate levelCount 0
  store := List.replicate windowCount emptyWindow
  filings := 0
  rxMaps := List.replicate slotCount ⟨none, none⟩
  announced := List.replicate windowCount none
  lastNotice := none
  noticePending := false
  robustResend := none
  recent := []
  counters := ⟨0, 0, 0, 0, 0, 0, 0⟩
  deferred := false

end Sys2Proof.Machine
end

