-- ==== Sys2Proof/Machine/State.lean ====
section
/-! DEFINITION. The state of the part, the reasons a step can stop, and the state after hardware
reset. -/

namespace Sys2Proof.Machine

/-- No command of the part faults: the spec gives every error an effect (a counter, an event flag, a
result code), so there is no constructor. Safe: nothing stops. -/
inductive Fault where
deriving DecidableEq, Repr

/-- Reasons for which a command is refused. -/
inductive Refusal where
  /-- Raised by `exec` in the arm of a command that has no meaning yet; no arm does. Safe: the
  machine stops where the part goes on. -/
  | notModelled (mnemonic : String)
deriving DecidableEq, Repr

/-- The state of the part, one field for each block of 00_scope.md, with the time base, the NRST
input and the queue of waiting commands. -/
structure State where
  /-- The time base (00_scope.md, Conventions). -/
  now : Time
  /-- NRST is held low (R158). -/
  nrstLow : Bool
  /-- Line-Cycle Unit. -/
  lcu : Lcu
  /-- Line Modem. -/
  lmd : Lmd
  /-- Claim Controller. -/
  clc : Clc
  /-- Peer Table: records 1..16, `none` for FREE. -/
  peers : List (Option Peer)
  /-- Link Adaptation Engine. -/
  lae : Lae
  /-- Transmit Scheduler. -/
  tsc : Tsc
  /-- Block Pool Manager. -/
  bpm : Bpm
  /-- Receive Assembler. -/
  rxa : Rxa
  /-- Port Unit. -/
  ptu : Ptu
  /-- Management Unit. -/
  mgu : Mgu
  /-- Start-up Controller. -/
  suc : Suc
  /-- Commands waiting to be taken, first in, first out. The model's own (log entry 1). -/
  pending : List Instr
deriving DecidableEq, Repr

/-- The part right after hardware reset (R158), with the strap and the time base of `Config` (log
entry 5). -/
def State.reset : State where
  now := Config.resetTime
  nrstLow := false
  lcu := resetLcu
  lmd := resetLmd
  clc := resetClc
  peers := resetPeers
  lae := resetLae
  tsc := resetTsc
  bpm := resetBpm
  rxa := resetRxa
  ptu := resetPtu
  mgu := resetMgu
  suc := resetSuc Config.resetStrap (Config.resetTime + BitVec.ofNat 32 flashDelay)
  pending := []

end Sys2Proof.Machine
end

