-- ==== Sys2Proof/Machine/Ops.lean ====
section
/-! DEFINITION. Operations every block uses: time, taking a command, updates of one block's state,
access by number to tables, records and lists. -/

namespace Sys2Proof.Machine

/-! ### Time (00_scope.md, Conventions; log entry 4) -/

/-- The interval from one time to a later one, modulo 2^32. -/
def elapsed (since now : Time) : Nat := (now - since).toNat

/-- An instant `n` µs after another. -/
def after (t : Time) (n : Nat) : Time := t + BitVec.ofNat 32 n

/-- The time base `now` has reached an instant: it lies in the half of the time base from it on. -/
def reached (now instant : Time) : Bool := decide (elapsed instant now < 2147483648)

/-- The later of two instants (R47). -/
def laterOf (a b : Time) : Time := if reached b a then b else a

/-! ### Taking a command -/

/-- A command is taken at `t`: the time base is there; while NRST is held low no event is taken
(R158), otherwise the command has its effect. -/
def taking (t : Time) (effect : State → State) (s : State) :
    Host.Outcome State Fault Refusal :=
  .next (if s.nrstLow then { s with now := t } else effect { s with now := t })

/-! ### Updates of one block's state -/

/-- Change the LCU's state. -/
def State.mapLcu (f : Lcu → Lcu) (s : State) : State := { s with lcu := f s.lcu }
/-- Change the LMD's state. -/
def State.mapLmd (f : Lmd → Lmd) (s : State) : State := { s with lmd := f s.lmd }
/-- Change the CLC's state. -/
def State.mapClc (f : Clc → Clc) (s : State) : State := { s with clc := f s.clc }
/-- Change the peer records. -/
def State.mapPeers (f : List (Option Peer) → List (Option Peer)) (s : State) : State :=
  { s with peers := f s.peers }
/-- Change the LAE's state. -/
def State.mapLae (f : Lae → Lae) (s : State) : State := { s with lae := f s.lae }
/-- Change the TSC's state. -/
def State.mapTsc (f : Tsc → Tsc) (s : State) : State := { s with tsc := f s.tsc }
/-- Change the BPM's state. -/
def State.mapBpm (f : Bpm → Bpm) (s : State) : State := { s with bpm := f s.bpm }
/-- Change the RXA's state. -/
def State.mapRxa (f : Rxa → Rxa) (s : State) : State := { s with rxa := f s.rxa }
/-- Change the PTU's state. -/
def State.mapPtu (f : Ptu → Ptu) (s : State) : State := { s with ptu := f s.ptu }
/-- Change the MGU's state. -/
def State.mapMgu (f : Mgu → Mgu) (s : State) : State := { s with mgu := f s.mgu }
/-- Change the SUC's state. -/
def State.mapSuc (f : Suc → Suc) (s : State) : State := { s with suc := f s.suc }

/-! ### Tables with positions numbered from 1, and lists numbered from 0 -/

/-- What stands at position `i` (from 1) of a table. -/
def tableGet {α : Type} (l : List (Option α)) : Nat → Option α
  | 0 => none
  | k + 1 => (l[k]?).join

/-- The table with `x` at position `i` (from 1). -/
def tableSet {α : Type} (l : List (Option α)) (i : Nat) (x : Option α) : List (Option α) :=
  match i with
  | 0 => l
  | k + 1 => l.set k x

/-- The lowest vacant position (from 1). -/
def lowestVacant {α : Type} (l : List (Option α)) : Option Nat :=
  (l.findIdx? (fun x => x.isNone)).map (· + 1)

/-- The entries of a table with their positions (from 1), in order. -/
def tableEntries {α : Type} (l : List (Option α)) : List (Nat × α) :=
  (l.zipIdx).filterMap fun (x, k) => x.map fun e => (k + 1, e)

/-- The lowest position whose entry satisfies `p`. -/
def tableFind {α : Type} (p : α → Bool) (l : List (Option α)) : Option (Nat × α) :=
  (tableEntries l).find? fun e => p e.2

/-- The first of the entries whose time lies furthest back from `now` (R57, R133, R151). -/
def oldestOf {α : Type} (now : Time) (time : α → Time) : List (Nat × α) → Option (Nat × α)
  | [] => none
  | e :: rest => match oldestOf now time rest with
    | none => some e
    | some o => if elapsed (time o.2) now ≤ elapsed (time e.2) now then some e else some o

/-- A list with its element `i` (from 0) changed. -/
def updAt {α : Type} (l : List α) (i : Nat) (f : α → α) : List α :=
  match l[i]? with
  | some x => l.set i (f x)
  | none => l

/-- The ACTIVE record of an index (R54). -/
def State.peer (s : State) (i : Nat) : Option Peer := tableGet s.peers i

/-- Change the record of an index, if it is ACTIVE. -/
def State.mapPeer (i : Nat) (f : Peer → Peer) (s : State) : State :=
  match s.peer i with
  | some p => s.mapPeers fun l => tableSet l i (some (f p))
  | none => s

/-- Groups left on by this station's notch mask (R20). -/
def State.gOn (s : State) : Nat := groupsOn s.lmd.notch

/-- The station is ONLINE (10.2). -/
def State.isOnline (s : State) : Bool := decide (s.suc.station = .online)

end Sys2Proof.Machine
end

