-- ==== Sys2Proof/Machine/Flags.lean ====
section
/-! DEFINITION. Event flags, ATTN and saturating counters (10.4, 10.5). -/

namespace Sys2Proof.Machine

/-- The bit of an event in a selection, mask or flag word (R169). -/
def Event.index : Event → Nat
  | .lineLocked => 0
  | .lineLost => 1
  | .holdoverEntered => 2
  | .peerLearned => 3
  | .peerReleased => 4
  | .peerTableFull => 5
  | .frameDroppedAdmission => 6
  | .frameExpired => 7
  | .frameRetryLimit => 8
  | .egressOverflow => 9
  | .mapInstalled => 10
  | .mapUnknownSeen => 11
  | .configInvalid => 12
  | .mgmtOverflow => 13

/-- The flag word with one event's flag alone. -/
def Event.bit (e : Event) : BitVec 14 := 1#14 <<< e.index

/-- R168: ATTN is active while a latched flag is enabled. -/
def attnOf (flags mask : BitVec 14) : Bool := decide (flags &&& mask ≠ 0)

/-- Judge ATTN afresh (R168). -/
def judgeAttn (m : Mgu) : Mgu := { m with attn := attnOf m.flags m.mask }

/-- R166: the event's flag becomes latched, and ATTN is judged afresh. -/
def raise (e : Event) (s : State) : State :=
  s.mapMgu fun m => judgeAttn { m with flags := m.flags ||| e.bit }

/-- A 32-bit counter increased by `n`, saturating. -/
def satAdd (n k : Nat) : Nat := min counterMax (k + n)

/-- A 32-bit counter increased by 1, saturating. -/
def satInc (k : Nat) : Nat := satAdd 1 k

/-- Change the station counters (10.5). -/
def count (f : Counters → Counters) (s : State) : State :=
  s.mapMgu fun m => { m with counters := f m.counters }

/-- Change the counters of one level (R126). -/
def countLevel (level : Nat) (f : LevelCounters → LevelCounters) (s : State) : State :=
  count (fun c => { c with levels := updAt c.levels level f }) s

/-- Change the per-peer counters of a record (R64). -/
def countPeer (i : Nat) (f : PeerCounters → PeerCounters) (s : State) : State :=
  s.mapPeer i fun p => { p with counters := f p.counters }

end Sys2Proof.Machine
end

