-- ==== Sys2Proof/Machine/Trains.lean ====
section
/-! DEFINITION. Pools, level queues, trains and the claim decision (R106 to R116). -/

namespace Sys2Proof.Machine

/-! ### Frames and where they stand (R106) -/

/-- The frame holds this descriptor. -/
def Frame.holds (f : Frame) (kind : FrameKind) (desc : Nat) : Bool :=
  decide (f.kind = kind) && decide (f.desc = desc)

/-- Every frame the TSC holds: in the level queues, the active train and the stack. -/
def framesHeld (t : Tsc) : List Frame :=
  t.queues.flatten ++ (match t.active with | some a => a.frames | none => []) ++
  t.stack.flatMap (fun r => r.frames)

/-- The lowest descriptor number of a kind that no frame holds (log entry 18). -/
def freshDescriptor (kind : FrameKind) (t : Tsc) : Nat :=
  let used := ((framesHeld t).filter (fun f => f.kind = kind)).map (fun f => f.desc)
  ((List.range (used.length + 1)).find? (fun n => !used.contains n)).getD used.length

/-- A block as it stands before the first burst that carries it (R112). -/
def freshBlock : FrameBlock := ⟨.pending, false⟩

/-- Return a frame's blocks and descriptor to the pool they came from (R106). -/
def returnToPool (f : Frame) (b : Bpm) : Bpm :=
  match f.kind with
  | .data => { b with txFree := b.txFree + f.blocks.length, txDesc := b.txDesc + 1 }
  | .notice => { b with ctlFree := b.ctlFree + f.blocks.length, ctlDesc := b.ctlDesc + 1 }

/-- A frame is freed (R106). -/
def freeFrame (s : State) (f : Frame) : State := s.mapBpm (returnToPool f)

/-- The frame waits for a peer. -/
def Frame.isFor (f : Frame) (i : Nat) : Bool := decide (f.dest = .peer i)

/-- Queue `l` of the scheduler. -/
def queueAt (t : Tsc) (l : Nat) : List Frame := t.queues.getD l []

/-! ### Prospective claim level (R113) -/

/-- The smallest level at or below the floor whose queue is non-empty. -/
def topQueue (t : Tsc) : Option Nat :=
  (List.range levelCount).find? fun l => decide (l ≤ t.floor) && !(queueAt t l).isEmpty

/-- The active train's level, when it is at or below the floor. -/
def activeClaim (t : Tsc) : Option Nat :=
  match t.active with
  | some a => if a.level ≤ t.floor then some a.level else none
  | none => none

/-- R113: a level to form a train at, when the next claim decision forms one. -/
def newTrainLevel (t : Tsc) : Option Nat :=
  match topQueue t, t.active with
  | some l, none => some l
  | some l, some a => if l < a.level then some l else none
  | none, _ => none

/-- R113: the prospective claim level. -/
def prospectiveLevel (t : Tsc) : Option Nat :=
  match newTrainLevel t with
  | some l => some l
  | none => activeClaim t

/-! ### Train formation (R112) -/

/-- Up to `n` frames from the head of a queue with the same destination, and the rest. -/
def takeTrain (dest : Dest) : Nat → List Frame → List Frame × List Frame
  | 0, q => ([], q)
  | _ + 1, [] => ([], [])
  | n + 1, f :: q =>
    if f.dest = dest then
      let r := takeTrain dest n q
      (f :: r.1, r.2)
    else ([], f :: q)

/-- Give frames their tags in train order from the counter value `tag`, each block PENDING. -/
def tagFrames (tag : Nat) : List Frame → List Frame
  | [] => []
  | f :: fs =>
    { f with tag := some tag, blocks := f.blocks.map (fun _ => freshBlock), attempts := 0 } ::
      tagFrames ((tag + 1) % 256) fs

/-- The tag counter of a destination and level (R112). -/
def tagCounter (s : State) (dest : Dest) (l : Nat) : Nat :=
  match dest with
  | .broadcast => s.tsc.bcastTags.getD l 0
  | .peer i => match s.peer i with
    | some p => p.nextTag.getD l 0
    | none => 0

/-- Move the tag counter of a destination and level on by `n`, wrapping after 255 (R63, R112). -/
def advanceTags (dest : Dest) (l n : Nat) (s : State) : State :=
  match dest with
  | .broadcast => s.mapTsc fun t => { t with bcastTags := updAt t.bcastTags l fun k => (k + n) % 256 }
  | .peer i => s.mapPeer i fun p => { p with nextTag := updAt p.nextTag l fun k => (k + n) % 256 }

/-- R112, R114: a train is formed from queue `l` and becomes the active train; an active train is
pushed onto the stack. -/
def formTrain (l : Nat) (s : State) : State :=
  match queueAt s.tsc l with
  | [] => s
  | f :: q =>
    let r := takeTrain f.dest trainFrames (f :: q)
    let train : Train := ⟨l, f.dest, tagFrames (tagCounter s f.dest l) r.1⟩
    advanceTags f.dest l r.1.length (s.mapTsc fun t => { t with
      queues := updAt t.queues l fun _ => r.2
      active := some train
      stack := match t.active with | some a => a :: t.stack | none => t.stack })

/-- R114: the claim decision, its answer, and the prospective level as it then stands. -/
def claimDecision (s : State) : State × Option Nat :=
  let s' := match newTrainLevel s.tsc with
    | some l => formTrain l s
    | none => s
  (s'.mapTsc fun t => { t with prospective := prospectiveLevel t }, prospectiveLevel s.tsc)

/-! ### The resumption stack (R115) -/

/-- R115: a complete active train gives way to the top of the stack. -/
def popIfComplete (t : Tsc) : Tsc :=
  match t.active with
  | some ⟨_, _, []⟩ => match t.stack with
    | [] => { t with active := none }
    | r :: rest => { t with active := some r, stack := rest }
  | _ => t

/-- R115: stacked trains that are complete leave the stack from their places. -/
def purgeStack (t : Tsc) : Tsc :=
  { t with stack := t.stack.filter fun r => !r.frames.isEmpty }

/-- Frames satisfying `p` leave wherever they stand; trains they complete leave too. -/
def dropFrames (p : Frame → Bool) (t : Tsc) : Tsc :=
  let keep := List.filter (fun f => !p f)
  popIfComplete (purgeStack { t with
    queues := t.queues.map keep
    active := t.active.map fun a => { a with frames := keep a.frames }
    stack := t.stack.map fun a => { a with frames := keep a.frames } })

end Sys2Proof.Machine
end

