-- ==== Sys2Proof/Machine/Claim.lean ====
section
/-! DEFINITION. The Claim Controller (chapter 3): energy and quiet, the claim period up to CPE, the
medium states, and the Scheduler's report of its prospective claim level. -/

namespace Sys2Proof.Machine

/-! ### The modem's side of a claim slot (R32) -/

/-- The modem enters LISTEN, and watches for energy from now on. -/
def enterListen (s : State) : State :=
  s.mapLmd fun m => { m with activity := .listen, listenFrom := some s.now }

/-- The modem enters LISTEN from an activity in which its detectors did not watch (log entry 11). -/
def resumeListen (s : State) : State :=
  enterListen (s.mapLmd fun m => { m with energy := none, quietFrom := s.now })

/-- The burst in hand is dropped, with the burst in service opened for it; RECEIVE returns to LISTEN
(R18, R32; log entry 29). -/
def dropBurstInHand (s : State) : State :=
  match s.lmd.inHand with
  | none => s
  | some _ => enterListen
      ((s.mapLmd fun m => { m with inHand := none }).mapRxa fun r => { r with service := none })

/-- The modem sends the claim signal in the slot that begins at `start`; its detectors report nothing
in that slot (R32). -/
def sendClaimSignal (start : Time) (s : State) : State :=
  (dropBurstInHand s).mapLmd fun m => { m with
    lineOut := .claimSignal (claimSymbol m.notch), energy := none
    quietFrom := after start slotTime }

/-- The modem sends nothing. -/
def silence (s : State) : State := s.mapLmd fun m => { m with lineOut := .silent }

/-- The detectors of the enabled paths watch the line (R32). -/
def watching (a : Activity) : Bool :=
  match a with
  | .off | .sendBurst | .sendReceipt => false
  | .listen | .receive | .receiptWait => true

/-- The modem detects and reports: its activity watches the line, and the medium state is not SENDING, in
which R49 has it do neither from CPE on. DESIGN CHOICE where R32 and the table of 2.6.1 keep it in
LISTEN through the turnaround: log entry 35. -/
def State.watches (s : State) : Bool :=
  watching s.lmd.activity && decide (s.clc.medium ≠ .sending)

/-- What the enabled detectors find (R21, R32). -/
def onEnabledPath (p : PathMode) (onA onB : Bool) : Bool :=
  match p with
  | .single => onA
  | .dual => onA || onB

/-! ### The random generator and the claim word (R41, R42) -/

/-- R42: one step; bit `k` of the manual is bit `k − 1` here. -/
def rngStep (r : BitVec 16) : BitVec 16 :=
  (r <<< 1) ||| BitVec.ofNat 16
    (r.getLsbD 15 ^^ r.getLsbD 13 ^^ r.getLsbD 12 ^^ r.getLsbD 10).toNat

/-- R42: four steps. -/
def rngDraw (r : BitVec 16) : BitVec 16 := rngStep (rngStep (rngStep (rngStep r)))

/-- R41: the claim word of a level, the waited flag and a generator that has been advanced. -/
def claimWord (level : Nat) (waited : Bool) (r : BitVec 16) : BitVec 8 :=
  BitVec.ofNat 8 (32 * (7 - level) + 16 * waited.toNat + r.toNat % 16)

/-- R45: at a mark the lost streak becomes 0 when the level differs from the last claim level. -/
def streakAtMark (c : Clc) (level : Nat) : Nat :=
  if c.lastLevel = some level then c.lostStreak else 0

/-- R39, R41, R42, R45: a mark slot starts at `start` for a station claiming at `level`. -/
def startMark (start : Time) (level : Nat) (s : State) : State :=
  sendClaimSignal start (s.mapClc fun c =>
    let r := rngDraw c.rng
    { c with
      medium := .claiming, claim := .contending, markStart := some start
      lostStreak := streakAtMark c level, rng := r
      word := some (claimWord level c.waited r), level := some level, markListen := false
      lossCounted := false })

/-- A claim decision (R37), and the mark slot that a level begins at `start` (R39, R40). -/
def openClaim (start : Time) (s : State) : State :=
  match claimDecision s with
  | (s', some level) => startMark start level s'
  | (s', none) => s'

/-- R113, R40: the TSC computes the prospective claim level afresh and reports a change; in IDLE with
the quiet flag set, a report of a level opens a claim period at once. -/
def recompute (s : State) : State :=
  let p := prospectiveLevel s.tsc
  if p = s.tsc.prospective then s
  else
    let s' := s.mapTsc fun t => { t with prospective := p }
    match p with
    | none => s'
    | some _ =>
      if s'.clc.medium = .idle ∧ s'.clc.quietFlag = true ∧ s'.isOnline = true
      then openClaim s'.now s' else s'

/-! ### The claim period (R43) -/

/-- Offset of `t` in the claim period that started at `m`: the slot, 0 for the mark slot and 1..8 for
the bit slots, and the µs since the slot's start. -/
def slotOf (m t : Time) : Nat × Nat := (elapsed m t / slotTime, elapsed m t % slotTime)

/-- Bit slot `i` carries bit `8 − i` of the word (R41). -/
def slotBit (word : BitVec 8) (i : Nat) : Bool := word.getLsbD (8 - i)

/-- The station sends the claim signal at `t` (R39, R43). -/
def sendsAt (c : Clc) (t : Time) : Bool :=
  match c.medium, c.claim, c.markStart, c.word with
  | .claiming, .contending, some m, some w =>
    let i := (slotOf m t).1
    decide (i = 0) || (decide (i ≤ 8) && slotBit w i)
  | _, _, _, _ => false

/-- The station listens at an offset of a claim period: in a slot of a 0 bit, after its first 6 µs
(R43). -/
def listensIn (w : BitVec 8) (slot : Nat × Nat) : Bool :=
  decide (1 ≤ slot.1) && decide (slot.1 ≤ 8) && !slotBit w slot.1 && decide (listenGuard ≤ slot.2)

/-- R43: energy at `t` puts a station that listens for it OUT. -/
def heardAt (t : Time) (c : Clc) : Clc :=
  match c.medium, c.claim, c.markStart, c.word with
  | .claiming, .contending, some m, some w =>
    if listensIn w (slotOf m t) then { c with claim := .out } else c
  | _, _, _, _ => c

/-- The claim period that another station's energy opens: CLAIMING with claim state NONE. -/
def othersMark (start : Time) (c : Clc) : Clc :=
  { c with
    medium := .claiming, claim := .none, markStart := some start, markListen := false
    lossCounted := false }

/-- The opening instant (R38). -/
def openingOf (c : Clc) : Time := after (c.freeInstant.getD 0) openingDelay

/-- R39: energy in progress up to `t` was reported in the interval of the mark slot in which a station
that is not pending listens. -/
def markHeard (bound : Nat) (t : Time) (c : Clc) : Clc :=
  if c.medium = .gap ∧ c.markListen = true ∧ bound ≤ elapsed (openingOf c) t
  then othersMark (openingOf c) c else c

/-- An energy report in progress up to now reached into a listening interval that has begun (R39,
R43; log entry 10). -/
def lapse (s : State) : State :=
  match s.lmd.energy with
  | some onset =>
    if onset = s.now then s
    else s.mapClc fun c => markHeard (listenGuard + 1) s.now (heardAt (s.now - 1) c)
  | none => s

/-- The CLC takes an energy report at `t`; `onset`: the report begins here (R38 to R40, R43). -/
def energyToClc (t : Time) (onset : Bool) (c : Clc) : Clc :=
  let c := { c with quietFlag := false }
  match c.medium with
  | .idle => if onset then othersMark t c else c
  | .gap =>
    if c.markListen then markHeard listenGuard t c
    else if onset then othersMark t c else c
  | .claiming => heardAt t c
  | .occupied | .sensedBusy | .sending | .awaitReceipt => c

/-- R32, R43: the detectors' report at this instant. Whether the station sends is asked of the claim state
that the energy up to here has left, so that a station OUT does not keep a report back. -/
def energyReport (onA onB : Bool) (s : State) : State :=
  if s.watches = false then s
  else
    let s := lapse s
    if sendsAt s.clc s.now then s
    else if onEnabledPath s.lmd.path onA onB then
      (s.mapLmd fun m => { m with
        energy := some (m.energy.getD s.now), lastEnergy := some s.now }).mapClc
          (energyToClc s.now s.lmd.energy.isNone)
    else if s.lmd.energy.isSome then
      s.mapLmd fun m => { m with energy := none, lastEnergy := some s.now, quietFrom := s.now }
    else s

/-! ### Free instant and medium states (R38, R46, R47) -/

/-- The outcome of a claim period has been taken: claim state NONE; level, word and mark start absent
(R37, R46). -/
def clearClaim (c : Clc) : Clc :=
  { c with
    claim := .none, markStart := none, word := none, level := none, markListen := false
    lossCounted := false }

/-- R38: the free instant of an access. -/
def freeAt (instant : Time) (c : Clc) : Clc :=
  { clearClaim c with medium := .gap, freeInstant := some instant, occupancyEnd := none }

/-- R46, R48: energy that this station cannot read. -/
def sensedBusy (c : Clc) : Clc := { clearClaim c with medium := .sensedBusy }

/-- R47: OCCUPIED until a declared free instant. -/
def occupyUntil (instant : Time) (c : Clc) : Clc :=
  { clearClaim c with medium := .occupied, occupancyEnd := some instant }

/-- The effect of a lost period on the CLC (R45). -/
def lostPeriod (c : Clc) : Clc :=
  let streak := min 255 (c.lostStreak + 1)
  { c with lostStreak := streak, waited := c.waited || decide (streak = 4), lastLevel := c.level }

/-- R45: the period is lost, and the modem sends no more in it. -/
def losePeriod (s : State) : State :=
  silence ((count (fun c => { c with claimsLost := satInc c.claimsLost }) s).mapClc lostPeriod)

/-- The instant lies before CPE of the period under way. -/
def beforeCpe (c : Clc) (t : Time) : Bool :=
  match c.markStart with
  | some m => decide (elapsed m t < claimPeriod)
  | none => false

/-- R45: the station is OUT, and the loss of its period has not been counted yet. -/
def lossOpen (c : Clc) : Bool := decide (c.claim = .out) && !c.lossCounted

/-- R45: the loss of a period is counted by the first outcome that finds a station OUT, if CPE has not
counted it (log entries 14, 16). -/
def settleLoss (s : State) : State := if lossOpen s.clc then losePeriod s else s

/-- R43: energy in progress up to now has put the station OUT (log entry 10). -/
def outByEnergy (s : State) : Bool := decide ((lapse s).clc.claim ≠ s.clc.claim)

/-- R43, R45, R46: a declared free instant takes a station out of the period that is IN before CPE; at CPE
one has lost that energy in progress has put OUT. -/
def takenOut (s : State) : Bool :=
  decide (s.clc.claim = .contending) && (beforeCpe s.clc s.now || outByEnergy s)

/-- R46, R47, R48: a foreign or own-label header declares a free instant. A station contending in the
claim period loses it when the header comes before CPE. At CPE itself, before CLAIM_PERIOD_END is
taken, a station that is OUT has lost (log entry 14), and one that is IN stands (log entry 32). -/
def declaredToClc (instant : Time) (s : State) : State :=
  match s.clc.medium with
  | .idle | .gap | .sensedBusy => s.mapClc (occupyUntil instant)
  | .occupied => s.mapClc fun c =>
      { c with occupancyEnd := some (match c.occupancyEnd with
          | some e => laterOf e instant
          | none => instant) }
  | .claiming =>
    if takenOut s then (losePeriod s).mapClc (occupyUntil instant)
    else if s.clc.claim = .contending then s
    else (settleLoss s).mapClc (occupyUntil instant)
  | .sending | .awaitReceipt => s

/-- R46, R47, R48: an undecoded header outcome. At CPE itself a station that is OUT has lost (log entry
14). -/
def undecodedToClc (s : State) : State :=
  if s.clc.medium = .claiming ∧ beforeCpe s.clc s.now = false then
    if s.clc.claim ≠ .contending then (settleLoss s).mapClc sensedBusy
    else if outByEnergy s then (losePeriod s).mapClc sensedBusy
    else s
  else s

/-! ### Commands of the medium -/

/-- R32, R40, R48: the modem reports quiet. After 100 µs without energy nothing that began before LISTEN
was entered is on the line (R29; log entry 13). -/
def quietReport (s : State) : State :=
  if s.watches = true ∧ s.lmd.energy = none ∧ sendsAt s.clc s.now = false ∧
      quietTime ≤ elapsed s.lmd.quietFrom s.now then
    let s' := (s.mapLmd fun m => { m with listenFrom := none }).mapClc fun c =>
      { c with quietFlag := true }
    match s.clc.medium with
    | .sensedBusy => s'.mapClc (freeAt s.now)
    | .idle => if s.isOnline then openClaim s.now s' else s'
    | _ => s'
  else s

/-- R38: at free instant + 10 µs an energy report still in progress makes the medium SENSED_BUSY. -/
def gapTailCheck (s : State) : State :=
  match s.clc.medium, s.clc.freeInstant with
  | .gap, some f =>
    if reached s.now (after f tailTime) = true ∧ s.clc.markListen = false ∧ s.lmd.energy.isSome = true
    then s.mapClc sensedBusy else s
  | _, _ => s

/-- R39: the opening instant. -/
def openingInstant (s : State) : State :=
  match s.clc.medium, s.clc.freeInstant with
  | .gap, some f =>
    if reached s.now (after f openingDelay) = true ∧ s.clc.markListen = false ∧ s.isOnline = true
    then match claimDecision s with
      | (s', some level) => startMark (after f openingDelay) level s'
      | (s', none) => s'.mapClc fun c => { c with markListen := true }
    else s
  | _, _ => s

/-- R39, R40: nobody has marked by opening instant + 30 µs. -/
def markSlotListenEnd (s : State) : State :=
  if s.clc.medium = .gap ∧ s.clc.markListen = true ∧
      reached s.now (after (openingOf s.clc) slotTime) = true then
    let s := lapse s
    if s.clc.medium = .gap then
      let s := s.mapClc fun c => { c with medium := .idle, markListen := false }
      if s.tsc.prospective.isSome = true ∧ s.clc.quietFlag = true ∧ s.isOnline = true
      then openClaim s.now s else s
    else s
  else s

/-- R43: a bit slot begins. -/
def claimBitSlot (s : State) : State :=
  let s := lapse s
  match s.clc.medium, s.clc.claim, s.clc.markStart, s.clc.word with
  | .claiming, .contending, some m, some w =>
    let i := (slotOf m s.now).1
    if 1 ≤ i ∧ i ≤ 8 then
      if slotBit w i then sendClaimSignal (after m (slotTime * i)) s else silence s
    else s
  | .claiming, .out, _, _ => silence s
  | _, _, _, _ => s

/-- R46: energy has been reported since CPE, and no quiet since that energy. -/
def energySince (s : State) (cpe : Time) : Bool :=
  !s.clc.quietFlag && (s.lmd.energy.isSome || match s.lmd.lastEnergy with
    | some e => decide (elapsed e s.now < elapsed cpe s.now)
    | none => false)

/-- R46: CPE + 200 µs with no header outcome. -/
def hiddenWinnerDeadline (s : State) : State :=
  match s.clc.medium, s.clc.markStart with
  | .claiming, some m =>
    let cpe := after m claimPeriod
    let deadline := after cpe hiddenDelay
    if s.clc.claim ≠ .contending ∧ reached s.now deadline = true then
      (settleLoss s).mapClc (if energySince s cpe then sensedBusy else freeAt deadline)
    else s
  | _, _ => s

/-- R47: the occupancy end is reached. -/
def occupancyEnd (s : State) : State :=
  match s.clc.medium, s.clc.occupancyEnd with
  | .occupied, some e => if reached s.now e then s.mapClc (freeAt e) else s
  | _, _ => s

/-- ENERGY_REPORT (R32, R38 to R40, R43). -/
def execEnergyReport (t : Time) (onA onB : Bool) (s : State) : Host.Outcome State Fault Refusal :=
  taking t (energyReport onA onB) s

/-- QUIET_REPORT (R32, R40, R48, R53). -/
def execQuietReport (t : Time) (s : State) : Host.Outcome State Fault Refusal :=
  taking t quietReport s

/-- GAP_TAIL_CHECK (R38). -/
def execGapTailCheck (t : Time) (s : State) : Host.Outcome State Fault Refusal :=
  taking t gapTailCheck s

/-- OPENING_INSTANT (R37, R39, R41, R114). -/
def execOpeningInstant (t : Time) (s : State) : Host.Outcome State Fault Refusal :=
  taking t openingInstant s

/-- MARK_SLOT_LISTEN_END (R39, R40). -/
def execMarkSlotListenEnd (t : Time) (s : State) : Host.Outcome State Fault Refusal :=
  taking t markSlotListenEnd s

/-- CLAIM_BIT_SLOT (R43). -/
def execClaimBitSlot (t : Time) (s : State) : Host.Outcome State Fault Refusal :=
  taking t claimBitSlot s

/-- HIDDEN_WINNER_DEADLINE (R46). -/
def execHiddenWinnerDeadline (t : Time) (s : State) : Host.Outcome State Fault Refusal :=
  taking t hiddenWinnerDeadline s

/-- OCCUPANCY_END (R47). -/
def execOccupancyEnd (t : Time) (s : State) : Host.Outcome State Fault Refusal :=
  taking t occupancyEnd s

end Sys2Proof.Machine
end

