-- ==== Sys2Proof/Machine/LineCycle.lean ====
section
/-! DEFINITION. The Line-Cycle Unit (chapter 1): the qualifier, the period estimate, the lock states,
the phase and the burst-start latch. -/

namespace Sys2Proof.Machine

/-! ### Period measurement (R3) -/

/-- A measurement is valid (R3). -/
def measureValid (m : Nat) : Bool := decide (15385 ≤ m) && decide (m ≤ 22222)

/-- The smallest period estimate that is not 0 (R3). -/
def p16Min : Nat := 246160

/-- The largest period estimate (R3). -/
def p16Max : Nat := 355552

/-- Two quantities in sixteenths of a µs differ by no more than floor(P16/50) (R3). -/
def withinTolerance (p16 : Nat) (x y : Int) : Bool := decide ((x - y).natAbs ≤ p16 / 50)

/-- A period update with measurement `m` (R3): an eighth of the way, truncated toward zero, clamped. -/
def periodUpdate (p16 m : Nat) : Nat :=
  clampTo p16Min p16Max ((p16 : Int) + ((16 * m : Int) - p16).tdiv 8).toNat

/-! ### Phase (R12) -/

/-- The phase at time `t`: present in LOCKED and HOLDOVER alone. -/
def phaseAt (l : Lcu) (t : Time) : Option Nat :=
  match l.lock, l.tLast with
  | .locked, some t0 => some (elapsed t0 t * 19200 / l.p16 % 1200)
  | .holdover, some t0 => some (elapsed t0 t * 19200 / l.p16 % 1200)
  | _, _ => none

/-- The window of a phase (R12). -/
def windowOf (phase : Nat) : Nat := phase / 100

/-! ### Crossings (R4, R5, R6, R8, R10) -/

/-- R5: a crossing in ACQUIRING that measures `m` from the last one; the new count and P16. -/
def acquireMeasure (l : Lcu) (m : Nat) : Nat × Nat :=
  if measureValid m = false then (0, l.p16)
  else if l.accCount = 0 then (1, 16 * m)
  else if withinTolerance l.p16 (16 * m) l.p16 then (l.accCount + 1, periodUpdate l.p16 m)
  else (1, 16 * m)

/-- R10: the nearest whole number of periods to an interval of `d` µs, halves rounded up. -/
def nearestPeriods (p16 d : Nat) : Nat := (32 * d + p16) / (2 * p16)

/-- A spurious crossing is counted (R8, R10). -/
def spurious (s : State) : State :=
  count (fun c => { c with spuriousCrossings := satInc c.spuriousCrossings }) s

/-- R5, R6: a crossing in ACQUIRING with stamp `t` after one at `t0`. -/
def crossingAcquiring (t0 t : Time) (s : State) : State :=
  let r := acquireMeasure s.lcu (elapsed t0 t)
  if r.1 = 8 then
    raise .lineLocked (s.mapLcu fun l => { l with
      accCount := r.1, p16 := r.2, tPrev := none, tLast := some t, lock := .locked })
  else s.mapLcu fun l => { l with accCount := r.1, p16 := r.2, tPrev := some t }

/-- R8: a crossing in LOCKED with stamp `t`, the origin being `t0`. -/
def crossingLocked (t0 t : Time) (s : State) : State :=
  let m := elapsed t0 t
  if withinTolerance s.lcu.p16 (16 * m) s.lcu.p16 then
    s.mapLcu fun l => { l with p16 := periodUpdate l.p16 m, tLast := some t }
  else spurious s

/-- R10: a crossing in HOLDOVER with stamp `t`, the origin being `t0`. -/
def crossingHoldover (t0 t : Time) (s : State) : State :=
  let d := elapsed t0 t
  let k := nearestPeriods s.lcu.p16 d
  if withinTolerance s.lcu.p16 (16 * d) (k * s.lcu.p16) then
    s.mapLcu fun l => { l with tLast := some t, lock := .locked }
  else spurious s

/-- A qualified crossing with stamp `t` is handled according to the lock state. -/
def crossing (t : Time) (s : State) : State :=
  match s.lcu.lock with
  | .noLine => s.mapLcu fun l => { l with tPrev := some t, accCount := 0, lock := .acquiring }
  | .acquiring => match s.lcu.tPrev with
    | some t0 => crossingAcquiring t0 t s
    | none => s
  | .locked => match s.lcu.tLast with
    | some t0 => crossingLocked t0 t s
    | none => s
  | .holdover => match s.lcu.tLast with
    | some t0 => crossingHoldover t0 t s
    | none => s

/-! ### The qualifier (R1, R2) -/

/-- The level accepted is the level sampled. -/
def acceptedIs : Accepted → ZcLevel → Bool
  | .low, .low => true
  | .high, .high => true
  | _, _ => false

/-- The accepted level that a run of a level gives. -/
def acceptLevel : ZcLevel → Accepted
  | .low => .low
  | .high => .high

/-- R1: what one sample at `t` makes of the candidate run, before acceptance. -/
def sampleRun (t : Time) (level : ZcLevel) (l : Lcu) : Lcu :=
  if acceptedIs l.accepted level then { l with runLength := 0 }
  else if l.runLength = 0 ∨ l.runLevel ≠ level then
    { l with runLength := 1, runStart := t, runLevel := level }
  else { l with runLength := l.runLength + 1 }

/-- The run of the sampled level has reached Q (R1, R2). -/
def runAccepted (l : Lcu) : Bool := decide (1 ≤ l.runLength) && decide (l.q ≤ l.runLength)

/-- R1: one sample of the ZC input. A LOW-to-HIGH acceptance is a qualified crossing stamped with the
run start time. -/
def takeSample (level : ZcLevel) (s : State) : State :=
  let l := sampleRun s.now level s.lcu
  if runAccepted l then
    let s' := s.mapLcu fun _ => { l with accepted := acceptLevel level, runLength := 0 }
    if l.accepted = .low ∧ level = .high then crossing l.runStart s' else s'
  else s.mapLcu fun _ => l

/-- The HIGH sample at this instant brings the candidate run to Q from LOW. -/
def crossingDue (s : State) : Bool :=
  decide (s.lcu.accepted = .low) && runAccepted (sampleRun s.now .high s.lcu)

/-! ### The burst-start latch (R14) -/

/-- R14: the latch for a burst that starts at `start`. -/
def takeLatch (start : Time) (l : Lcu) : Lcu :=
  { l with latchStart := start, latchPhase := phaseAt l start, latchP16 := l.p16 }

/-! ### Instants (R7, R9, R11) -/

/-- R9: the holdover instant. -/
def holdoverAt (t0 : Time) (p16 : Nat) : Time := after t0 (13 * p16 / 200)

/-- R11: the loss instant. -/
def lossAt (t0 : Time) (p16 : Nat) : Time := after t0 (801 * p16 / 400)

/-- R7: 50,000 µs since t_prev without a crossing. -/
def acquiringTimeout (s : State) : State :=
  match s.lcu.lock, s.lcu.tPrev with
  | .acquiring, some t0 =>
    if acquiringLimit ≤ elapsed t0 s.now then
      s.mapLcu fun l => { l with lock := .noLine, accCount := 0, tPrev := none }
    else s
  | _, _ => s

/-- R9: the holdover instant is reached in LOCKED. -/
def holdoverInstant (s : State) : State :=
  match s.lcu.lock, s.lcu.tLast with
  | .locked, some t0 =>
    if reached s.now (holdoverAt t0 s.lcu.p16) then
      raise .holdoverEntered (s.mapLcu fun l => { l with lock := .holdover })
    else s
  | _, _ => s

/-- R11: the loss instant is reached in HOLDOVER. The acceptance count returns to the 0 that the
table of 1.3 gives NO_LINE. -/
def lossInstant (s : State) : State :=
  match s.lcu.lock, s.lcu.tLast with
  | .holdover, some t0 =>
    if reached s.now (lossAt t0 s.lcu.p16) then
      raise .lineLost (s.mapLcu fun l => { l with lock := .noLine, tLast := none, accCount := 0 })
    else s
  | _, _ => s

/-! ### Commands -/

/-- QUALIFIED_CROSSING (R1, R4, R5, R6, R8, R10, R13): the sample is taken as R1 states; without the
run that makes it a crossing the command has no effect (log entries 3 and 7). -/
def execQualifiedCrossing (t : Time) (s : State) : Host.Outcome State Fault Refusal :=
  taking t (fun s => if crossingDue s then takeSample .high s else s) s

/-- ZC_SAMPLE (R1, R2). -/
def execZcSample (t : Time) (level : ZcLevel) (s : State) : Host.Outcome State Fault Refusal :=
  taking t (takeSample level) s

/-- ACQUIRING_TIMEOUT (R7). -/
def execAcquiringTimeout (t : Time) (s : State) : Host.Outcome State Fault Refusal :=
  taking t acquiringTimeout s

/-- HOLDOVER_INSTANT (R9). -/
def execHoldoverInstant (t : Time) (s : State) : Host.Outcome State Fault Refusal :=
  taking t holdoverInstant s

/-- LOSS_INSTANT (R11). -/
def execLossInstant (t : Time) (s : State) : Host.Outcome State Fault Refusal :=
  taking t lossInstant s

end Sys2Proof.Machine
end

