-- ==== Sys2Proof/Machine/Scheduler.lean ====
section
/-! DEFINITION. The Transmit Scheduler's work on frames and bursts: admission (R107 to R109), cutting
a burst (R117 to R120), applying its result (R121 to R123, R98) and expiry (R124). -/

namespace Sys2Proof.Machine

/-! ### Admission (R108, R109, R91) -/

/-- A frame descriptor as admission fills it (R108, R109). -/
def newFrame (kind : FrameKind) (level : Nat) (dest : Dest) (bytes : List Byte) (expiry : Time)
    (t : Tsc) : Frame where
  kind := kind
  desc := freshDescriptor kind t
  level := level
  dest := dest
  bytes := bytes
  blocks := List.replicate (blocksOf bytes.length) freshBlock
  expiry := expiry
  tag := none
  attempts := 0
  expired := false

/-- A frame joins the tail of its level's queue. -/
def joinQueue (f : Frame) (t : Tsc) : Tsc :=
  { t with queues := updAt t.queues f.level fun q => q ++ [f] }

/-- R108: the headroom test and the descriptor test, the frame's own blocks already drawn. -/
def admissible (level : Nat) (short : Bool) (b : Bpm) : Bool :=
  decide (0 < b.txDesc) && !short && decide (8 * level ≤ b.txFree)

/-- R110: the lifetime of a level in µs. -/
def lifetimeOf (t : Tsc) (level : Nat) : Nat := 1000 * t.lifetimes.getD level 0

/-- R108: a data frame that holds `drawn` blocks is admitted to its level queue, or dropped at
admission. -/
def admitData (level : Nat) (dest : Dest) (bytes : List Byte) (drawn : Nat) (short : Bool)
    (s : State) : State :=
  if admissible level short s.bpm then
    let f := newFrame .data level dest bytes (after s.now (lifetimeOf s.tsc level)) s.tsc
    recompute ((s.mapBpm fun b => { b with
      txDesc := b.txDesc - 1, txFree := b.txFree + drawn - f.blocks.length }).mapTsc (joinQueue f))
  else
    raise .frameDroppedAdmission (countLevel level
      (fun c => { c with admissionDrops := satInc c.admissionDrops })
      (s.mapBpm fun b => { b with txFree := b.txFree + drawn }))

/-- The frame is a map notice waiting for the peer (R91). -/
def Frame.isNoticeFor (f : Frame) (i : Nat) : Bool := decide (f.kind = .notice) && f.isFor i

/-- R91: the notice waiting for a peer takes new content and a new expiry instant in place. -/
def renewNotice (i : Nat) (bytes : List Byte) (expiry : Time) (q : List Frame) : List Frame :=
  q.map fun f => if f.isNoticeFor i then { f with bytes := bytes, expiry := expiry } else f

/-- R91, R109: a notice to a peer is admitted, or takes the place of the one that waits. A control
reserve without room admits nothing; by R91 it always has room (log entry 28). -/
def admitNotice (i : Nat) (bytes : List Byte) (s : State) : State :=
  let expiry := after s.now noticeLifetime
  if (queueAt s.tsc 0).any (fun f => f.isNoticeFor i) then
    s.mapTsc fun t => { t with queues := updAt t.queues 0 (renewNotice i bytes expiry) }
  else
    let f := newFrame .notice 0 (.peer i) bytes expiry s.tsc
    if f.blocks.length ≤ s.bpm.ctlFree ∧ 0 < s.bpm.ctlDesc then
      recompute ((s.mapBpm fun b => { b with
        ctlFree := b.ctlFree - f.blocks.length, ctlDesc := b.ctlDesc - 1 }).mapTsc (joinQueue f))
    else s

/-! ### Cutting a burst (R117 to R120) -/

/-- The first window after `w`, cyclically, whose entry is not slot `s` (R119). -/
def runEnd (ws : WindowList) (w s : Nat) : Option Nat :=
  ((List.range windowCount).map fun i => (w + 1 + i) % windowCount).find?
    fun e => decide (ws.getD e none ≠ some s)

/-- R119: K_max for a burst latched at `phase` on slot `s`. -/
def runBound (ws : WindowList) (s phase p16 : Nat) : Nat :=
  match runEnd ws (windowOf phase) s with
  | none => maxSymbols
  | some e =>
    let ticks := (100 * e + 1200 - phase) % 1200
    min maxSymbols ((ticks * p16 / 19200 - payloadOffset) / symbolTime)

/-- A burst's map: the selector, the map with its data bits per symbol, and K_max (R118, R119). -/
structure MapChoice where
  selector : MapSelector
  map : PayloadMap
  dataBits : Nat
  symbolsMax : Nat
deriving DecidableEq, Repr

/-- The robust map at `gOn` groups. -/
def robustChoice (gOn : Nat) : MapChoice := ⟨.robust, .robust, robustBits gOn, maxSymbols⟩

/-- R118, R119: the window map of a transmit map set at a latched phase, given up for the robust map
where the run is too short. -/
def windowChoice (gOn : Nat) (m : TxMapSet) (phase p16 : Nat) : MapChoice :=
  match m.windows.getD (windowOf phase) none with
  | none => robustChoice gOn
  | some s => match m.slots.getD s none with
    | none => robustChoice gOn
    | some v =>
      let k := runBound m.windows s phase p16
      if k < 4 ∨ blocksCarried k (dataBits v.loads) = 0 then robustChoice gOn
      else ⟨.slot s v.version, .window v.loads, dataBits v.loads, k⟩

/-- The link condition towards a peer (R102). -/
inductive LinkCondition where
  | mapped
  | fallback
  | unmapped
deriving DecidableEq, Repr

/-- R102. -/
def linkCondition (p : Peer) : LinkCondition :=
  match p.txMaps with
  | none => .unmapped
  | some _ => if p.fallback < 2 then .mapped else .fallback

/-- R118: the map for a destination, from the latch as it stands. -/
def chooseMap (s : State) (dest : Dest) : MapChoice :=
  match dest with
  | .broadcast => robustChoice s.gOn
  | .peer i => match s.peer i, s.lcu.latchPhase with
    | some p, some phase => match linkCondition p, p.txMaps with
      | .mapped, some m => windowChoice s.gOn m phase s.lcu.latchP16
      | _, _ => robustChoice s.gOn
    | _, _ => robustChoice s.gOn

/-- The PENDING blocks of a frame, in order. -/
def pendingRefs (f : Frame) : List BlockRef :=
  (f.blocks.zipIdx.filter fun x => x.1.state = .pending).map fun x => ⟨f.kind, f.desc, x.2⟩

/-- R119: the number of blocks that may go. -/
def blocksAllowed (gOn : Nat) (dest : Dest) (m : MapChoice) (waiting : Nat) : Nat :=
  let fit := min (blocksCarried m.symbolsMax m.dataBits) waiting
  match dest with
  | .peer _ => min fit (receiptLimit gOn)
  | .broadcast => min fit maxBlocks

/-- The blocks of a burst go ON_LINE, and towards a peer they have been sent before from now on (R120). -/
def goOnLine (f : Frame) (refs : List BlockRef) : Frame :=
  let blocks := f.blocks.zipIdx.map fun x =>
    if refs.contains ⟨f.kind, f.desc, x.2⟩
    then ⟨.onLine, x.1.sentBefore || decide (f.dest ≠ .broadcast)⟩ else x.1
  if refs.any (fun r => f.holds r.kind r.desc) then
    { f with blocks := blocks, attempts := f.attempts + 1 }
  else { f with blocks := blocks }

/-- Blocks of a burst that an earlier burst carried (R120). -/
def retriedIn (refs : List BlockRef) (f : Frame) : Nat :=
  (f.blocks.zipIdx.filter fun x =>
    x.1.sentBefore && refs.contains ⟨f.kind, f.desc, x.2⟩).length

/-- The 136 bytes of block `j` of a frame (R26, R171). -/
def lineBlock (f : Frame) (j : Nat) : List Byte :=
  encodeBlock
    { kind := f.kind, level := f.level, tag := f.tag.getD 0, index := j + 1
      total := f.blocks.length
      last := f.bytes.length - blockPayload * (f.blocks.length - 1) }
    (blockBytes f.bytes j)

/-- The 136 bytes of a block of a train. -/
def trainBlock (frames : List Frame) (r : BlockRef) : List Byte :=
  match frames.find? (fun f => f.holds r.kind r.desc) with
  | some f => lineBlock f r.index
  | none => []

/-- The address a burst to a destination carries (R28). -/
def destAddress (s : State) (dest : Dest) : Addr :=
  match dest with
  | .broadcast => broadcastAddr
  | .peer i => match s.peer i with
    | some p => p.address
    | none => 0

/-- R117, R120: the burst cut from the active train, when one may go. -/
def burstFor (s : State) (a : Train) : Option BurstOnLine :=
  let m := chooseMap s a.dest
  let waiting := a.frames.flatMap pendingRefs
  let n := blocksAllowed s.gOn a.dest m waiting.length
  if n = 0 then none
  else
    let refs := waiting.take n
    some { dest := a.dest, destAddr := destAddress s a.dest, selector := m.selector
           map := m.map, dataBits := m.dataBits, symbols := symbolsNeeded n m.dataBits, refs := refs
           blocks := refs.map (trainBlock a.frames) }

/-- The per-peer counters at the hand-over of a burst (R64, R120). -/
def countBurst (a : Train) (b : BurstOnLine) (s : State) : State :=
  match a.dest with
  | .broadcast => s
  | .peer i => countPeer i (fun c => { c with
      burstsSent := satInc c.burstsSent
      blocksSent := satAdd b.refs.length c.blocksSent
      blocksRetried := satAdd ((a.frames.map (retriedIn b.refs)).sum) c.blocksRetried }) s

/-- R117 to R120: at a win the TSC cuts the burst from the active train and hands it. -/
def cutBurst (s : State) : State :=
  match s.tsc.active with
  | none => s
  | some a => match burstFor s a with
    | none => s
    | some b => countBurst a b (s.mapTsc fun t => { t with
        active := some { a with frames := a.frames.map fun f => goOnLine f b.refs }
        onLine := some b })

/-! ### The result of a burst (R121, R122, R123, R98) -/

/-- The state of block `j` of a frame after a result: `accepted` gives each burst position's block
as accepted or not (R121, R122). -/
def settleBlock (b : BurstOnLine) (accepted : List Bool) (f : Frame) (x : FrameBlock × Nat) :
    FrameBlock :=
  match b.refs.idxOf? ⟨f.kind, f.desc, x.2⟩ with
  | some i => { x.1 with state := if accepted.getD i false then .done else .pending }
  | none => x.1

/-- A frame's blocks after a result. -/
def settleFrame (b : BurstOnLine) (accepted : List Bool) (f : Frame) : Frame :=
  { f with blocks := f.blocks.zipIdx.map (settleBlock b accepted f) }

/-- How a frame of a burst is resolved (R123). -/
inductive Resolution where
  | completes
  | expires
  | retryLimit
  | stays
deriving DecidableEq, Repr

/-- R123. -/
def resolution (b : BurstOnLine) (f : Frame) : Resolution :=
  if b.refs.any (fun r => f.holds r.kind r.desc) = false then .stays
  else if f.blocks.all (fun x => x.state = .done) then .completes
  else if f.expired then .expires
  else if retryLimit ≤ f.attempts then .retryLimit
  else .stays

/-- A frame is dropped at its expiry: freed, counted at its level, FRAME_EXPIRED raised (R123, R124). -/
def dropExpired (s : State) (f : Frame) : State :=
  raise .frameExpired (countLevel f.level (fun c => { c with expiries := satInc c.expiries })
    (freeFrame s f))

/-- The effects of one frame's resolution on pools, counters and events (R123). -/
def resolveFrame (b : BurstOnLine) (s : State) (f : Frame) : State :=
  match resolution b f with
  | .completes => countLevel f.level (fun c => { c with sent := satInc c.sent }) (freeFrame s f)
  | .expires => dropExpired s f
  | .retryLimit => raise .frameRetryLimit
      (countLevel f.level (fun c => { c with retryDrops := satInc c.retryDrops }) (freeFrame s f))
  | .stays => s

/-- R121 to R123: a result is applied to the burst on line, block by block; its frames and its train
are resolved, and the prospective claim level is computed afresh. -/
def applyResult (b : BurstOnLine) (accepted : List Bool) (s : State) : State :=
  match s.tsc.active with
  | none => recompute (s.mapTsc fun t => { t with onLine := none })
  | some a =>
    let frames := a.frames.map (settleFrame b accepted)
    let s' := frames.foldl (resolveFrame b) s
    recompute (s'.mapTsc fun t => popIfComplete { t with
      active := some { a with frames := frames.filter fun f => resolution b f = .stays }
      onLine := none })

/-- R122: no receipt. -/
def applyNoReceipt (i : Nat) (b : BurstOnLine) (s : State) : State :=
  applyResult b [] ((countPeer i (fun c => { c with noReceipts := satInc c.noReceipts }) s).mapPeer i
    fun p => { p with fallback := min 2 (p.fallback + 1) })

/-- R121: a receipt with the result RECEIVED. -/
def applyReceived (i : Nat) (b : BurstOnLine) (bitmap : List Bool) (s : State) : State :=
  applyResult b bitmap (s.mapPeer i fun p => { p with fallback := 0 })

/-- R98: a receipt with the result MAP_UNKNOWN. -/
def applyMapUnknown (i : Nat) (b : BurstOnLine) (s : State) : State :=
  applyResult b [] (raise .mapUnknownSeen
    ((countPeer i (fun c => { c with mapUnknown := satInc c.mapUnknown }) s).mapPeer i
      fun p => { p with txMaps := none, fallback := 0 }))

/-- R122: the payload end of a broadcast burst. -/
def applyBroadcastEnd (b : BurstOnLine) (s : State) : State :=
  applyResult b (List.replicate b.refs.length true) s

/-! ### Expiry (R124) -/

/-- The frame has a block ON_LINE. -/
def Frame.isOnLine (f : Frame) : Bool := f.blocks.any fun x => x.state = .onLine

/-- Set the expired mark of a frame that stands in a train. -/
def markExpired (kind : FrameKind) (desc : Nat) (t : Tsc) : Tsc :=
  let mark := List.map fun (f : Frame) => if f.holds kind desc then { f with expired := true } else f
  { t with
    active := t.active.map fun a => { a with frames := mark a.frames }
    stack := t.stack.map fun a => { a with frames := mark a.frames } }

/-- R124: a frame's expiry, wherever it stands. -/
def frameExpiry (kind : FrameKind) (desc : Nat) (s : State) : State :=
  match (framesHeld s.tsc).find? (fun f => f.holds kind desc) with
  | none => s
  | some f =>
    if reached s.now f.expiry then
      if f.isOnLine then s.mapTsc (markExpired kind desc)
      else recompute ((dropExpired s f).mapTsc (dropFrames fun g => g.holds kind desc))
    else s

/-- FRAME_EXPIRY (R124, R125). -/
def execFrameExpiry (t : Time) (kind : FrameKind) (desc : Nat) (s : State) :
    Host.Outcome State Fault Refusal :=
  taking t (frameExpiry kind desc) s

end Sys2Proof.Machine
end

