-- ==== Sys2Proof/Machine/PeerTable.lean ====
section
/-! DEFINITION. The Peer Table (chapter 4): learning, eviction, release and the timers of a record. -/

namespace Sys2Proof.Machine

/-! ### Release (R60) -/

/-- Entries of a table satisfying `p` are removed; their positions become vacant. -/
def vacate {α : Type} (p : α → Bool) (l : List (Option α)) : List (Option α) :=
  l.map fun x => match x with
    | some e => if p e then none else some e
    | none => none

/-- Entries of a table satisfying `p`. -/
def chosenEntries {α : Type} (p : α → Bool) (l : List (Option α)) : List α :=
  (l.filterMap id).filter p

/-- Reassembly entries are freed without delivery: their blocks return to the receive pool and each
counts as abandoned (R131, R142). -/
def abandonEntries (p : Entry → Bool) (s : State) : State :=
  let gone := chosenEntries p s.rxa.table
  count (fun c => { c with abandoned := satAdd gone.length c.abandoned })
    ((s.mapBpm fun b => { b with
      rxFree := b.rxFree + (gone.map fun e => e.blocks.length).sum }).mapRxa
        fun r => { r with table := vacate p r.table })

/-- Frames for a peer are dropped with its release (R60). -/
def releaseFrames (i : Nat) (s : State) : State :=
  let gone := (framesHeld s.tsc).filter fun f => f.isFor i
  count (fun c => { c with framesReleased := satAdd gone.length c.framesReleased })
    ((gone.foldl freeFrame s).mapTsc (dropFrames fun f => f.isFor i))

/-- R60: a record is released in one taking. -/
def releasePeer (i : Nat) (s : State) : State :=
  let s := releaseFrames i s
  let s := abandonEntries (fun e => decide (e.sender = i)) s
  let s := s.mapPtu fun p => { p with fwd := vacate (fun e => decide (e.peer = i)) p.fwd }
  let s := s.mapLae fun l => { l with reviews := tableSet l.reviews i none }
  let s := s.mapPeers fun l => tableSet l i none
  recompute (raise .peerReleased s)

/-! ### Learning (R54 to R58) -/

/-- R56: a record is claimed for a sender. -/
def claimRecord (i : Nat) (address : Addr) (addressedHere : Bool) (s : State) : State :=
  raise .peerLearned
    (s.mapPeers fun l => tableSet l i (some (claimedPeer address s.now addressedHere)))

/-- R57: the record may be evicted. -/
def evictable (s : State) (i : Nat) : Bool :=
  !((framesHeld s.tsc).any fun f => f.isFor i) &&
  !((s.tsc.active.toList ++ s.tsc.stack).any fun r => decide (r.dest = .peer i)) &&
  !((s.rxa.table.filterMap id).any fun e => decide (e.sender = i))

/-- R57: the evictable record heard longest ago, the lowest index among equals. -/
def evictionChoice (s : State) : Option Nat :=
  ((oldestOf s.now (fun p => p.lastHeard)
    ((tableEntries s.peers).filter fun e => evictable s e.1))).map fun e => e.1

/-- R55: an own-label header refreshes the sender's record. -/
def refreshPeer (i : Nat) (addressedHere : Bool) (s : State) : State :=
  s.mapPeer i fun p => { p with
    lastHeard := s.now
    lastUnicast := if addressedHere then some s.now else p.lastUnicast }

/-- R58: the sender is not learned. -/
def notLearned (s : State) : State :=
  raise .peerTableFull (count (fun c => { c with unlearnedBursts := satInc c.unlearnedBursts }) s)

/-- R55 to R58: an own-label header from `sender`; the record's index, or "not learned". -/
def learnSender (sender : Addr) (addressedHere : Bool) (s : State) : State × Option Nat :=
  match tableFind (fun p => decide (p.address = sender)) s.peers with
  | some e => (refreshPeer e.1 addressedHere s, some e.1)
  | none => match lowestVacant s.peers with
    | some i => (claimRecord i sender addressedHere s, some i)
    | none => match evictionChoice s with
      | some i => (claimRecord i sender addressedHere (releasePeer i s), some i)
      | none => (notLearned s, none)

/-! ### Timers of a record (R55, R59, R62, R84, R99) -/

/-- R59: a burst to the peer is on the line. -/
def burstOnLineTo (s : State) (i : Nat) : Bool :=
  match s.tsc.onLine with
  | some b => decide (b.dest = .peer i)
  | none => false

/-- R59: the silence instant of a record. -/
def silenceInstant (i : Nat) (s : State) : State :=
  match s.peer i with
  | none => s
  | some p =>
    if reached s.now (after p.lastHeard silenceTime) then
      if burstOnLineTo s i then s.mapPeer i fun p => { p with deferred := true }
      else releasePeer i s
    else s

/-- R59: a deferred release is taken once the TSC has finished with the burst. -/
def takeDeferred (i : Nat) (s : State) : State :=
  match s.peer i with
  | some p => if p.deferred then releasePeer i s else s
  | none => s

/-- A timer of a record is looked at now. -/
def timePeer (i : Nat) (expire : Time → Peer → Peer) (s : State) : State :=
  s.mapPeer i (expire s.now)

/-- R62: the lifetime of a transmit map set. -/
def expireMapSet (now : Time) (p : Peer) : Peer :=
  match p.txMaps with
  | some m => if reached now (after m.installed mapSetLifetime) then { p with txMaps := none } else p
  | none => p

/-- R55: last unicast from lies more than 10 s back. -/
def expireUnicast (now : Time) (p : Peer) : Peer :=
  match p.lastUnicast with
  | some t => if unicastRecent < elapsed t now then { p with lastUnicast := none } else p
  | none => p

/-- R84: last notice sent lies 20 s back. -/
def expireNotice (now : Time) (p : Peer) : Peer :=
  match p.lastNotice with
  | some t => if noticeInterval ≤ elapsed t now then { p with lastNotice := none } else p
  | none => p

/-- R99: the robust-resend time lies 1 s back. -/
def expireResend (now : Time) (p : Peer) : Peer :=
  match p.robustResend with
  | some t => if robustResendInterval ≤ elapsed t now then { p with robustResend := none } else p
  | none => p

/-- SILENCE_INSTANT (R59, R60). -/
def execSilenceInstant (t : Time) (idx : Nat) (s : State) : Host.Outcome State Fault Refusal :=
  taking t (silenceInstant idx) s

/-- MAP_SET_LIFETIME (R62). -/
def execMapSetLifetime (t : Time) (idx : Nat) (s : State) : Host.Outcome State Fault Refusal :=
  taking t (timePeer idx expireMapSet) s

/-- LAST_UNICAST_EXPIRY (R55). -/
def execLastUnicastExpiry (t : Time) (idx : Nat) (s : State) : Host.Outcome State Fault Refusal :=
  taking t (timePeer idx expireUnicast) s

/-- LAST_NOTICE_EXPIRY (R84). -/
def execLastNoticeExpiry (t : Time) (idx : Nat) (s : State) : Host.Outcome State Fault Refusal :=
  taking t (timePeer idx expireNotice) s

/-- ROBUST_RESEND_EXPIRY (R99). -/
def execRobustResendExpiry (t : Time) (idx : Nat) (s : State) : Host.Outcome State Fault Refusal :=
  taking t (timePeer idx expireResend) s

end Sys2Proof.Machine
end

