-- ==== Sys2Proof/Machine/Adaptation.lean ====
section
/-! DEFINITION. The Link Adaptation Engine (chapter 5) and the receiver's side of map notices
(chapter 6): filing, reviews, loading, grouping, announcement and recovery. -/

namespace Sys2Proof.Machine

/-! ### Filing (R67 to R69) -/

/-- R68: one group of a window takes a measured value. -/
def fileGroup (first : Bool) (g : GroupStat) (m : Nat) : GroupStat :=
  if first then ⟨m, m⟩ else ⟨(3 * g.average + m + 2) / 4, min m (g.worst + 2)⟩

/-- R68: a filing into a window. -/
def fileWindow (measurement : List Nat) (w : WindowStore) : WindowStore where
  count := min (w.count + 1) 255
  groups := (w.groups.zipIdx).map fun x => fileGroup (w.count = 0) x.1 (measurement.getD x.2 0)

/-- The filing window of a stamp (R67). -/
def filingWindow (stamp : Nat) : Nat := stamp / 100

/-- R69: a review of a record begins, with the store as its snapshot. -/
def startReview (i : Nat) (snapshot : Store) (s : State) : State :=
  s.mapLae fun l => { l with reviews := tableSet l.reviews i (some ⟨s.now, snapshot⟩) }

/-- R67 to R69: the measurement of a header with a stamp is filed into a record's store, and the
eighth filing since review begins a review of an IDLE record. -/
def fileMeasurement (i : Nat) (measurement : List Nat) (stamp : Option Nat) (s : State) : State :=
  match stamp, s.peer i with
  | some p, some r =>
    let store := updAt r.store (filingWindow p) (fileWindow measurement)
    let filings := min 8 (r.filings + 1)
    if filings = 8 ∧ tableGet s.lae.reviews i = none then
      startReview i store (s.mapPeer i fun r => { r with store := store, filings := 0 })
    else s.mapPeer i fun r => { r with store := store, filings := filings }
  | _, _ => s

/-! ### Loading each window (R73 to R76) -/

/-- R73: the effective value of a group. -/
def effectiveValue (g : GroupStat) : Nat := (g.average + g.worst) / 2

/-- R74: the thresholds T[1..10], in units of 0.25 dB. -/
def thresholds : List Nat := [12, 28, 44, 56, 68, 80, 92, 104, 116, 128]

/-- R74: the largest b whose threshold an effective value less the margin reaches; otherwise 0. -/
def loading (margin e : Nat) : Nat := (thresholds.filter fun t => decide (margin + t ≤ e)).length

/-- R73, R74: the loadings of an eligible window; a notched group has loading 0. -/
def windowLoads (notch : List Bool) (margin : Nat) (w : WindowStore) : List Nat :=
  (List.range groupCount).map fun g =>
    if notch.getD g false then 0 else loading margin (effectiveValue (w.groups.getD g ⟨0, 0⟩))

/-- The map carries more than the robust map (R25, R76, R79). -/
def beatsRobust (gOn : Nat) (loads : List Nat) : Bool := decide (robustBits gOn < dataBits loads)

/-- R73, R76: the candidate of a window, or ROBUST. -/
def candidate (notch : List Bool) (margin : Nat) (w : WindowStore) : Option (List Nat) :=
  let loads := windowLoads notch margin w
  if 4 ≤ w.count ∧ beatsRobust (groupsOn notch) loads = true then some loads else none

/-! ### Grouping windows into slots (R77 to R79) -/

/-- R77: the groupwise minimum of two maps. -/
def mergeMaps (a b : List Nat) : List Nat := a.zipWith min b

/-- R77: a window with candidate `w` joins a slot with map `m`. -/
def joins (m w : List Nat) : Bool :=
  decide (7 * rawBits w ≤ 8 * rawBits (mergeMaps m w)) &&
  decide (7 * rawBits m ≤ 8 * rawBits (mergeMaps m w))

/-- R78: the slot a window is forced into: the largest merged map, the lowest number among equals. -/
def forcedSlot (w : List Nat) : List (Nat × List Nat) → Option Nat
  | [] => none
  | x :: rest => match forcedSlot w rest with
    | none => some x.1
    | some k => match rest.find? (fun y => y.1 = k) with
      | some y => if rawBits (mergeMaps y.2 w) ≤ rawBits (mergeMaps x.2 w) then some x.1 else some k
      | none => some x.1

/-- A slot's number with its map, in order. -/
def numberedSlots (slots : List (List Nat)) : List (Nat × List Nat) :=
  slots.zipIdx.map fun x => (x.2, x.1)

/-- R77, R78: the open slots after a window with candidate `w`, and the slot it is assigned to. -/
def placeWindow (slots : List (List Nat)) (w : List Nat) : List (List Nat) × Option Nat :=
  match slots.findIdx? (fun m => joins m w) with
  | some k => (updAt slots k fun m => mergeMaps m w, some k)
  | none =>
    if slots.length < slotCount then (slots ++ [w], some slots.length)
    else match forcedSlot w (numberedSlots slots) with
      | some k => (updAt slots k fun m => mergeMaps m w, some k)
      | none => (slots, none)

/-- R77, R78: candidates grouped in window order from the slots opened so far. -/
def groupWindows : List (List Nat) → List (Option (List Nat)) → List (List Nat) × WindowList
  | slots, [] => (slots, [])
  | slots, none :: rest =>
    let r := groupWindows slots rest
    (r.1, none :: r.2)
  | slots, some w :: rest =>
    let p := placeWindow slots w
    let r := groupWindows p.1 rest
    (r.1, p.2 :: r.2)

/-- A new set: the window list and the map of each slot it uses (R79). -/
structure NewSet where
  windows : WindowList
  slots : List (Option (List Nat))
deriving DecidableEq, Repr

/-- R79: a slot that does not beat the robust map is unused, and its windows are ROBUST. -/
def settleSet (gOn : Nat) (slots : List (List Nat)) (ws : WindowList) : NewSet :=
  let kept := (List.range slotCount).map fun k => match slots[k]? with
    | some m => if beatsRobust gOn m then some m else none
    | none => none
  { windows := ws.map fun w => match w with
      | some k => if (kept.getD k none).isSome then some k else none
      | none => none
    slots := kept }

/-- R73 to R79: the new set computed from a snapshot. -/
def reviewSet (notch : List Bool) (margin : Nat) (snapshot : Store) : NewSet :=
  let g := groupWindows [] (snapshot.map (candidate notch margin))
  settleSet (groupsOn notch) g.1 g.2

/-! ### Announcement and versions (R80 to R83) -/

/-- R80: the map a window has in the current assignment. -/
def oldMap (p : Peer) (w : Nat) : Option (List Nat) :=
  match p.announced.getD w none with
  | some k => (p.rxMaps.getD k ⟨none, none⟩).current.map fun m => m.loads
  | none => none

/-- The map a window has in a new set. -/
def newMap (n : NewSet) (w : Nat) : Option (List Nat) :=
  match n.windows.getD w none with
  | some k => n.slots.getD k none
  | none => none

/-- R81: a window's change is material: (a), (b) or (c). -/
def materialChange (old new : Option (List Nat)) : Bool :=
  match old, new with
  | none, none => false
  | some o, some n =>
    (o.zip n).any (fun x => decide (x.2 + 2 ≤ x.1)) ||
    decide ((rawBits o : Int) ≤ 8 * ((rawBits n : Int) - rawBits o).natAbs)
  | _, _ => true

/-- R81: the new set is announced. -/
def announces (p : Peer) (n : NewSet) : Bool :=
  (List.range windowCount).any fun w => materialChange (oldMap p w) (newMap n w)

/-- R83: a slot's next version. -/
def nextVersion (r : RxSlot) : Nat :=
  match r.current, r.previous with
  | some m, _ => (m.version + 1) % 16
  | none, some m => (m.version + 1) % 16
  | none, none => 0

/-- R82: a slot's receive maps after an announcement. -/
def announceSlot (r : RxSlot) (new : Option (List Nat)) : RxSlot :=
  match new, r.current with
  | some n, some c =>
    if c.loads = n then r else ⟨some ⟨nextVersion r, n⟩, some c⟩
  | some n, none => ⟨some ⟨nextVersion r, n⟩, r.previous⟩
  | none, some c => ⟨none, some c⟩
  | none, none => r

/-- R82: the record's receive maps and announced window list after an announcement. -/
def announceSet (n : NewSet) (p : Peer) : Peer :=
  { p with
    rxMaps := p.rxMaps.zipIdx.map fun x => announceSlot x.1 (n.slots.getD x.2 none)
    announced := n.windows }

/-! ### Queuing the current set (R84 to R86, R90) -/

/-- The slots of a record's current set: the current map of each slot its list names (R84). -/
def currentSlots (p : Peer) : List (Option VersionedMap) :=
  (List.range slotCount).map fun k =>
    if p.announced.contains (some k) then (p.rxMaps.getD k ⟨none, none⟩).current else none

/-- R84: queue the current set to a peer. -/
def queueCurrentSet (i : Nat) (s : State) : State :=
  match s.peer i with
  | none => s
  | some p =>
    admitNotice i (encodeNotice p.announced (currentSlots p))
      (s.mapPeer i fun p => { p with lastNotice := some s.now, noticePending := false })

/-- R85: last unicast from is present and at most 10 s back. -/
def heardRecently (now : Time) (p : Peer) : Bool :=
  match p.lastUnicast with
  | some t => decide (elapsed t now ≤ unicastRecent)
  | none => false

/-- R85: the notice decision after an announcement. -/
def noticeDecision (i : Nat) (s : State) : State :=
  match s.peer i with
  | none => s
  | some p =>
    if heardRecently s.now p then queueCurrentSet i s
    else s.mapPeer i fun p => { p with noticePending := true }

/-- R71: a review completes. -/
def completeReview (i : Nat) (s : State) : State :=
  match tableGet s.lae.reviews i, s.peer i with
  | some r, some p =>
    let s := s.mapLae fun l => { l with reviews := tableSet l.reviews i none }
    let n := reviewSet s.lmd.notch s.lae.margin r.snapshot
    if announces p n then noticeDecision i (s.mapPeer i (announceSet n)) else s
  | _, _ => s

/-! ### The map test (R95) -/

/-- The result of the map test: known, with the map the payload is decoded with, or unknown. -/
inductive MapTest where
  | known (map : PayloadMap)
  | unknown
deriving DecidableEq, Repr

/-- A slot map holds version `v`. -/
def holdsVersion (m : Option VersionedMap) (v : Nat) : Option VersionedMap :=
  m.filter fun x => x.version = v

/-- R95: the map test against a record's receive maps. -/
def mapTest (p : Peer) (sel : MapSelector) : MapTest :=
  match sel with
  | .robust => .known .robust
  | .slot k v =>
    let r := p.rxMaps.getD k ⟨none, none⟩
    match holdsVersion r.current v, holdsVersion r.previous v with
    | some m, _ => .known (.window m.loads)
    | none, some m => .known (.window m.loads)
    | none, none => .unknown

/-- R95, R96: a header that names the current version discards the slot's previous map. -/
def discardPrevious (sel : MapSelector) (p : Peer) : Peer :=
  match sel with
  | .robust => p
  | .slot k v => { p with rxMaps := updAt p.rxMaps k fun r =>
      if (holdsVersion r.current v).isSome then { r with previous := none } else r }

/-! ### Lost-notice recovery and keep-alive (R86, R97, R99 to R101) -/

/-- R99: a robust burst stamped in a mapped window, the last re-queue for one absent or 1 s back. -/
def robustInMapped (now : Time) (p : Peer) (h : Header) : Bool :=
  match h.selector, h.stamp with
  | .robust, some st => (p.announced.getD (st / 100) none).isSome &&
      (match p.robustResend with
       | some t => decide (robustResendInterval ≤ elapsed t now)
       | none => true)
  | _, _ => false

/-- R100: the keep-alive of a header on a slot map. -/
def keepAliveDue (now : Time) (p : Peer) (h : Header) : Bool :=
  match h.selector with
  | .slot _ _ => (match p.lastNotice with
      | some t => decide (noticeInterval ≤ elapsed t now)
      | none => true)
  | .robust => false

/-- R101: the reasons to queue the current set at a header outcome addressed here; it is queued once,
and the robust-resend time is set where R99 holds. -/
def recoverNotices (i : Nat) (h : Header) (test : MapTest) (s : State) : State :=
  match s.peer i with
  | none => s
  | some p =>
    let robust := robustInMapped s.now p h
    let s := if robust then s.mapPeer i fun p => { p with robustResend := some s.now } else s
    if p.noticePending = true ∨ test = .unknown ∨ robust = true ∨ keepAliveDue s.now p h = true
    then queueCurrentSet i s else s

/-- REVIEW_COMPLETE (R71 to R85; log entry 26). -/
def execReviewComplete (t : Time) (idx : Nat) (s : State) : Host.Outcome State Fault Refusal :=
  taking t (completeReview idx) s

end Sys2Proof.Machine
end

