-- ==== Sys2Proof/Machine/Egress.lean ====
section
/-! DEFINITION. The Port Unit's egress side and the forwarding table (chapter 9): the arbiter, the
pause, learning and aging. -/

namespace Sys2Proof.Machine

/-! ### The egress arbiter (R153 to R155) -/

/-- The pause end is present and not yet reached (R147, R155). -/
def pauseHolds (now : Time) (p : Ptu) : Bool :=
  match p.pauseEnd with
  | some e => !reached now e
  | none => false

/-- R155: the oldest reply is started, otherwise the head of the FIFO, otherwise nothing. The transmit
error of a frame that was cut stays signalled up to here, or to the next reset, the spec being silent on
its length. DESIGN CHOICE: log entry 25. -/
def startNext (p : Ptu) : Ptu :=
  match p.slot, p.fifo with
  | r :: rest, _ => { p with slot := rest, egress := .sendingReply r, txError := false }
  | [], f :: rest => { p with fifo := rest, egress := .sendingData f, txError := false }
  | [], [] => p

/-- R155: a choice, which starts nothing unless the arbiter is IDLE and no pause holds. -/
def egressChoice (s : State) : State :=
  s.mapPtu fun p => if p.egress = .idle ∧ pauseHolds s.now p = false then startNext p else p

/-- R155: the interframe gap ends. -/
def egressGapEnd (s : State) : State :=
  if s.ptu.egress = .gap then egressChoice (s.mapPtu fun p => { p with egress := .idle }) else s

/-- R147, R155: the pause end is reached. -/
def pauseEnd (s : State) : State :=
  match s.ptu.pauseEnd with
  | some e =>
    if reached s.now e then egressChoice (s.mapPtu fun p => { p with pauseEnd := none }) else s
  | none => s

/-- The sending of a frame is over, and the gap begins (R155). -/
def beginGap (s : State) : State := s.mapPtu fun p => { p with egress := .gap }

/-- R153, R154: the last byte of the frame being sent has left the port. After the RESTART reply the
restart is due (R159; log entry 24). -/
def egressLastByte (s : State) : State :=
  match s.ptu.egress with
  | .sendingData f =>
    beginGap (count (fun c => { c with portSent := satInc c.portSent })
      (s.mapBpm fun b => { b with rxFree := b.rxFree + f.blocks }))
  | .sendingReply r =>
    beginGap ((count (fun c => { c with repliesSent := satInc c.repliesSent }) s).mapMgu fun m =>
      { m with restart := if r.restart then .due else m.restart })
  | .idle | .gap => s

/-! ### The forwarding table (R149 to R152) -/

/-- R149: the entry of an address. -/
def forwardFind (a : Addr) (l : List (Option ForwardEntry)) : Option (Nat × ForwardEntry) :=
  tableFind (fun e => decide (e.address = a)) l

/-- R151: the source address can be learned. -/
def learnable (station : Option Addr) (a : Addr) : Bool :=
  !isGroup a && decide (a ≠ 0) && decide (station ≠ some a)

/-- R151: the PTU learns a source address behind a peer whose record is ACTIVE (R150; log entry 32). -/
def learnAddress (a : Addr) (peer : Nat) (s : State) : State :=
  if learnable s.suc.address a = true ∧ (s.peer peer).isSome = true then
    let entry : ForwardEntry := ⟨a, peer, s.now⟩
    let put (i : Nat) (s : State) : State :=
      s.mapPtu fun p => { p with fwd := tableSet p.fwd i (some entry) }
    match forwardFind a s.ptu.fwd with
    | some e => put e.1 s
    | none => match lowestVacant s.ptu.fwd with
      | some i => put i s
      | none => match oldestOf s.now (fun e => e.lastSeen) (tableEntries s.ptu.fwd) with
        | some e => count (fun c => { c with forwardReplacements := satInc c.forwardReplacements })
            (put e.1 s)
        | none => s
  else s

/-- R152: an entry is aged out. -/
def forwardingAging (pos : Nat) (s : State) : State :=
  match tableGet s.ptu.fwd pos with
  | some e =>
    if forwardAge ≤ elapsed e.lastSeen s.now then
      s.mapPtu fun p => { p with fwd := tableSet p.fwd pos none }
    else s
  | none => s

/-! ### Commands -/

/-- PAUSE_END (R147, R155). -/
def execPauseEnd (t : Time) (s : State) : Host.Outcome State Fault Refusal :=
  taking t pauseEnd s

/-- FORWARDING_AGING (R152). -/
def execForwardingAging (t : Time) (pos : Nat) (s : State) : Host.Outcome State Fault Refusal :=
  taking t (forwardingAging pos) s

/-- EGRESS_LAST_BYTE (R153, R154, R155, R159). -/
def execEgressLastByte (t : Time) (s : State) : Host.Outcome State Fault Refusal :=
  taking t egressLastByte s

/-- EGRESS_GAP_END (R155). -/
def execEgressGapEnd (t : Time) (s : State) : Host.Outcome State Fault Refusal :=
  taking t egressGapEnd s

end Sys2Proof.Machine
end

