-- ==== Sys2Proof/Machine/Assembler.lean ====
section
/-! DEFINITION. The Receive Assembler (chapter 8): the decision on each block, completion, delivery
and timeouts. -/

namespace Sys2Proof.Machine

/-! ### Entries (R131) -/

/-- The entry has the key sender, level, tag and broadcast flag of a block. -/
def Entry.hasKey (e : Entry) (sv : Service) (h : BlockHeader) : Bool :=
  decide (e.sender = sv.sender) && decide (e.level = h.level) && decide (e.tag = h.tag) &&
  (e.bcast == sv.bcast)

/-- The entry agrees with a block in kind, block total and last-block length. -/
def Entry.agrees (e : Entry) (h : BlockHeader) : Bool :=
  decide (e.kind = h.kind) && decide (e.total = h.total) && decide (e.last = h.last)

/-- The entry holds a block index. -/
def Entry.holdsIndex (e : Entry) (x : Nat) : Bool := e.blocks.any fun b => decide (b.1 = x)

/-- The entry holds every index up to its block total. -/
def Entry.isComplete (e : Entry) : Bool :=
  (List.range e.total).all fun k => e.holdsIndex (k + 1)

/-- The payload an entry holds for a block index. -/
def Entry.payloadOf (e : Entry) (x : Nat) : List Byte :=
  match e.blocks.find? (fun b => decide (b.1 = x)) with
  | some b => b.2
  | none => []

/-- The bytes of the frame a complete entry holds (8.2). -/
def Entry.frameBytes (e : Entry) : List Byte :=
  ((List.range e.total).flatMap fun k => e.payloadOf (k + 1)).take
    ((e.total - 1) * blockPayload + e.last)

/-- The entry at a position is freed without delivery: its blocks return to the receive pool, and it
counts as abandoned (R131, R132, R133, R135). -/
def abandonAt (pos : Nat) (s : State) : State :=
  match tableGet s.rxa.table pos with
  | none => s
  | some e =>
    count (fun c => { c with abandoned := satInc c.abandoned })
      ((s.mapBpm fun b => { b with rxFree := b.rxFree + e.blocks.length }).mapRxa fun r =>
        { r with table := tableSet r.table pos none })

/-! ### The receipt under construction (R141) -/

/-- Change the receipt under construction, if there is one. -/
def mapReceipt (f : Receipt → Receipt) (s : State) : State :=
  s.mapRxa fun r => { r with
    service := r.service.map fun sv => { sv with receipt := sv.receipt.map f } }

/-- Burst position `i` is accepted: its bit becomes 1, and the sender's "blocks accepted" increases
(R64, R132). -/
def acceptBlock (sv : Service) (i : Nat) (s : State) : State :=
  countPeer sv.sender (fun c => { c with blocksAccepted := satInc c.blocksAccepted })
    (mapReceipt (fun r => { r with bitmap := r.bitmap.set (i - 1) true }) s)

/-- R134: the block is refused for buffer. -/
def refuseForBuffer (s : State) : State :=
  count (fun c => { c with bufferRefusals := satInc c.bufferRefusals })
    (mapReceipt (fun r => { r with bufferShort := true }) s)

/-! ### Map notices at the Peer Table (R93, R94) -/

/-- R94: the transmit map set that a notice installs. -/
def installedSet (gOn : Nat) (now : Time) (n : WindowList × List (Option VersionedMap)) : TxMapSet where
  windows := settleWindows gOn n.2 n.1
  slots := n.2
  installed := now

/-- R93, R94: a completed notice from a peer is rejected or installed. -/
def takeNotice (i : Nat) (bytes : List Byte) (s : State) : State :=
  let n := readNotice bytes
  if noticeRejected s.lmd.notch n.2 then
    count (fun c => { c with noticesRejected := satInc c.noticesRejected }) s
  else
    raise .mapInstalled (s.mapPeer i fun p => { p with
      txMaps := some (installedSet s.gOn s.now n), fallback := 0 })

/-! ### Completion and delivery (R137 to R140) -/

/-- R137: a pair joins the tail of a recent-completion list of at most 16. -/
def appendRecent (pair : Nat × Nat) (l : List (Nat × Nat)) : List (Nat × Nat) :=
  (if l.length < recentCapacity then l else l.drop 1) ++ [pair]

/-- R139: a completed data frame is offered to the egress FIFO. -/
def deliverData (e : Entry) (s : State) : State :=
  if s.ptu.fifo.length < fifoCapacity then
    let bytes := e.frameBytes
    egressChoice (learnAddress (addrAt bytes 7) e.sender
      (count (fun c => { c with lineDelivered := satInc c.lineDelivered })
        (s.mapPtu fun p => { p with fifo := p.fifo ++ [⟨bytes, e.blocks.length, e.level⟩] })))
  else
    raise .egressOverflow (count (fun c => { c with egressOverflows := satInc c.egressOverflows })
      (s.mapBpm fun b => { b with rxFree := b.rxFree + e.blocks.length }))

/-- R140: a completed map notice is handed to the Peer Table, and its blocks return to the pool. -/
def deliverNotice (e : Entry) (s : State) : State :=
  (takeNotice e.sender e.frameBytes s).mapBpm fun b =>
    { b with rxFree := b.rxFree + e.blocks.length }

/-- R138: the frame of the entry at a position completes. -/
def completeFrame (pos : Nat) (e : Entry) (s : State) : State :=
  let s := if e.bcast then s else s.mapPeer e.sender fun p =>
    { p with recent := appendRecent (e.level, e.tag) p.recent }
  let s := match e.kind with
    | .data => deliverData e s
    | .notice => deliverNotice e s
  s.mapRxa fun r => { r with table := tableSet r.table pos none }

/-- A block is stored in the entry `e` at a position: it takes a pool block, and the frame completes
with its last block (R132, cases 3 and 5). -/
def storeBlock (sv : Service) (i pos : Nat) (e : Entry) (s : State) : State :=
  let s := acceptBlock sv i ((s.mapBpm fun b => { b with rxFree := b.rxFree - 1 }).mapRxa fun r =>
    { r with table := tableSet r.table pos (some e) })
  if e.isComplete then completeFrame pos e s else s

/-- The entry that a first block opens (R132, case 5). -/
def newEntry (sv : Service) (h : BlockHeader) (payload : List Byte) (now : Time) : Entry where
  sender := sv.sender
  level := h.level
  tag := h.tag
  bcast := sv.bcast
  kind := h.kind
  total := h.total
  last := h.last
  blocks := [(h.index, payload)]
  lastTime := now

/-! ### The decision on a block (R129, R132 to R134) -/

/-- R133: with every position taken, the oldest entry is evicted if it lies at least 20,000 µs back. -/
def makeRoom (s : State) : State :=
  match lowestVacant s.rxa.table with
  | some _ => s
  | none => match oldestOf s.now (fun e => e.lastTime) (tableEntries s.rxa.table) with
    | some e => if evictionGuard ≤ elapsed e.2.lastTime s.now then abandonAt e.1 s else s
    | none => s

/-- R132, case 5: a block that no entry has the key of. -/
def openEntry (sv : Service) (i : Nat) (h : BlockHeader) (payload : List Byte) (s : State) : State :=
  let s := makeRoom s
  match lowestVacant s.rxa.table with
  | none => refuseForBuffer s
  | some pos =>
    if s.bpm.rxFree = 0 then refuseForBuffer s
    else storeBlock sv i pos (newEntry sv h payload s.now) s

/-- R132, case 1: the sender's recent-completion list holds the block's level and tag. -/
def completedBefore (sv : Service) (h : BlockHeader) (s : State) : Bool :=
  !sv.bcast && match s.peer sv.sender with
    | some p => p.recent.contains (h.level, h.tag)
    | none => false

/-- R132: the decision on a sound block at burst position `i`. -/
def decideBlock (sv : Service) (i : Nat) (h : BlockHeader) (payload : List Byte) (s : State) : State :=
  if completedBefore sv h s then acceptBlock sv i s
  else match tableFind (fun e => e.hasKey sv h) s.rxa.table with
    | none => openEntry sv i h payload s
    | some (pos, e) =>
      if e.agrees h then
        if e.holdsIndex h.index then acceptBlock sv i s
        else if s.bpm.rxFree = 0 then refuseForBuffer s
        else storeBlock sv i pos
          { e with blocks := e.blocks ++ [(h.index, payload)], lastTime := s.now } s
      else openEntry sv i h payload (abandonAt pos s)

/-- R129: a block handed for the burst in service, with its position and check result. -/
def takeBlock (i : Nat) (bytes : List Byte) (intact : Bool) (s : State) : State :=
  match s.rxa.service with
  | none => s
  | some sv =>
    let h := readBlockHeader bytes
    if intact && blockSound h sv.bcast then decideBlock sv i h (blockPayloadOf bytes) s else s

/-! ### Timeout (R135) -/

/-- R135: the entry at a position has stored no block for 250 ms. -/
def reassemblyTimeout (pos : Nat) (s : State) : State :=
  match tableGet s.rxa.table pos with
  | some e => if entryTimeout ≤ elapsed e.lastTime s.now then abandonAt pos s else s
  | none => s

/-- REASSEMBLY_TIMEOUT (R135). -/
def execReassemblyTimeout (t : Time) (pos : Nat) (s : State) : Host.Outcome State Fault Refusal :=
  taking t (reassemblyTimeout pos) s

end Sys2Proof.Machine
end

