-- ==== Sys2Proof/Machine/LineModem.lean ====
section
/-! DEFINITION. The Line Modem (chapter 2) and the outcome of a claim period (R44, R45): detection,
header outcomes, payload and receipts on the receiving side; the win, the burst and its receipt slot
on the sending side. -/

namespace Sys2Proof.Machine

/-! ### Measurement and path choice (R22, R23) -/

/-- An SNR in thousandths of a dB in units of 0.25 dB, rounded down and held within 0..255 (R22). -/
def snrUnits (mdB : Int) : Nat := min 255 (mdB / 250).toNat

/-- The value a path gives for group `g`: 0 for a group notched here (R22). -/
def pathValue (notch : List Bool) (snr : List Int) (g : Nat) : Nat :=
  if notch.getD g false then 0 else snrUnits (snr.getD g 0)

/-- R22: the measurement of a preamble. -/
def measurePreamble (path : PathMode) (notch : List Bool) (snrA snrB : List Int) : List Nat :=
  (List.range groupCount).map fun g =>
    match path with
    | .single => pathValue notch snrA g
    | .dual => max (pathValue notch snrA g) (pathValue notch snrB g)

/-- R23: the path choice of each group. -/
def choosePaths (path : PathMode) (notch : List Bool) (snrA snrB : List Int) : List RxPath :=
  (List.range groupCount).map fun g =>
    match path with
    | .single => .a
    | .dual => if pathValue notch snrA g < pathValue notch snrB g then .b else .a

/-! ### Reception (R29 to R31) -/

/-- The burst in hand with its header awaited (R29). -/
def openHand (start : Time) (snrA snrB : List Int) (m : Lmd) : BurstInHand where
  start := start
  measurement := measurePreamble m.path m.notch snrA snrB
  choice := choosePaths m.path m.notch snrA snrB
  header := none
  stage := .header
  map := .robust
  dataBits := 0
  handed := 0

/-- A preamble that starts at `start` started after LISTEN was entered (R35, R36; log entry 13). -/
def startsInListen (s : State) (start : Time) : Bool :=
  match s.lmd.listenFrom with
  | some entered => decide (elapsed start s.now < elapsed entered s.now)
  | none => true

/-- R29: the two-symbol preamble pattern is found in LISTEN, and the modem detects (R49; log entry 35). -/
def burstDetected (start : Time) (onA onB : Bool) (snrA snrB : List Int) (s : State) : State :=
  if s.lmd.activity = .listen ∧ s.watches = true ∧ onEnabledPath s.lmd.path onA onB = true ∧
      startsInListen s start = true then
    s.mapLmd fun m => { m with activity := .receive, inHand := some (openHand start snrA snrB m) }
  else s

/-- The reception ends, and the modem returns to LISTEN (R30, R31). -/
def endReception (s : State) : State := enterListen (s.mapLmd fun m => { m with inHand := none })

/-- The reception goes on after the header outcome (R30, R31). -/
def goOnReceiving (h : Header) (stage : RxStage) (map : PayloadMap) (d : Nat) (s : State) : State :=
  s.mapLmd fun m => { m with inHand := m.inHand.map fun b =>
    { b with header := some h, stage := stage, map := map, dataBits := d } }

/-- R29: the header is foreign. -/
def isForeign (s : State) (h : Header) : Bool :=
  decide (s.suc.label ≠ some h.label) || decide (s.suc.address = some h.sender) || isGroup h.sender

/-- The header is addressed to this station (R29). -/
def addressedHere (s : State) (h : Header) : Bool := decide (s.suc.address = some h.dest)

/-- R127: the burst in service of a served burst. -/
def servedBurst (i : Nat) (here : Bool) (n : Nat) : Service where
  sender := i
  bcast := !here
  blocks := n
  receipt := if here then some ⟨.received, false, List.replicate n false⟩ else none

/-- R127: the burst in service of a burst addressed here whose map is unknown. -/
def refusedBurst (i : Nat) (n : Nat) : Service where
  sender := i
  bcast := false
  blocks := n
  receipt := some ⟨.mapUnknown, false, []⟩

/-- R127: the RXA takes the header of a learned sender, addressed here or broadcast. -/
def openService (i : Nat) (h : Header) (here : Bool) (test : MapTest) (s : State) : State :=
  match test, here with
  | .known _, _ =>
    countPeer i (fun c => { c with burstsReceived := satInc c.burstsReceived })
      (s.mapRxa fun r => { r with service := some (servedBurst i here h.blocks) })
  | .unknown, true => s.mapRxa fun r => { r with service := some (refusedBurst i h.blocks) }
  | .unknown, false => s

/-- The modem's part after an own-label header addressed here or broadcast (R30). -/
def afterMapTest (h : Header) (here : Bool) (test : MapTest) (s : State) : State :=
  match test, here with
  | .known m, _ => goOnReceiving h .payload m (m.bits s.gOn) s
  | .unknown, true => goOnReceiving h .refused .robust 0 s
  | .unknown, false => endReception s

/-- R95, R96, R127, R101: the header of the learned sender `i`, addressed here or broadcast. -/
def serveHeader (i : Nat) (h : Header) (here : Bool) (s : State) : State :=
  match s.peer i with
  | none => endReception s
  | some p =>
    let test := mapTest p h.selector
    let s := openService i h here test (s.mapPeer i (discardPrevious h.selector))
    afterMapTest h here test (if here then recoverNotices i h test s else s)

/-- R30: an own-label header, with the measurement attached: the Peer Table, then the LAE, then the
RXA take the outcome. -/
def ownLabel (h : Header) (measurement : List Nat) (s : State) : State :=
  let here := addressedHere s h
  match learnSender h.sender here s with
  | (s, none) => endReception s
  | (s, some i) =>
    let s := fileMeasurement i measurement h.stamp s
    if here = true ∨ h.dest = broadcastAddr then serveHeader i h here s else endReception s

/-- R30: the header outcome of the burst in hand, by what was decoded. -/
def takeHeader (b : BurstInHand) (decoded : Option Header) (s : State) : State :=
  match decoded with
  | none =>
    endReception (undecodedToClc
      (count (fun c => { c with undecodedBursts := satInc c.undecodedBursts }) s))
  | some h =>
    if isForeign s h then
      endReception (declaredToClc (declaredFree b.start h)
        (count (fun c => { c with foreignBursts := satInc c.foreignBursts }) s))
    else ownLabel h b.measurement (declaredToClc (declaredFree b.start h) s)

/-- R23, R29, R30: the header outcome at burst start + 170 µs. -/
def headerOutcome (heard : HeaderHeard) (s : State) : State :=
  match s.lmd.inHand with
  | none => s
  | some b =>
    if s.lmd.activity = .receive ∧ b.stage = .header ∧ reached s.now (after b.start headerDelay) = true
    then takeHeader b (headerHeard s.lmd b heard) s
    else s

/-- The instant at which block `j` (from 1) of a burst is handed: the end of the symbol that holds its
last bit, or the payload end when the map does not carry the blocks declared (R31). -/
def handInstant (b : BurstInHand) (h : Header) (j : Nat) : Time :=
  after b.start (payloadOffset + symbolTime *
    (if h.blocks ≤ blocksCarried h.symbols b.dataBits then symbolsNeeded j b.dataBits else h.symbols))

/-- R31, R128: the next block of the payload is handed, intact when its CRC-32 matches, the map named
carries the blocks declared, and the payload has not gone silent in it. -/
def blockHanded (heard : SymbolsHeard) (s : State) : State :=
  match s.lmd.inHand with
  | none => s
  | some b => match b.header with
    | none => s
    | some h =>
      if s.lmd.activity = .receive ∧ b.stage = .payload ∧ b.handed < h.blocks ∧
          reached s.now (handInstant b h (b.handed + 1)) = true then
        let bytes := blockHeard s.lmd b h (b.handed + 1) heard
        takeBlock (b.handed + 1) bytes
          (blockIntact bytes && decide (h.blocks ≤ blocksCarried h.symbols b.dataBits) &&
            !blockSilent s.lmd b h (b.handed + 1) heard)
          (s.mapLmd fun m => { m with inHand := some { b with handed := b.handed + 1 } })
      else s

/-- R31, R128: the payload end of a served burst. -/
def rxPayloadEnd (s : State) : State :=
  match s.lmd.inHand with
  | none => s
  | some b => match b.header with
    | none => s
    | some h =>
      if s.lmd.activity = .receive ∧ b.stage = .payload ∧ b.handed = h.blocks ∧
          reached s.now (after b.start (payloadOffset + symbolTime * h.symbols)) = true then
        if h.dest = broadcastAddr then
          endReception (s.mapRxa fun r => { r with service := none })
        else s.mapLmd fun m => { m with inHand := some { b with stage := .ended } }
      else s

/-! ### The receipt at the receiving station (R34) -/

/-- The receipt that the RXA has built. -/
def builtReceipt (s : State) : Option Receipt := s.rxa.service.bind fun sv => sv.receipt

/-- R34: the receipt starts at `start`; the burst in service closes (R128). -/
def startReceipt (start : Time) (r : Receipt) (s : State) : State :=
  (s.mapLmd fun m => { m with
    activity := .sendReceipt, inHand := none, energy := none, receiptStart := start
    lineOut := .receipt (preambleSymbol m.notch)
      (robustSymbol m.notch (receiptSymbol s.gOn (s.suc.address.getD 0) r)) }).mapRxa
      fun x => { x with service := none }

/-- R34: burst start + 220 + 40K. -/
def sendReceipt (s : State) : State :=
  match s.lmd.inHand, builtReceipt s with
  | some b, some r => match b.header with
    | none => s
    | some h =>
      let start := after b.start (receiptOffset + symbolTime * h.symbols)
      if s.lmd.activity = .receive ∧ (b.stage = .ended ∨ b.stage = .refused) ∧
          reached s.now start = true
      then startReceipt start r s else s
  | _, _ => s

/-- R34: the receipt ends. -/
def receiptEnd (s : State) : State :=
  if s.lmd.activity = .sendReceipt ∧
      reached s.now (after s.lmd.receiptStart receiptTime) = true
  then resumeListen (silence s) else s

/-! ### The end of a claim period (R44, R45) -/

/-- R44: the CLC's own part of a win. -/
def wonPeriod (c : Clc) : Clc :=
  { c with lostStreak := 0, waited := false, lastLevel := c.level, claim := .none
           word := none, level := none, lossCounted := false }

/-- R44, R18, R49: what the burst handed at the win makes of the medium state and the modem. No report of
energy goes on in SENDING (log entry 35). R18 drops a burst in hand here, a notice whose last block is
due at this instant with it, so that no install of R103 follows the win. DESIGN CHOICE: log entry 37. -/
def settleWin (s : State) : State :=
  match s.tsc.onLine with
  | some _ => ((dropBurstInHand s).mapLmd fun m => { m with energy := none }).mapClc fun c =>
      { clearClaim c with medium := .sending }
  | none => s

/-- R44: the period that started at `m` is won: the LCU takes the latch (R14), the TSC cuts the burst
(R117). -/
def winPeriod (m : Time) (s : State) : State :=
  settleWin (cutBurst ((((count (fun c => { c with claimsWon := satInc c.claimsWon }) s).mapClc
    wonPeriod).mapLcu (takeLatch (after m (claimPeriod + turnaround))))))

/-- R44, R45: CPE. The modem stops sending claim energy. A station that is OUT has lost the period, and
stays OUT until the outcome (R46; log entry 16). -/
def claimPeriodEnd (s : State) : State :=
  let s := lapse s
  match s.clc.medium, s.clc.markStart with
  | .claiming, some m =>
    if reached s.now (after m claimPeriod) then
      match s.clc.claim with
      | .contending => winPeriod m (silence s)
      | .out => (settleLoss s).mapClc fun c => { c with lossCounted := true }
      | .none => s
    else s
  | _, _ => s

/-! ### The station's own burst (R18, R28, R35) -/

/-- The header of the burst on line (R28): label and address from the configuration, the stamp from
the latch (R15). -/
def ownHeader (s : State) (b : BurstOnLine) : Header where
  label := s.suc.label.getD 0
  sender := s.suc.address.getD 0
  dest := b.destAddr
  stamp := s.lcu.latchPhase
  selector := b.selector
  symbols := b.symbols
  blocks := b.refs.length

/-- R18: the burst on line begins at the latched burst start. -/
def burstStart (s : State) : State :=
  match s.tsc.onLine with
  | none => s
  | some b =>
    if s.clc.medium = .sending ∧ s.lmd.activity ≠ .sendBurst ∧
        reached s.now s.lcu.latchStart = true then
      (dropBurstInHand s).mapLmd fun m => { m with
        activity := .sendBurst, energy := none
        lineOut := .burst (List.replicate 2 (preambleSymbol m.notch))
          (mapSymbols m.notch .robust 2 (headerSymbols s.gOn (ownHeader s b)))
          (mapSymbols m.notch b.map b.symbols (payloadBits b.symbols b.dataBits b.blocks)) }
    else s

/-- R18, R35, R49: the payload of this station's burst ends at `stop`. -/
def endOwnPayload (b : BurstOnLine) (stop : Time) (s : State) : State :=
  match b.dest with
  | .peer _ =>
    ((silence s).mapLmd fun m => { m with
      activity := .receiptWait, energy := none, quietFrom := s.now
      expect := some { start := after stop 60, dest := b.destAddr, blocks := b.refs.length } }).mapClc
        fun c => { c with medium := .awaitReceipt }
  | .broadcast => (applyBroadcastEnd b (resumeListen (silence s))).mapClc (freeAt stop)

/-- R18: burst start + 160 + 40K of this station's burst. -/
def ownPayloadEnd (s : State) : State :=
  match s.tsc.onLine with
  | none => s
  | some b =>
    let stop := after s.lcu.latchStart (payloadOffset + symbolTime * b.symbols)
    if s.lmd.activity = .sendBurst ∧ reached s.now stop = true then endOwnPayload b stop s else s

/-- Two instants lie within `n` µs of each other. -/
def within (n : Nat) (a b : Time) : Bool := decide (elapsed a b ≤ n) || decide (elapsed b a ≤ n)

/-- R23, R35: a receipt's robust symbol, from the paths that its preamble symbol chose. -/
def receiptOnPaths (m : Lmd) (r : ReceiptHeard) : HeardSymbol :=
  fromPaths (choosePaths m.path m.notch r.snrA r.snrB) r.symbolA r.symbolB

/-- R24, R35: the data bits of a receipt's robust symbol. -/
def receiptBits (m : Lmd) (r : ReceiptHeard) : List Bool := readRobust m.notch (receiptOnPaths m r)

/-- R35, R36: the receipt that is received, if one is. A receipt that is cut after its preamble leaves its
robust symbol silent, and is none. -/
def receivedReceipt (s : State) (x : ReceiptExpect) (heard : Option ReceiptHeard) : Option Receipt :=
  heard.bind fun r =>
    if onEnabledPath s.lmd.path r.onA r.onB = true ∧ within receiptTolerance x.start r.start = true ∧
        symbolSilent s.lmd.notch .robust (receiptOnPaths s.lmd r) = false
    then decodeReceipt s.gOn x.dest x.blocks (receiptBits s.lmd r) else none

/-- R121, R122, R98: the TSC takes the receipt of a burst to a peer, or no-receipt. -/
def applyReceipt (i : Nat) (b : BurstOnLine) (r : Option Receipt) (s : State) : State :=
  match r with
  | none => applyNoReceipt i b s
  | some r => match r.result with
    | .received => applyReceived i b r.bitmap s
    | .mapUnknown => applyMapUnknown i b s

/-- R35, R49, R59: the receipt slot of a burst to peer `i` ends at `stop`. -/
def endReceiptSlot (i : Nat) (b : BurstOnLine) (x : ReceiptExpect) (heard : Option ReceiptHeard)
    (stop : Time) (s : State) : State :=
  let r := receivedReceipt s x heard
  takeDeferred i (applyReceipt i b r
    ((enterListen (s.mapLmd fun m => { m with expect := none })).mapClc (freeAt stop)))

/-- R35: CPE + 320 + 40K of this station's unicast burst. -/
def receiptSlotEnd (heard : Option ReceiptHeard) (s : State) : State :=
  match s.tsc.onLine, s.lmd.expect with
  | some b, some x => match b.dest with
    | .broadcast => s
    | .peer i =>
      let stop := after s.lcu.latchStart (receiptEndOffset + symbolTime * b.symbols)
      if s.lmd.activity = .receiptWait ∧ reached s.now stop = true
      then endReceiptSlot i b x heard stop s else s
  | _, _ => s

/-! ### Commands -/

/-- BURST_DETECTED (R22, R23, R29). -/
def execBurstDetected (t start : Time) (onA onB : Bool) (snrA snrB : List Int) (s : State) :
    Host.Outcome State Fault Refusal :=
  taking t (burstDetected start onA onB snrA snrB) s

/-- HEADER_OUTCOME (R23, R29, R30, R33, and what the outcome reaches). -/
def execHeaderOutcome (t : Time) (heard : HeaderHeard) (s : State) :
    Host.Outcome State Fault Refusal :=
  taking t (headerOutcome heard) s

/-- BLOCK_HANDED (R23, R31, R129 to R141). -/
def execBlockHanded (t : Time) (heard : SymbolsHeard) (s : State) :
    Host.Outcome State Fault Refusal :=
  taking t (blockHanded heard) s

/-- RX_PAYLOAD_END (R31, R128). -/
def execRxPayloadEnd (t : Time) (s : State) : Host.Outcome State Fault Refusal :=
  taking t rxPayloadEnd s

/-- SEND_RECEIPT (R34, R128). -/
def execSendReceipt (t : Time) (s : State) : Host.Outcome State Fault Refusal :=
  taking t sendReceipt s

/-- RECEIPT_END (R34). -/
def execReceiptEnd (t : Time) (s : State) : Host.Outcome State Fault Refusal :=
  taking t receiptEnd s

/-- CLAIM_PERIOD_END (R14, R44, R45, R117 to R120). -/
def execClaimPeriodEnd (t : Time) (s : State) : Host.Outcome State Fault Refusal :=
  taking t claimPeriodEnd s

/-- BURST_START (R15, R18, R28). -/
def execBurstStart (t : Time) (s : State) : Host.Outcome State Fault Refusal :=
  taking t burstStart s

/-- OWN_PAYLOAD_END (R18, R49, R122). -/
def execOwnPayloadEnd (t : Time) (s : State) : Host.Outcome State Fault Refusal :=
  taking t ownPayloadEnd s

/-- RECEIPT_SLOT_END (R35, R49, R59, R98, R121 to R123). -/
def execReceiptSlotEnd (t : Time) (heard : Option ReceiptHeard) (s : State) :
    Host.Outcome State Fault Refusal :=
  taking t (receiptSlotEnd heard) s

end Sys2Proof.Machine
end

