-- ==== Sys2Proof/Machine/Port.lean ====
section
/-! DEFINITION. The Port Unit's ingress side (chapter 9): the block mover, the classifier, pause
handling and management diversion. -/

namespace Sys2Proof.Machine

/-! ### The frame in ingress (R107, R144; log entry 19) -/

/-- A frame whose first byte has not arrived yet. -/
def emptyIngress : Ingress := ⟨[], 0, false, false⟩

/-- Blocks the mover would hold for a frame of `length` bytes: it stops after byte 1,522 (R144). -/
def moverBlocks (length : Nat) : Nat := blocksOf (min maxFrame length)

/-- Blocks the mover draws when `bytes` more arrive with `free` blocks in the pool: none once the frame
is short (R107). -/
def moverDraw (g : Ingress) (bytes : List Byte) (free : Nat) : Nat :=
  if g.short then 0 else min free (moverBlocks (g.bytes.length + bytes.length) - g.drawn)

/-- The frame in ingress after `bytes` more have arrived and `n` blocks were drawn for them. -/
def Ingress.grow (g : Ingress) (bytes : List Byte) (rxError : Bool) (n : Nat) : Ingress where
  bytes := g.bytes ++ bytes
  drawn := g.drawn + n
  short := g.short || decide (g.drawn + n < moverBlocks (g.bytes.length + bytes.length))
  rxError := g.rxError || rxError

/-- The frame in ingress that bytes arriving now belong to. Their first byte opens one (R144), unless they
are the rest of a frame that a reset cut, which has no start delimiter left (R157; log entry 38). -/
def frameTaking (bytes : List Byte) (p : Ptu) : Option Ingress :=
  match p.ingress with
  | some g => some g
  | none => if bytes = [] ∨ p.receiving = true then none else some emptyIngress

/-- The receive side with receive data under way or over (log entry 38). -/
def Ptu.withReceiving (under : Bool) (p : Ptu) : Ptu := { p with receiving := under }

/-- Receive data is under way after bytes have arrived. -/
def receivingAfter (bytes : List Byte) (p : Ptu) : Bool := p.receiving || !bytes.isEmpty

/-- R107, R144: bytes arrive from the port; the mover draws a block for each 128-byte stretch that
begins, or marks the frame short. -/
def arrive (bytes : List Byte) (rxError : Bool) (s : State) : State :=
  let s' := s.mapPtu fun p => p.withReceiving (receivingAfter bytes p)
  match frameTaking bytes s.ptu with
  | none => s'
  | some g =>
    let n := moverDraw g bytes s.bpm.txFree
    (s'.mapBpm fun b => { b with txFree := b.txFree - n }).mapPtu fun p =>
      { p with ingress := some (g.grow bytes rxError n) }

/-- The blocks of a frame in ingress return to the transmit pool. -/
def discardIngress (g : Ingress) (s : State) : State :=
  s.mapBpm fun b => { b with txFree := b.txFree + g.drawn }

/-! ### Requests at the MGU (R164) -/

/-- R164: a diverted request joins the queue, or is dropped with MGMT_OVERFLOW. -/
def queueRequest (r : Request) (s : State) : State :=
  if s.mgu.queue.length < requestCapacity then s.mapMgu fun m => { m with queue := m.queue ++ [r] }
  else raise .mgmtOverflow
    (count (fun c => { c with requestsDropped := satInc c.requestsDropped }) s)

/-- R146: a management frame is diverted. -/
def diverted (station : Option Addr) (f : List Byte) : Bool :=
  match station with
  | none => true
  | some a => decide (addrAt f 1 = a) ||
      (decide (addrAt f 1 = broadcastAddr) && decide (byteAt f 15 = codeIdentify))

/-- R146: a diverted frame is handed to the MGU, or lost when it is marked short. -/
def divertFrame (g : Ingress) (s : State) : State :=
  if g.short then
    count (fun c => { c with managementLost := satInc c.managementLost }) (discardIngress g s)
  else discardIngress g (queueRequest (readRequest g.bytes) s)

/-! ### Pause (R147) -/

/-- Whole µs of a pause of `quanta`: ceil(quanta × 0.512). -/
def pauseTime (quanta : Nat) : Nat := (512 * quanta + 999) / 1000

/-- R147: a port control frame. -/
def controlFrame (f : List Byte) (s : State) : State :=
  if fieldAt f 15 2 = 1 then
    let quanta := fieldAt f 17 2
    if quanta = 0 then egressChoice (s.mapPtu fun p => { p with pauseEnd := none })
    else s.mapPtu fun p => { p with pauseEnd := some (after s.now (pauseTime quanta)) }
  else s

/-! ### Levels and destinations (R148, R149) -/

/-- R148: the level of a frame. -/
def frameLevel (p : Ptu) (f : List Byte) : Nat :=
  if etherType f = vlanType then p.priority.getD ((byteAt f 15).toNat / 32) 0 else p.defaultLevel

/-- R149: the destination of a frame. -/
def frameDest (p : Ptu) (f : List Byte) : Dest :=
  if isGroup (addrAt f 1) then .broadcast
  else match forwardFind (addrAt f 1) p.fwd with
    | some e => .peer e.2.peer
    | none => .broadcast

/-! ### The classifier (R145) -/

/-- Step 1 of R145 fails a frame. -/
def frameInError (g : Ingress) : Bool :=
  decide (g.bytes.length < minFrame) || decide (maxFrame < g.bytes.length) ||
  !(frameCheckOk g.bytes) || g.rxError

/-- R145, steps 1 to 8. -/
def classify (g : Ingress) (s : State) : State :=
  if frameInError g then
    count (fun c => { c with portErrors := satInc c.portErrors }) (discardIngress g s)
  else if etherType g.bytes = controlType then
    controlFrame g.bytes
      (count (fun c => { c with portControl := satInc c.portControl }) (discardIngress g s))
  else if etherType g.bytes = managementType ∧ diverted s.suc.address g.bytes = true then
    divertFrame g s
  else if s.suc.address = some (addrAt g.bytes 1) then
    count (fun c => { c with portToStation := satInc c.portToStation }) (discardIngress g s)
  else if s.isOnline = false then
    count (fun c => { c with portOffline := satInc c.portOffline }) (discardIngress g s)
  else
    admitData (frameLevel s.ptu g.bytes) (frameDest s.ptu g.bytes) g.bytes g.drawn g.short s

/-- R145: receive data ends, its last bytes being `bytes`. Where no frame is in ingress, because no frame
byte came (R144; log entry 3) or because a reset cut the frame (R157), there is none to count. -/
def portFrameReceived (bytes : List Byte) (rxError : Bool) (s : State) : State :=
  let s := (arrive bytes rxError s).mapPtu fun p => p.withReceiving false
  match s.ptu.ingress with
  | none => s
  | some g => classify g
      (count (fun c => { c with portReceived := satInc c.portReceived })
        (s.mapPtu fun p => { p with ingress := none }))

/-! ### What the port sends -/

/-- What the transmit side of the port sends. -/
inductive PortOut where
  | nothing
  | frame (bytes : List Byte)
deriving DecidableEq, Repr

/-- The frame being sent, as the bridge receives it (R153, R154); nothing while NRST is low (R158). -/
def portOutput (s : State) : PortOut :=
  if s.nrstLow then .nothing
  else match s.ptu.egress with
    | .sendingData f => .frame f.bytes
    | .sendingReply r => .frame (replyOnWire r.bytes)
    | .idle | .gap => .nothing

/-! ### Commands -/

/-- A command of the port's receive side is taken at `t`: with NRST low no byte is taken, and the model
follows on the RGMII pins alone whether receive data is `under` way after it (R158; log entry 38). -/
def receiveData (t : Time) (under : Bool) (effect : State → State) (s : State) :
    Host.Outcome State Fault Refusal :=
  .next (if s.nrstLow then { s with now := t, ptu := s.ptu.withReceiving under }
    else effect { s with now := t })

/-- PORT_FRAME_RECEIVED (R144 to R149, R157, R108, R164). -/
def execPortFrameReceived (t : Time) (bytes : List Byte) (rxError : Bool) (s : State) :
    Host.Outcome State Fault Refusal :=
  receiveData t false (portFrameReceived bytes rxError) s

/-- INGRESS_BLOCK_DRAW (R107, R144, R157). -/
def execIngressBlockDraw (t : Time) (stretch : List Byte) (rxError : Bool) (s : State) :
    Host.Outcome State Fault Refusal :=
  receiveData t (receivingAfter stretch s.ptu) (arrive stretch rxError) s

end Sys2Proof.Machine
end

