-- ==== Sys2Proof/Machine/Management.lean ====
section
/-! DEFINITION. The Start-up Controller and the Management Unit (chapter 10): resets, the flash read,
the apply of a configuration, requests and replies. -/

namespace Sys2Proof.Machine

/-! ### Resets (R158, R159) -/

/-- The port is sending a frame. -/
def isSending : Egress → Bool
  | .sendingData _ | .sendingReply _ => true
  | .idle | .gap => false

/-- R158: while NRST is low the part sends nothing and drives ATTN inactive; its other state stands
until the release. A frame being sent at NRST's fall is ended there with the transmit error signalled,
since the part sends nothing from then on, though R157 speaks of the reset, which is taken at the
release. DESIGN CHOICE: log entry 25. -/
def assertNrst (t : Time) (s : State) : State :=
  (((({ s with now := t, nrstLow := true } : State).mapMgu fun m => { m with attn := false }).mapLmd
    fun m => { m with lineOut := .silent }).mapPtu fun p =>
      { p with txError := p.txError || isSending p.egress })

/-- The state after hardware reset at `t` with the strap sampled (R158). A frame being sent is ended with
the transmit error signalled (R157); after a low NRST nothing is being sent, and none is signalled.
DESIGN CHOICE: log entry 25. -/
def resetState (t : Time) (strap : Strap) (s : State) : State where
  now := t
  nrstLow := false
  lcu := resetLcu
  lmd := resetLmd
  clc := resetClc
  peers := resetPeers
  lae := resetLae
  tsc := resetTsc
  bpm := resetBpm
  rxa := resetRxa
  ptu := { resetPtu with
    txError := !s.nrstLow && isSending s.ptu.egress, receiving := s.ptu.receiving }
  mgu := resetMgu
  suc := resetSuc strap (after t flashDelay)
  pending := s.pending

/-- The RESTART reply's last byte has left the port, or leaves it at this instant (R159; log entry
24). -/
def restartReady (s : State) : Bool :=
  match s.mgu.restart with
  | .due => true
  | .outstanding => (match s.ptu.egress with
      | .sendingReply r => r.restart
      | .sendingData _ | .idle | .gap => false)
  | .none => false

/-- A data frame is being sent, or a reply other than the RESTART reply. -/
def cutsFrame : Egress → Bool
  | .sendingData _ => true
  | .sendingReply r => !r.restart
  | .idle | .gap => false

/-- R159: every block but the LCU takes its values after RESTART; the strap sample is kept, and the
flash read of a FLASH sample is due at once. -/
def restartTaken (s : State) : State :=
  if restartReady s then
    { resetState s.now s.suc.strap s with
      lcu := s.lcu
      ptu := { resetPtu with
        txError := cutsFrame s.ptu.egress, receiving := s.ptu.receiving }
      suc := resetSuc s.suc.strap s.now }
  else s

/-! ### Configuration (R160 to R163) -/

/-- R42: the generator's seed. -/
def rngSeed (a : Addr) : BitVec 16 :=
  let low := a.setWidth 16
  if low = 0 then 1 else low

/-- R163: an image is applied in one taking. -/
def applyConfig (c : ConfigImage) (s : State) : State :=
  let s := s.mapSuc fun u => { u with
    station := .online, image := some c, address := some c.address, label := some c.label }
  let s := s.mapLcu fun l => { l with q := c.q }
  let s := resumeListen (s.mapLmd fun m => { m with notch := c.notch, path := c.path })
  let s := s.mapClc fun k => { k with rng := rngSeed c.address }
  let s := s.mapLae fun l => { l with margin := c.margin }
  let s := s.mapTsc fun t => { t with lifetimes := c.lifetimes, floor := c.floor }
  let s := s.mapPtu fun p => { p with priority := c.priority, defaultLevel := c.defaultLevel }
  recompute (s.mapMgu fun m => judgeAttn { m with mask := c.mask })

/-- R160: at its due instant in CONFIG the flash read starts. -/
def flashReadStart (s : State) : State :=
  match s.suc.flashDue with
  | some d =>
    if s.suc.station = .config ∧ reached s.now d = true then
      s.mapSuc fun u => { u with flashDue := none, flashRead := some d }
    else s
  | none => s

/-- R160: the flash read ends with 52 bytes; a byte the flash does not return reads 0xFF (log entry
30). -/
def flashReadEnd (bytes : List Byte) (s : State) : State :=
  match s.suc.flashRead with
  | some d =>
    if s.suc.station = .config ∧ reached s.now (after d flashReadTime) = true then
      let block := fitTo 52 (0xFF : Byte) bytes
      let s := s.mapSuc fun u => { u with flashRead := none }
      if configValid 52 block then applyConfig (readConfig .flash block) s
      else raise .configInvalid (s.mapSuc fun u => { u with station := .configWait })
    else s
  | none => s

/-! ### Taking a request and answering it (R164) -/

/-- R164: a reply is placed in the slot, if it has room. -/
def placeReply (r : Reply) (s : State) : State :=
  egressChoice (s.mapPtu fun p => { p with slot := p.slot ++ [r] })

/-- R164: a reply is offered to the slot; without room the MGU keeps it with the request in service. -/
def offerReply (r : Reply) (s : State) : State :=
  if s.ptu.slot.length < slotCapacity then placeReply r s
  else s.mapMgu fun m => { m with service := some r }

/-- R164, R172: the request is answered. -/
def answer (r : Request) (result : ResultCode) (contents : List Byte) (s : State) : State :=
  offerReply ⟨encodeReply (s.suc.address.getD 0) r result contents, false⟩ s

/-- R164: the head request is taken, when it is of the kind asked, no request is in service and no
RESTART is outstanding. -/
def takeRequest (kind : Byte → Bool) (act : Request → State → State) (s : State) : State :=
  match s.mgu.queue with
  | [] => s
  | r :: rest =>
    if kind r.code = true ∧ s.mgu.service = none ∧ s.mgu.restart = .none then
      act r (s.mapMgu fun m => { m with queue := rest })
    else s

/-- A request whose arguments fit acts; otherwise BAD_ARGUMENT with `refused` as its contents (R164,
R172). -/
def withArgs (need : Nat) (refused : State → List Byte) (act : Request → State → State)
    (r : Request) (s : State) : State :=
  if argsOk r need then act r s else answer r .badArgument (refused s) s

/-- Reply contents of a refusal (R172). -/
def noContents (_ : State) : List Byte := []

/-- R164: a reply that waits for room is placed. -/
def replyPlaced (s : State) : State :=
  match s.mgu.service with
  | some r =>
    if s.ptu.slot.length < slotCapacity then
      placeReply r (s.mapMgu fun m => { m with service := none })
    else s
  | none => s

/-! ### Reply contents (R65, R165, R167, R172) -/

/-- A flag of a layout: 1 or 0. -/
def flagByte (b : Bool) : Byte := if b then 1 else 0

/-- The strap in a reply. -/
def strapByte : Strap → Byte
  | .flash => 0
  | .port => 1

/-- The image source in a reply. -/
def sourceByte : Option ConfigImage → Byte
  | none => 0
  | some c => match c.source with
    | .flash => 1
    | .port => 2

/-- The station state in a reply. -/
def stationByte : StationState → Byte
  | .config => 0
  | .configWait => 1
  | .online => 2

/-- The lock state in a reply. -/
def lockByte : LockState → Byte
  | .noLine => 0
  | .acquiring => 1
  | .locked => 2
  | .holdover => 3

/-- A 14-event word in a reply: bits 14 and 15 are zero (R169). -/
def eventBytes (w : BitVec 14) : List Byte := natBytes 2 w.toNat

/-- IDENTIFY. -/
def identifyContents (s : State) : List Byte :=
  [flagByte s.suc.address.isSome] ++ addrBytes (s.suc.address.getD 0) ++ [0x06, 0x12] ++
  [strapByte s.suc.strap, sourceByte s.suc.image, stationByte s.suc.station, lockByte s.lcu.lock]

/-- The station counters in the order of 10.5, the per-level counters by level (R172). -/
def counterList (c : Counters) : List Nat :=
  [c.spuriousCrossings, c.undecodedBursts, c.foreignBursts, c.claimsWon, c.claimsLost,
   c.unlearnedBursts, c.framesReleased, c.noticesRejected] ++
  (c.levels.flatMap fun l => [l.sent, l.admissionDrops, l.expiries, l.retryDrops]) ++
  [c.lineDelivered, c.egressOverflows, c.abandoned, c.bufferRefusals, c.portReceived, c.portErrors,
   c.portControl, c.portToStation, c.portOffline, c.managementLost, c.forwardReplacements,
   c.portSent, c.repliesSent, c.requestsDropped]

/-- The number of ACTIVE records. -/
def activeRecords (s : State) : Nat := (tableEntries s.peers).length

/-- STATUS. -/
def statusContents (s : State) : List Byte :=
  eventBytes s.mgu.flags ++ eventBytes s.mgu.mask ++
  [stationByte s.suc.station, lockByte s.lcu.lock] ++ natBytes 4 s.lcu.p16 ++
  [BitVec.ofNat 8 (activeRecords s), BitVec.ofNat 8 s.tsc.floor] ++
  (counterList s.mgu.counters).flatMap (natBytes 4)

/-- The line of PEER LIST for a record (log entry 23). -/
def peerLine (now : Time) (e : Nat × Peer) : List Byte :=
  [BitVec.ofNat 8 e.1] ++ addrBytes e.2.address ++ natBytes 4 (elapsed e.2.lastHeard now / 1000) ++
  [flagByte e.2.txMaps.isSome, BitVec.ofNat 8 e.2.fallback]

/-- PEER LIST. -/
def peerListContents (s : State) : List Byte :=
  [BitVec.ofNat 8 (activeRecords s)] ++ (tableEntries s.peers).flatMap (peerLine s.now)

/-- The transmit map set in PEER DETAIL, part 0: presence, install time, window list and slots. -/
def txMapBytes : Option TxMapSet → List Byte
  | none => List.replicate (1 + 4 + windowCount + 32 * slotCount) 0
  | some m => 1 :: natBytes 4 m.installed.toNat ++ m.windows.map windowByte ++ m.slots.flatMap slotRecord

/-- The seven per-peer counters (R64). -/
def peerCounterList (c : PeerCounters) : List Nat :=
  [c.burstsSent, c.blocksSent, c.blocksRetried, c.noReceipts, c.mapUnknown, c.burstsReceived,
   c.blocksAccepted]

/-- PEER DETAIL, part 0. -/
def detailPart0 (i : Nat) (p : Peer) : List Byte :=
  [BitVec.ofNat 8 i] ++ txMapBytes p.txMaps ++ (p.rxMaps.flatMap fun r => slotRecord r.current) ++
  (peerCounterList p.counters).flatMap (natBytes 4)

/-- A window of the store in PEER DETAIL, parts 1 and 2. -/
def windowBytes (w : WindowStore) : List Byte :=
  BitVec.ofNat 8 w.count ::
    w.groups.flatMap fun g => [BitVec.ofNat 8 g.average, BitVec.ofNat 8 g.worst]

/-- PEER DETAIL, parts 1 and 2: windows 0..5 and 6..11. -/
def detailStore (i part : Nat) (p : Peer) : List Byte :=
  [BitVec.ofNat 8 i, BitVec.ofNat 8 part] ++
  ((p.store.drop (6 * (part - 1))).take 6).flatMap windowBytes

/-- PEER DETAIL of a part 0..2. -/
def peerDetailContents (i part : Nat) (p : Peer) : List Byte :=
  if part = 0 then detailPart0 i p else detailStore i part p

/-! ### The requests (R116, R159, R161, R165, R167) -/

/-- IDENTIFY. -/
def answerIdentify : Request → State → State :=
  withArgs 0 noContents fun r s => answer r .ok (identifyContents s) s

/-- Clear the flags that a snapshot shows latched, and judge ATTN afresh (R167, R168). -/
def clearReported (s : State) : State :=
  s.mapMgu fun m => judgeAttn { m with flags := 0 }

/-- R167: the snapshot, the clearing, and the reply from the snapshot. -/
def answerStatus : Request → State → State :=
  withArgs 0 noContents fun r s => answer r .ok (statusContents s) (clearReported s)

/-- The mask in force as a reply's contents (R172). -/
def maskContents (s : State) : List Byte := eventBytes s.mgu.mask

/-- R165: a mask replaces the mask in force, and ATTN is judged afresh. -/
def setMask (mask : BitVec 14) (s : State) : State :=
  s.mapMgu fun m => judgeAttn { m with mask := mask }

/-- EVENT MASK (R165). -/
def answerEventMask : Request → State → State :=
  withArgs 3 maskContents fun r s =>
    let selection := eventBits (fieldAt r.args 2 2)
    if byteAt r.args 1 = 1 then
      let s := setMask (s.mgu.mask ||| selection) s
      answer r .ok (maskContents s) s
    else if byteAt r.args 1 = 2 then
      let s := setMask (s.mgu.mask &&& ~~~selection) s
      answer r .ok (maskContents s) s
    else answer r .badArgument (maskContents s) s

/-- The floor in force as a reply's contents (R172). -/
def floorContents (s : State) : List Byte := [BitVec.ofNat 8 s.tsc.floor]

/-- FLOOR (R116, R165). -/
def answerFloor : Request → State → State :=
  withArgs 1 floorContents fun r s =>
    let s := recompute (s.mapTsc fun t => { t with floor := min 7 (byteAt r.args 1).toNat })
    answer r .ok (floorContents s) s

/-- PEER LIST (R65, R165). -/
def answerPeerList : Request → State → State :=
  withArgs 0 noContents fun r s => answer r .ok (peerListContents s) s

/-- PEER DETAIL (R65, R165). -/
def answerPeerDetail : Request → State → State :=
  withArgs 2 noContents fun r s =>
    let i := (byteAt r.args 1).toNat
    let part := (byteAt r.args 2).toNat
    match s.peer i with
    | some p =>
      if part ≤ 2 then answer r .ok (peerDetailContents i part p) s else answer r .badArgument [] s
    | none => answer r .badArgument [] s

/-- The configuration block of a CONFIG LOAD is valid: its argument length is 52 and fits the bytes
present, and the block passes the check (R162, R172). -/
def loadValid (r : Request) : Bool :=
  decide (r.argLength ≤ r.args.length) && configValid r.argLength (r.args.take r.argLength)

/-- CONFIG LOAD (R161). -/
def answerConfigLoad (r : Request) (s : State) : State :=
  if s.suc.station = .configWait then
    if loadValid r then
      let s := applyConfig (readConfig .port (r.args.take r.argLength)) s
      answer r .ok [] s
    else answer r .badArgument [] (raise .configInvalid s)
  else answer r .wrongState [] s

/-- RESTART (R159). -/
def answerRestart : Request → State → State :=
  withArgs 0 noContents fun r s =>
    offerReply ⟨encodeReply (s.suc.address.getD 0) r .ok [], true⟩
      (s.mapMgu fun m => { m with restart := .outstanding })

/-- A code that names no request (R164, R172). -/
def answerUnknown (r : Request) (s : State) : State := answer r .unknownRequest [] s

/-- A request of a given code. -/
def isCode (c : Byte) (x : Byte) : Bool := decide (x = c)

/-! ### Commands -/

/-- NRST_ASSERT (R158). -/
def execNrstAssert (t : Time) (s : State) : Host.Outcome State Fault Refusal :=
  .next (assertNrst t s)

/-- HARDWARE_RESET (R158). -/
def execHardwareReset (t : Time) (strap : Strap) (s : State) : Host.Outcome State Fault Refusal :=
  .next (resetState t strap s)

/-- FLASH_READ_START (R160). -/
def execFlashReadStart (t : Time) (s : State) : Host.Outcome State Fault Refusal :=
  taking t flashReadStart s

/-- FLASH_READ_END (R160, R162, R163). -/
def execFlashReadEnd (t : Time) (bytes : List Byte) (s : State) : Host.Outcome State Fault Refusal :=
  taking t (flashReadEnd bytes) s

/-- RESTART_TAKEN (R159). -/
def execRestartTaken (t : Time) (s : State) : Host.Outcome State Fault Refusal :=
  taking t restartTaken s

/-- REPLY_PLACED (R164). -/
def execReplyPlaced (t : Time) (s : State) : Host.Outcome State Fault Refusal :=
  taking t replyPlaced s

/-- IDENTIFY (R164, R165). -/
def execIdentify (t : Time) (s : State) : Host.Outcome State Fault Refusal :=
  taking t (takeRequest (isCode codeIdentify) answerIdentify) s

/-- STATUS (R164, R167). -/
def execStatus (t : Time) (s : State) : Host.Outcome State Fault Refusal :=
  taking t (takeRequest (isCode codeStatus) answerStatus) s

/-- EVENT_MASK (R164, R165, R168). -/
def execEventMask (t : Time) (s : State) : Host.Outcome State Fault Refusal :=
  taking t (takeRequest (isCode codeEventMask) answerEventMask) s

/-- FLOOR (R116, R164, R165). -/
def execFloor (t : Time) (s : State) : Host.Outcome State Fault Refusal :=
  taking t (takeRequest (isCode codeFloor) answerFloor) s

/-- PEER_LIST (R65, R164, R165). -/
def execPeerList (t : Time) (s : State) : Host.Outcome State Fault Refusal :=
  taking t (takeRequest (isCode codePeerList) answerPeerList) s

/-- PEER_DETAIL (R65, R164, R165). -/
def execPeerDetail (t : Time) (s : State) : Host.Outcome State Fault Refusal :=
  taking t (takeRequest (isCode codePeerDetail) answerPeerDetail) s

/-- CONFIG_LOAD (R161 to R164). -/
def execConfigLoad (t : Time) (s : State) : Host.Outcome State Fault Refusal :=
  taking t (takeRequest (isCode codeConfigLoad) answerConfigLoad) s

/-- RESTART (R159, R164). -/
def execRestart (t : Time) (s : State) : Host.Outcome State Fault Refusal :=
  taking t (takeRequest (isCode codeRestart) answerRestart) s

/-- UNKNOWN_REQUEST (R164, R172). -/
def execUnknownRequest (t : Time) (s : State) : Host.Outcome State Fault Refusal :=
  taking t (takeRequest (fun c => !codeKnown c) answerUnknown) s

end Sys2Proof.Machine
end

