-- ==== Sys2Proof/Machine/Dispatch.lean ====
section
/-! DEFINITION. The meaning of each command, one arm for each constructor. -/

namespace Sys2Proof.Machine

/-- The effect of a command on everything but the queue (log entry 1). -/
def exec (i : Instr) (s : State) : Host.Outcome State Fault Refusal :=
  match i with
  | .qualifiedCrossing t => Sys2Proof.Machine.execQualifiedCrossing t s
  | .acquiringTimeout t => Sys2Proof.Machine.execAcquiringTimeout t s
  | .holdoverInstant t => Sys2Proof.Machine.execHoldoverInstant t s
  | .lossInstant t => Sys2Proof.Machine.execLossInstant t s
  | .energyReport t onA onB => Sys2Proof.Machine.execEnergyReport t onA onB s
  | .quietReport t => Sys2Proof.Machine.execQuietReport t s
  | .gapTailCheck t => Sys2Proof.Machine.execGapTailCheck t s
  | .openingInstant t => Sys2Proof.Machine.execOpeningInstant t s
  | .markSlotListenEnd t => Sys2Proof.Machine.execMarkSlotListenEnd t s
  | .claimBitSlot t => Sys2Proof.Machine.execClaimBitSlot t s
  | .claimPeriodEnd t => Sys2Proof.Machine.execClaimPeriodEnd t s
  | .burstStart t => Sys2Proof.Machine.execBurstStart t s
  | .hiddenWinnerDeadline t => Sys2Proof.Machine.execHiddenWinnerDeadline t s
  | .occupancyEnd t => Sys2Proof.Machine.execOccupancyEnd t s
  | .burstDetected t start onA onB snrA snrB => Sys2Proof.Machine.execBurstDetected t start onA onB snrA snrB s
  | .headerOutcome t heard => Sys2Proof.Machine.execHeaderOutcome t heard s
  | .reviewComplete t idx => Sys2Proof.Machine.execReviewComplete t idx s
  | .blockHanded t heard => Sys2Proof.Machine.execBlockHanded t heard s
  | .rxPayloadEnd t => Sys2Proof.Machine.execRxPayloadEnd t s
  | .sendReceipt t => Sys2Proof.Machine.execSendReceipt t s
  | .receiptEnd t => Sys2Proof.Machine.execReceiptEnd t s
  | .ownPayloadEnd t => Sys2Proof.Machine.execOwnPayloadEnd t s
  | .receiptSlotEnd t heard => Sys2Proof.Machine.execReceiptSlotEnd t heard s
  | .silenceInstant t idx => Sys2Proof.Machine.execSilenceInstant t idx s
  | .mapSetLifetime t idx => Sys2Proof.Machine.execMapSetLifetime t idx s
  | .lastUnicastExpiry t idx => Sys2Proof.Machine.execLastUnicastExpiry t idx s
  | .lastNoticeExpiry t idx => Sys2Proof.Machine.execLastNoticeExpiry t idx s
  | .robustResendExpiry t idx => Sys2Proof.Machine.execRobustResendExpiry t idx s
  | .frameExpiry t kind desc => Sys2Proof.Machine.execFrameExpiry t kind desc s
  | .reassemblyTimeout t pos => Sys2Proof.Machine.execReassemblyTimeout t pos s
  | .portFrameReceived t bytes rxError => Sys2Proof.Machine.execPortFrameReceived t bytes rxError s
  | .pauseEnd t => Sys2Proof.Machine.execPauseEnd t s
  | .forwardingAging t pos => Sys2Proof.Machine.execForwardingAging t pos s
  | .egressLastByte t => Sys2Proof.Machine.execEgressLastByte t s
  | .egressGapEnd t => Sys2Proof.Machine.execEgressGapEnd t s
  | .replyPlaced t => Sys2Proof.Machine.execReplyPlaced t s
  | .nrstAssert t => Sys2Proof.Machine.execNrstAssert t s
  | .hardwareReset t strap => Sys2Proof.Machine.execHardwareReset t strap s
  | .flashReadStart t => Sys2Proof.Machine.execFlashReadStart t s
  | .flashReadEnd t bytes => Sys2Proof.Machine.execFlashReadEnd t bytes s
  | .identify t => Sys2Proof.Machine.execIdentify t s
  | .status t => Sys2Proof.Machine.execStatus t s
  | .eventMask t => Sys2Proof.Machine.execEventMask t s
  | .floor t => Sys2Proof.Machine.execFloor t s
  | .peerList t => Sys2Proof.Machine.execPeerList t s
  | .peerDetail t => Sys2Proof.Machine.execPeerDetail t s
  | .configLoad t => Sys2Proof.Machine.execConfigLoad t s
  | .restart t => Sys2Proof.Machine.execRestart t s
  | .unknownRequest t => Sys2Proof.Machine.execUnknownRequest t s
  | .restartTaken t => Sys2Proof.Machine.execRestartTaken t s
  | .zcSample t level => Sys2Proof.Machine.execZcSample t level s
  | .ingressBlockDraw t stretch rxError => Sys2Proof.Machine.execIngressBlockDraw t stretch rxError s

end Sys2Proof.Machine
end

