-- ==== Sys2Proof/Machine/Step.lean ====
section
/-! DEFINITION. One step: the command at the front of the queue is taken. -/

namespace Sys2Proof.Machine

/-- The queue of waiting commands without its front. -/
def State.withQueue (q : List Instr) (s : State) : State := { s with pending := q }

/-- On an empty queue the time base moves on by 1 µs, and nothing else happens (log entry 2). -/
def idle (s : State) : State := { s with now := after s.now 1 }

/-- One step of the part. -/
def step (s : State) : Host.Outcome State Fault Refusal :=
  match s.pending with
  | [] => .next (idle s)
  | c :: rest => exec c (s.withQueue rest)

/-- The state with the command that a word spells put at the front of the queue. No word spells a
command (log entry 1), so the state stands. -/
def State.withFetchWord (s : State) (nbits w : Nat) : State :=
  match decodeTableWord nbits w with
  | some c => s.withQueue (c :: s.pending)
  | none => s

end Sys2Proof.Machine
end

