-- ==== Sys2Proof/Safety.lean ====
section
/-! DEFINITION. What holds of every state of a run: the ranges, balances and orders that the rules say
are kept. -/

namespace Sys2Proof.Machine

/-! ### Line-Cycle Unit (table of 1.3, R1 to R3) -/

/-- The fields the table of 1.3 gives each lock state, and the ranges of the period estimate, Q and the
candidate run. -/
structure LockShape (l : Lcu) : Prop where
  noLine : l.lock = .noLine → l.tPrev = none ∧ l.tLast = none ∧ l.accCount = 0
  acquiring : l.lock = .acquiring → l.tPrev.isSome = true ∧ l.tLast = none ∧ l.accCount ≤ 7
  following : l.lock = .locked ∨ l.lock = .holdover →
    l.tPrev = none ∧ l.tLast.isSome = true ∧ l.accCount = 8
  period : l.p16 = 0 ∨ (p16Min ≤ l.p16 ∧ l.p16 ≤ p16Max)
  seeded : 1 ≤ l.accCount → l.p16 ≠ 0
  qRange : 2 ≤ l.q ∧ l.q ≤ 32
  runRange : l.runLength ≤ 32

/-! ### Modem and medium (tables of 2.6.1, chapter 3, 10.2) -/

/-- How activity, medium state, claim state, the burst in hand and the burst on line go together. -/
structure ModeShape (s : State) : Prop where
  offline : s.suc.station ≠ .online →
    s.lmd.activity = .off ∧ s.clc.medium = .sensedBusy ∧ s.clc.claim = .none
  online : s.suc.station = .online → s.lmd.activity ≠ .off
  hand : s.lmd.inHand.isSome = true ↔ s.lmd.activity = .receive
  expect : s.lmd.expect.isSome = true ↔ s.lmd.activity = .receiptWait
  waiting : s.lmd.activity = .receiptWait ↔ s.clc.medium = .awaitReceipt
  bursting : s.lmd.activity = .sendBurst → s.clc.medium = .sending
  onLine : s.tsc.onLine.isSome = true ↔ (s.clc.medium = .sending ∨ s.clc.medium = .awaitReceipt)
  claiming : s.clc.claim ≠ .none → s.clc.medium = .claiming
  contending : s.clc.claim = .contending →
    s.clc.markStart.isSome = true ∧ s.clc.word.isSome = true ∧ s.clc.level.isSome = true
  occupied : s.clc.occupancyEnd.isSome = true ↔ s.clc.medium = .occupied
  gap : s.clc.medium = .gap → s.clc.freeInstant.isSome = true
  listening : s.clc.markListen = true → s.clc.medium = .gap
  counted : s.clc.lossCounted = true → s.clc.claim = .out

/-- R42: the random generator is never zero. -/
def RngLive (s : State) : Prop := s.clc.rng ≠ 0

/-! ### Events and counters (R158, R166, R168, 10.5) -/

/-- R168, R158: ATTN shows the latched and enabled flags, and is inactive while NRST is low. -/
def AttnJudged (s : State) : Prop := s.mgu.attn = (!s.nrstLow && attnOf s.mgu.flags s.mgu.mask)

/-- Every station counter and per-peer counter lies within its 32 bits. -/
def CountersInRange (s : State) : Prop :=
  (∀ n ∈ counterList s.mgu.counters, n ≤ counterMax) ∧
  ∀ p ∈ s.peers.filterMap id, ∀ n ∈ peerCounterList p.counters, n ≤ counterMax

/-! ### Collections (00_scope.md, Collections) -/

/-- Every table has its positions, and every queue is within its capacity. -/
structure WithinCapacity (s : State) : Prop where
  peers : s.peers.length = peerCount
  reviews : s.lae.reviews.length = peerCount
  queues : s.tsc.queues.length = levelCount
  lifetimes : s.tsc.lifetimes.length = levelCount
  bcastTags : s.tsc.bcastTags.length = levelCount
  table : s.rxa.table.length = entryCount
  fwd : s.ptu.fwd.length = forwardCount
  fifo : s.ptu.fifo.length ≤ fifoCapacity
  slot : s.ptu.slot.length ≤ slotCapacity
  requests : s.mgu.queue.length ≤ requestCapacity
  levels : s.mgu.counters.levels.length = levelCount
  notch : s.lmd.notch.length = groupCount
  priority : s.ptu.priority.length = levelCount ∧ ∀ l ∈ s.ptu.priority, l ≤ 7
  defaultLevel : s.ptu.defaultLevel ≤ 7
  floor : s.tsc.floor ≤ 7
  recent : ∀ p ∈ s.peers.filterMap id, p.recent.length ≤ recentCapacity

/-! ### Pools (R106, R107, R130) -/

/-- Blocks of the admitted frames of a kind. -/
def heldBlocks (kind : FrameKind) (t : Tsc) : Nat :=
  (((framesHeld t).filter fun f => f.kind = kind).map fun f => f.blocks.length).sum

/-- Admitted frames of a kind. -/
def heldFrames (kind : FrameKind) (t : Tsc) : Nat :=
  ((framesHeld t).filter fun f => f.kind = kind).length

/-- Blocks of the frame in ingress. -/
def ingressBlocks (p : Ptu) : Nat :=
  match p.ingress with
  | some g => g.drawn
  | none => 0

/-- Receive-pool blocks of the frame being sent at egress. -/
def egressBlocks : Egress → Nat
  | .sendingData f => f.blocks
  | .sendingReply _ | .idle | .gap => 0

/-- Receive-pool blocks of the reassembly entries. -/
def entryBlocks (table : List (Option Entry)) : Nat :=
  ((table.filterMap id).map fun e => e.blocks.length).sum

/-- R130: the receive pool's balance at 256. -/
def RxBalance (s : State) : Prop :=
  s.bpm.rxFree + entryBlocks s.rxa.table + (s.ptu.fifo.map fun f => f.blocks).sum +
    egressBlocks s.ptu.egress = rxBlocks

/-- R107: the balances of the transmit pool and the control reserve, with what they rest on: no two
frames hold one descriptor, a frame in ingress that is not short has its blocks, and every level names
a queue. -/
structure TxBalance (s : State) : Prop where
  txBlocks : s.bpm.txFree + ingressBlocks s.ptu + heldBlocks .data s.tsc = Machine.txBlocks
  txDescriptors : s.bpm.txDesc + heldFrames .data s.tsc = dataDescriptors
  ctlBlocks : s.bpm.ctlFree + heldBlocks .notice s.tsc = controlBlocks
  ctlDescriptors : s.bpm.ctlDesc + heldFrames .notice s.tsc = noticeDescriptors
  distinct : ((framesHeld s.tsc).map fun f => (f.kind, f.desc)).Nodup
  ingress : ∀ g, s.ptu.ingress = some g → g.short = false → moverBlocks g.bytes.length ≤ g.drawn
  queues : s.tsc.queues.length = levelCount
  levels : (∀ l ∈ s.ptu.priority, l ≤ 7) ∧ s.ptu.defaultLevel ≤ 7

/-! ### Trains (R112, R113, R115) -/

/-- The active train, if there is one, above the stacked trains. -/
def trains (t : Tsc) : List Train := t.active.toList ++ t.stack

/-- R112, R115: levels rise strictly from the active train down the stack, a stack stands under an
active train alone, and every train holds 1..4 frames of its own level and destination. -/
structure StackOrder (t : Tsc) : Prop where
  rising : (trains t).Pairwise fun a b => a.level < b.level
  top : t.stack ≠ [] → t.active.isSome = true
  level : ∀ r ∈ trains t, r.level ≤ 7
  frames : ∀ r ∈ trains t, 1 ≤ r.frames.length ∧ r.frames.length ≤ trainFrames
  own : ∀ r ∈ trains t, ∀ f ∈ r.frames, f.level = r.level ∧ f.dest = r.dest
  queued : ∀ l, ∀ f ∈ queueAt t l, f.level = l

/-- R113: the prospective claim level is the level the next claim decision would give. -/
def ProspectiveFresh (s : State) : Prop := s.tsc.prospective = prospectiveLevel s.tsc

/-! ### Peers (R54, R63, R83) -/

/-- R54: no two ACTIVE records hold the same station address. -/
def PeersDistinct (s : State) : Prop :=
  ∀ i j p q, s.peer i = some p → s.peer j = some q → p.address = q.address → i = j

/-- R83: current and previous of a slot never carry the same version, and versions are 0..15. -/
def SlotVersions (r : RxSlot) : Prop :=
  (∀ m, r.current = some m → m.version < 16) ∧ (∀ m, r.previous = some m → m.version < 16) ∧
  ∀ m n, r.current = some m → r.previous = some n → m.version ≠ n.version

/-- R83 in every record, and the fallback count within 0..2 (R63). -/
def PeerVersions (s : State) : Prop :=
  ∀ p ∈ s.peers.filterMap id, p.fallback ≤ 2 ∧ ∀ r ∈ p.rxMaps, SlotVersions r

/-- R80: in every record, each of the four slots that the announced window list names holds a current
map. -/
def AnnouncedMapped (s : State) : Prop :=
  ∀ p ∈ s.peers.filterMap id, p.rxMaps.length = slotCount ∧
    ∀ k : Nat, some k ∈ p.announced →
      ∃ r m, p.rxMaps[k]? = some r ∧ r.current = some m

/-- A slot map as the part holds one: a version 0..15 and 60 loadings 0..10 (R25, R74, R93). -/
structure MapInRange (m : VersionedMap) : Prop where
  version : m.version ≤ 15
  groups : m.loads.length = groupCount
  loads : ∀ b ∈ m.loads, b ≤ 10

/-- R63: the tables of a record have their places: 12 windows of 60 groups in the store, four slots of
receive maps, and in a transmit map set 12 windows, each of a slot 0..3 or ROBUST, and four slots; and every
map is in its range. -/
structure PeerShape (p : Peer) : Prop where
  windows : p.store.length = windowCount ∧ ∀ w ∈ p.store, w.groups.length = groupCount
  rxSlots : p.rxMaps.length = slotCount
  rxMaps : ∀ r ∈ p.rxMaps, ∀ m, r.current = some m ∨ r.previous = some m → MapInRange m
  txWindows : ∀ x, p.txMaps = some x → x.windows.length = windowCount ∧
    ∀ k : Nat, some k ∈ x.windows → k ≤ 3
  txSlots : ∀ x, p.txMaps = some x → x.slots.length = slotCount ∧ ∀ m, some m ∈ x.slots → MapInRange m

/-- R63 in every record. -/
def PeersShaped (s : State) : Prop := ∀ p ∈ s.peers.filterMap id, PeerShape p

/-! ### Forwarding and reassembly (R131, R150) -/

/-- R150: the forwarding entries have distinct individual addresses, and each names an ACTIVE record. -/
structure ForwardSound (s : State) : Prop where
  distinct : ∀ m n e f, tableGet s.ptu.fwd m = some e → tableGet s.ptu.fwd n = some f →
    e.address = f.address → m = n
  individual : ∀ n e, tableGet s.ptu.fwd n = some e → isGroup e.address = false
  active : ∀ n e, tableGet s.ptu.fwd n = some e → (s.peer e.peer).isSome = true

/-- R131: no two reassembly entries have the same key, and none is empty. -/
structure EntriesSound (s : State) : Prop where
  distinct : ∀ m n e f, tableGet s.rxa.table m = some e → tableGet s.rxa.table n = some f →
    e.sender = f.sender → e.level = f.level → e.tag = f.tag → e.bcast = f.bcast → m = n
  filled : ∀ n e, tableGet s.rxa.table n = some e → e.blocks ≠ []

/-! ### What the part sends (R20, R36) -/

/-- The symbols that the part puts on the line. -/
def LineOut.symbols : LineOut → List Symbol
  | .silent => []
  | .claimSignal signal => [signal]
  | .burst preamble header payload => preamble ++ header ++ payload
  | .receipt preamble robust => [preamble, robust]

/-- R20: a notched group carries nothing in any symbol on the line; R36: nothing is sent while the station
is not ONLINE. -/
structure NotchedSilent (s : State) : Prop where
  notched : ∀ x ∈ s.lmd.lineOut.symbols, ∀ g, s.lmd.notch.getD g false = true → x.getD g .silent = .silent
  offline : s.suc.station ≠ .online → s.lmd.lineOut = .silent

/-- The map can be used with a notch mask: a window map loads none of its groups (R25). -/
def PayloadMap.fits (notch : List Bool) : PayloadMap → Prop
  | .robust => True
  | .window loads => loads.length = notch.length ∧
      ∀ g, notch.getD g false = true → loads.getD g 0 = 0

/-- What one group carries on a map in a symbol (R20, R24, R25): nothing where it is notched or has loading
0; on the robust map one bit on each of its 16 carriers, each coded bit on four; on a window map its
loading in bits on each carrier. -/
structure GroupCarries (notch : List Bool) (map : PayloadMap) (g : Nat) (x : GroupSignal) : Prop where
  notched : notch.getD g false = true → x = .silent
  robust : notch[g]? = some false → map = .robust →
    ∃ a b c d : Bool, x = .carriers ([a, b, c, d].flatMap fun v => List.replicate 4 [v])
  silent : ∀ loads, map = .window loads → loads.getD g 0 = 0 → x = .silent
  loaded : ∀ loads, notch[g]? = some false → map = .window loads → loads.getD g 0 ≠ 0 →
    ∃ bits, x = .carriers bits ∧ bits.length = 16 ∧ ∀ c ∈ bits, c.length = loads.getD g 0

/-- R23: symbols sent are heard undisturbed on the path chosen for each group; what the other path gives has
no part in it. -/
def HeardOn (choice : List RxPath) (symbols : List Symbol) (heard : SymbolsHeard) : Prop :=
  ∀ i g, i < symbols.length → g < groupCount →
    ((match choice.getD g .a with | .a => heard.onA | .b => heard.onB).getD i []).getD g [] =
      (asHeard (symbols.getD i [])).getD g []

/-! ### When a command has its effect: the conditions that the statements name -/

/-- The sample taken next, if HIGH, completes a LOW-to-HIGH run (R1). -/
structure CrossingReady (l : Lcu) : Prop where
  low : l.accepted = .low
  level : l.runLevel = .high
  begun : 1 ≤ l.runLength
  full : l.q ≤ l.runLength + 1

/-- A command that takes a HIGH sample at `t`: the table lists it under two names (log entry 7). -/
def IsHighSample (t : Time) (c : Instr) : Prop := c = .qualifiedCrossing t ∨ c = .zcSample t .high

/-- A station with the word `w` in a claim period marked at `m`, while IN, listens at `u` (R43). -/
def ListensAt (m u : Time) (w : BitVec 8) : Prop :=
  1 ≤ elapsed m u / 30 ∧ elapsed m u / 30 ≤ 8 ∧ w.getLsbD (8 - elapsed m u / 30) = false ∧
  6 ≤ elapsed m u % 30

/-- R43: a report of energy in progress since before `t` has put a contending station OUT, as it listened
up to the instant before `t` (log entry 10). -/
def Caught (t : Time) (s : State) : Prop :=
  s.clc.medium = .claiming ∧ s.clc.claim = .contending ∧ ∃ e m w, s.lmd.energy = some e ∧ e ≠ t ∧
    s.clc.markStart = some m ∧ s.clc.word = some w ∧ ListensAt m (t - 1) w

/-- The header of the burst in hand is due at `t` (R29). -/
structure HeaderDue (t : Time) (s : State) (b : BurstInHand) : Prop where
  live : s.nrstLow = false
  receive : s.lmd.activity = .receive
  hand : s.lmd.inHand = some b
  stage : b.stage = .header
  due : reached t (after b.start 170) = true

/-- An own-label header, from another individual address (R29). -/
structure OwnLabel (s : State) (h : Header) : Prop where
  label : s.suc.label = some h.label
  sender : s.suc.address ≠ some h.sender
  individual : isGroup h.sender = false

/-- The medium state takes a declared free instant, with no loss left to count (R46 to R48). -/
def MediumFollows (c : Clc) : Prop :=
  c.medium = .idle ∨ c.medium = .gap ∨ c.medium = .sensedBusy ∨
  (c.medium = .claiming ∧ (c.claim = .none ∨ (c.claim = .out ∧ c.lossCounted = true)))

/-- The next block of a served burst, its 136 bytes being `bytes`, is due at `t` (R31, R127): they are read
from its payload symbols. -/
structure BlockDue (t : Time) (s : State) (heard : SymbolsHeard) (bytes : List Byte) (b : BurstInHand)
    (h : Header) (sv : Service) : Prop where
  live : s.nrstLow = false
  receive : s.lmd.activity = .receive
  hand : s.lmd.inHand = some b
  header : b.header = some h
  stage : b.stage = .payload
  left : b.handed < h.blocks
  due : reached t (handInstant b h (b.handed + 1)) = true
  decoded : blockHeard s.lmd b h (b.handed + 1) heard = bytes
  service : s.rxa.service = some sv

/-- The state with one more block of the burst in hand handed at `t`, nothing decided yet. -/
def handOver (t : Time) (b : BurstInHand) (s : State) : State :=
  { s with
    now := t
    lmd := { s.lmd with inHand := some { b with handed := b.handed + 1 } } }

/-- R128: the payload has gone silent in a symbol that holds bits of the block next handed: no carrier of
any group of its map gives a bit on the path chosen for the group. That this is the test is the model's
choice (log entry 40). -/
def GoneSilent (s : State) (heard : SymbolsHeard) (b : BurstInHand) (h : Header) : Prop :=
  ∃ i, i < h.symbols ∧ i * b.dataBits < 1088 * (b.handed + 1) ∧ 1088 * b.handed < (i + 1) * b.dataBits ∧
    ∀ g, g < 60 → (s.lmd.notch.getD g false = true) ∨
      (∃ loads, b.map = .window loads ∧ loads.getD g 0 = 0) ∨
      ∀ c ∈ ((match b.choice.getD g .a with | .a => heard.onA | .b => heard.onB).getD i []).getD g [],
        c = []

/-- The cases in which R129 refuses a block as damaged: `bytes` is the block, `h` the burst header. Handed
not intact: its check fails, its map does not carry the blocks declared (R31), or the payload has gone
silent in it (R128). -/
def Damaged (s : State) (heard : SymbolsHeard) (bytes : List Byte) (b : BurstInHand) (h : Header)
    (sv : Service) : Prop :=
  let k := readBlockHeader bytes
  GoneSilent s heard b h ∨ blockIntact bytes = false ∨ blocksCarried h.symbols b.dataBits < h.blocks ∨
  k.index = 0 ∨ 12 < k.index ∨ k.total = 0 ∨ 12 < k.total ∨ k.total < k.index ∨
  (k.kind = .data ∧ ((k.total - 1) * 128 + k.last < 64 ∨ 1522 < (k.total - 1) * 128 + k.last)) ∨
  (k.kind = .notice ∧ (k.level ≠ 0 ∨ k.total ≠ 2 ∨ k.last ≠ 12 ∨ sv.bcast = true))

/-- Case 1 of R132 applies. -/
def CompletedBefore (s : State) (sv : Service) (k : BlockHeader) : Prop :=
  sv.bcast = false ∧ ∃ p, s.peer sv.sender = some p ∧ (k.level, k.tag) ∈ p.recent

/-- The entry at a position has the key of a block (R131). -/
def KeyAt (s : State) (sv : Service) (k : BlockHeader) (pos : Nat) (e : Entry) : Prop :=
  tableFind (fun e => e.hasKey sv k) s.rxa.table = some (pos, e)

/-- No entry has the key of a block (R131). -/
def NoKey (s : State) (sv : Service) (k : BlockHeader) : Prop :=
  tableFind (fun e => e.hasKey sv k) s.rxa.table = none

/-- An entry after it has stored a block at `t` (R132, case 3). -/
def Entry.adding (e : Entry) (k : BlockHeader) (bytes : List Byte) (t : Time) : Entry :=
  { e with blocks := e.blocks ++ [(k.index, blockPayloadOf bytes)], lastTime := t }

/-- The burst in service with its block at position `i` (from 0) accepted (R132, R141). -/
def Service.accepting (sv : Service) (i : Nat) : Service :=
  { sv with receipt := sv.receipt.map fun r => { r with bitmap := r.bitmap.set i true } }

/-- A record with one more block accepted from its peer (R64). -/
def Peer.acceptingOne (p : Peer) : Peer :=
  { p with counters := { p.counters with blocksAccepted := min 4294967295 (p.counters.blocksAccepted + 1) } }

/-- The state with the entry at a position freed: its blocks are back in the receive pool, and it counts as
abandoned (R131). -/
def freedAt (pos : Nat) (e : Entry) (s : State) : State :=
  { s with
    bpm := { s.bpm with rxFree := s.bpm.rxFree + e.blocks.length }
    rxa := { s.rxa with table := tableSet s.rxa.table pos none }
    mgu := { s.mgu with counters := { s.mgu.counters with
      abandoned := min 4294967295 (s.mgu.counters.abandoned + 1) } } }

/-- `r` is `s` with a position for a new entry of a block that is taken at `t` (R132, cases 4 and 5, R133).
-/
inductive MakesRoom (t : Time) (s : State) (sv : Service) (x : BlockHeader) : State → Prop where
  /-- No entry has the key of the block, and a position is vacant. -/
  | vacant (key : NoKey s sv x) (room : none ∈ s.rxa.table) : MakesRoom t s sv x s
  /-- The entry of its key is stale: it does not agree with the block, and is freed. -/
  | stale (pos : Nat) (e : Entry) (key : KeyAt s sv x pos e) (differs : e.agrees x = false) :
      MakesRoom t s sv x (freedAt pos e s)
  /-- The table is full: the entry that stored its last block longest ago is evicted, 20,000 µs back or
  more, the one at the lowest position among equals. -/
  | evicted (pos : Nat) (e : Entry) (key : NoKey s sv x) (full : none ∉ s.rxa.table)
      (at_pos : tableGet s.rxa.table pos = some e) (old : 20000 ≤ elapsed e.lastTime t)
      (oldest : ∀ j f, tableGet s.rxa.table j = some f →
        elapsed f.lastTime t < elapsed e.lastTime t ∨
        (elapsed f.lastTime t = elapsed e.lastTime t ∧ pos ≤ j)) :
      MakesRoom t s sv x (freedAt pos e s)

/-- The block handed completes the frame of the entry `e` at a position of the state `r`: it adds the last
missing index to the entry there, `r` being `s`; or it is the only block of a frame, for which a new entry
opens at the lowest vacant position of the state `r` that makes room for it (R132, R133, R138). -/
structure Completes (t : Time) (s : State) (heard : SymbolsHeard) (bytes : List Byte) (b : BurstInHand)
    (h : Header) (sv : Service) (r : State) (pos : Nat) (e : Entry) (p : Peer) : Prop where
  due : BlockDue t s heard bytes b h sv
  sound : ¬Damaged s heard bytes b h sv
  new : ¬ CompletedBefore s sv (readBlockHeader bytes)
  entry : (∃ e₀, KeyAt s sv (readBlockHeader bytes) pos e₀ ∧ e₀.agrees (readBlockHeader bytes) = true ∧
      e₀.holdsIndex (readBlockHeader bytes).index = false ∧
      e = e₀.adding (readBlockHeader bytes) bytes t ∧ r = s) ∨
    (MakesRoom t s sv (readBlockHeader bytes) r ∧ lowestVacant r.rxa.table = some pos ∧
      (readBlockHeader bytes).total = 1 ∧
      e = newEntry sv (readBlockHeader bytes) (blockPayloadOf bytes) t)
  room : r.bpm.rxFree ≠ 0
  last : e.isComplete = true
  peer : s.peer sv.sender = some p

/-- The MGU's state after an event: its flag latched, the others kept, ATTN judged (R166, R168). -/
def latch (e : Event) (m : Mgu) : Mgu :=
  { m with
    flags := m.flags ||| (1#14 <<< e.index)
    attn := decide ((m.flags ||| (1#14 <<< e.index)) &&& m.mask ≠ 0) }

/-- The modem back in LISTEN at `t` with nothing in hand (R30, R31). -/
def backToListen (t : Time) (m : Lmd) : Lmd :=
  { m with activity := .listen, listenFrom := some t, inHand := none }

/-- A medium state with no claim period under way (R37, R46). -/
def withoutClaim (medium : Medium) (c : Clc) : Clc :=
  { c with
    medium := medium, claim := .none, markStart := none, word := none, level := none
    markListen := false, lossCounted := false }

/-- GAP from a free instant (R38). -/
def inGap (free : Time) (c : Clc) : Clc :=
  { withoutClaim .gap c with freeInstant := some free, occupancyEnd := none }

/-- The CLC's state with the period lost (R45). -/
def lost (c : Clc) : Clc :=
  { c with
    lostStreak := min 255 (c.lostStreak + 1)
    waited := c.waited || decide (min 255 (c.lostStreak + 1) = 4), lastLevel := c.level }

/-- The state with the period lost and counted, and the modem silent (R45). -/
def losing (s : State) : State :=
  { s with
    lmd := { s.lmd with lineOut := .silent }
    clc := lost s.clc
    mgu := { s.mgu with counters :=
      { s.mgu.counters with claimsLost := min 4294967295 (s.mgu.counters.claimsLost + 1) } } }

/-- The station is OUT, and its loss is not counted yet (R45). -/
def LossOpen (c : Clc) : Prop := c.claim = .out ∧ c.lossCounted = false

/-- `d` is `s` with the loss of a station that is OUT counted, where it was not (R45). -/
def LossSettled (s d : State) : Prop := (LossOpen s.clc → d = losing s) ∧ (¬LossOpen s.clc → d = s)

/-- The state OCCUPIED until a declared free instant (R47). -/
def occupiedUntil (free : Time) (s : State) : State :=
  { s with clc := { withoutClaim .occupied s.clc with occupancyEnd := some free } }

/-- `d` is `s` after a declared free instant `free` reaches the CLC at `t` (R43, R45 to R49): a station that
is IN before CPE, or that energy in progress has put OUT by then, or OUT with its loss not counted, has
lost the period. That a station still IN at or after CPE stands, CPE being taken at its own instant, is the
model's (log entry 32). -/
def DeclaredAt (t free : Time) (s d : State) : Prop :=
  (MediumFollows s.clc ∧ d = occupiedUntil free s) ∨
  (s.clc.medium = .claiming ∧ (LossOpen s.clc ∨
      (s.clc.claim = .contending ∧ ∃ m, s.clc.markStart = some m ∧ elapsed m t < 270) ∨
      Caught t s) ∧
    d = occupiedUntil free (losing s)) ∨
  (s.clc.medium = .claiming ∧ s.clc.claim = .contending ∧ ¬Caught t s ∧
    (∃ m, s.clc.markStart = some m ∧ 270 ≤ elapsed m t) ∧ d = s) ∨
  (s.clc.medium = .occupied ∧ ∃ e, s.clc.occupancyEnd = some e ∧
    d = { s with clc := { s.clc with occupancyEnd := some (laterOf e free) } }) ∨
  ((s.clc.medium = .sending ∨ s.clc.medium = .awaitReceipt) ∧ d = s)

/-- A frame, a train or a reassembly entry refers to a record index: it is not evictable (R57). -/
def Busy (s : State) (i : Nat) : Prop :=
  (∃ f ∈ framesHeld s.tsc, f.dest = .peer i) ∨ (∃ r ∈ trains s.tsc, r.dest = .peer i) ∨
  ∃ e ∈ s.rxa.table.filterMap id, e.sender = i

/-- A record when it is claimed at `t` for the sender with address `a` (4.1, R56). -/
def learnedPeer (a : Addr) (t : Time) (unicast : Option Time) : Peer where
  address := a
  lastHeard := t
  lastUnicast := unicast
  txMaps := none
  fallback := 0
  nextTag := List.replicate 8 0
  store := List.replicate 12 ⟨0, List.replicate 60 ⟨0, 0⟩⟩
  filings := 0
  rxMaps := List.replicate 4 ⟨none, none⟩
  announced := List.replicate 12 none
  lastNotice := none
  noticePending := false
  robustResend := none
  recent := []
  counters := ⟨0, 0, 0, 0, 0, 0, 0⟩
  deferred := false

/-- The record `p` of index `i` is refreshed by an own-label header taken at `t`, and the measurement of its
burst is filed under the window stamped; a review begins at the eighth filing when none is running (R55,
R67 to R69): `q` is the record then. -/
structure Refreshed (t : Time) (b : BurstInHand) (h : Header) (i : Nat) (p q : Peer) (s s' : State) :
    Prop where
  heard : q.lastHeard = t
  unicast : q.lastUnicast = if s.suc.address = some h.dest then some t else p.lastUnicast
  unstamped : h.stamp = none → q.store = p.store ∧ q.filings = p.filings ∧ s'.lae = s.lae
  stamped : ∀ st, h.stamp = some st → q.store = updAt p.store (st / 100) (fileWindow b.measurement)
  reviews : h.stamp ≠ none → 7 ≤ p.filings → tableGet s.lae.reviews i = none →
    q.filings = 0 ∧ s'.lae = { s.lae with reviews := tableSet s.lae.reviews i (some ⟨t, q.store⟩) }
  counts : h.stamp ≠ none → (p.filings < 7 ∨ tableGet s.lae.reviews i ≠ none) →
    q.filings = min 8 (p.filings + 1) ∧ s'.lae = s.lae

/-- `s'` has a mark slot started at `start` for a claim at `level` (R39, R41, R42, R45). -/
structure Marked (start : Time) (level : Nat) (s s' : State) : Prop where
  medium : s'.clc.medium = .claiming
  claim : s'.clc.claim = .contending
  mark : s'.clc.markStart = some start
  claimLevel : s'.clc.level = some level
  generator : s'.clc.rng = rngDraw s.clc.rng
  word : s'.clc.word = some (BitVec.ofNat 8
    (32 * (7 - level) + 16 * s.clc.waited.toNat + (rngDraw s.clc.rng).toNat % 16))
  streak : s'.clc.lostStreak = if s.clc.lastLevel = some level then s.clc.lostStreak else 0
  waited : s'.clc.waited = s.clc.waited
  signal : s'.lmd.lineOut = .claimSignal (s.lmd.notch.map fun n => if n then .silent else .claim)
  hand : s'.lmd.inHand = none

/-- A request can be taken: it is the head of the queue, no request is in service, no RESTART is
outstanding (R164). -/
structure RequestDue (s : State) (r : Request) (rest : List Request) : Prop where
  live : s.nrstLow = false
  head : s.mgu.queue = r :: rest
  service : s.mgu.service = none
  restart : s.mgu.restart = .none

/-- The reply to a request with a result and contents (R164, R172). -/
def replyTo (s : State) (r : Request) (result : ResultCode) (contents : List Byte) : Reply :=
  ⟨encodeReply (s.suc.address.getD 0) r result contents, false⟩

/-- The bytes belong to a frame that the port takes: one in ingress, or one that they open after a start
delimiter (R144, R157). -/
def Taken (s : State) (bytes : List Byte) : Prop :=
  s.ptu.ingress ≠ none ∨ (bytes ≠ [] ∧ s.ptu.receiving = false)

/-- The frame that ends with `bytes` in ingress (R144). -/
def wholeFrame (s : State) (bytes : List Byte) : List Byte :=
  (s.ptu.ingress.getD emptyIngress).bytes ++ bytes

/-- The frame passes step 1 of R145. -/
structure GoodFrame (s : State) (bytes : List Byte) (rxError : Bool) : Prop where
  long : 64 ≤ (wholeFrame s bytes).length
  short : (wholeFrame s bytes).length ≤ 1522
  check : frameCheckOk (wholeFrame s bytes) = true
  clean : (s.ptu.ingress.getD emptyIngress).rxError = false ∧ rxError = false

/-- The mover has a block for every stretch of the frame, drawn or free (R107). -/
def NotShort (s : State) (bytes : List Byte) : Prop :=
  let g := s.ptu.ingress.getD emptyIngress
  g.short = false ∧ moverBlocks (wholeFrame s bytes).length ≤ g.drawn + s.bpm.txFree

/-- The receipt slot of the burst `b` to peer `i` ends at `t` (R35): `x` is the receipt expectation, `p`
the peer's record, `a` the active train. -/
structure SlotEnds (t : Time) (s : State) (b : BurstOnLine) (x : ReceiptExpect) (i : Nat) (p : Peer)
    (a : Train) : Prop where
  live : s.nrstLow = false
  onLine : s.tsc.onLine = some b
  dest : b.dest = .peer i
  expect : s.lmd.expect = some x
  waiting : s.lmd.activity = .receiptWait
  due : reached t (after s.lcu.latchStart (300 + 40 * b.symbols)) = true
  peer : s.peer i = some p
  active : s.tsc.active = some a

/-- The receipt `r` is heard for the expectation `x`: on an enabled path, its start within 8 µs of the
expected one, its symbol not cut (R36), decoded for the destination (R35). -/
structure ReceiptIs (s : State) (x : ReceiptExpect) (h : ReceiptHeard) (r : Receipt) : Prop where
  path : (s.lmd.path = .single → h.onA = true) ∧ (s.lmd.path = .dual → h.onA = true ∨ h.onB = true)
  start : elapsed x.start h.start ≤ 8 ∨ elapsed h.start x.start ≤ 8
  whole : ∃ g, g < 60 ∧ s.lmd.notch.getD g false = false ∧
    ∃ c ∈ (receiptOnPaths s.lmd h).getD g [], c ≠ []
  decoded : decodeReceipt s.gOn x.dest x.blocks (receiptBits s.lmd h) = some r

/-- No receipt is received (R35). -/
def NoReceipt (s : State) (x : ReceiptExpect) (heard : Option ReceiptHeard) : Prop :=
  ∀ h r, heard = some h → ¬ReceiptIs s x h r

/-- The modem and the medium after a receipt slot that ended at `t` (R35, R49). -/
structure SlotOver (t : Time) (b : BurstOnLine) (s s' : State) : Prop where
  modem : s'.lmd = { s.lmd with activity := .listen, listenFrom := some t, expect := none }
  medium : s'.clc = inGap (after s.lcu.latchStart (300 + 40 * b.symbols)) s.clc
  now : s'.now = t
  lcu : s'.lcu = s.lcu
  lae : s'.lae = s.lae
  rxa : s'.rxa = s.rxa
  ptu : s'.ptu = s.ptu
  suc : s'.suc = s.suc

/-- The frame has every block DONE (R123). -/
def Frame.isDone (f : Frame) : Bool := f.blocks.all fun x => x.state = .done

/-- A block of the frame is in the burst (R123). -/
def Frame.carried (b : BurstOnLine) (f : Frame) : Bool := b.refs.any fun r => f.holds r.kind r.desc

/-- R123, for a frame of the burst whose blocks have their states: it completes. -/
def Frame.completes (b : BurstOnLine) (f : Frame) : Bool := f.carried b && f.isDone

/-- R123: it is dropped as expired. -/
def Frame.expires (b : BurstOnLine) (f : Frame) : Bool := f.carried b && !f.isDone && f.expired

/-- R123: it is dropped at the retry limit. -/
def Frame.givenUp (b : BurstOnLine) (f : Frame) : Bool :=
  f.carried b && !f.isDone && !f.expired && decide (16 ≤ f.attempts)

/-- R123: it leaves the train. -/
def Frame.leaves (b : BurstOnLine) (f : Frame) : Bool :=
  f.completes b || f.expires b || f.givenUp b

/-- R121, R122: `f'` is the frame `f` after a result of the burst `b`: `accepted` tells each burst position
whether its block was accepted. A block in the burst is DONE or PENDING again; every other keeps its
state, and so does the rest of the frame. -/
structure Settled (b : BurstOnLine) (accepted : List Bool) (f f' : Frame) : Prop where
  rest : f' = { f with blocks := f'.blocks }
  length : f'.blocks.length = f.blocks.length
  inBurst : ∀ (i j : Nat) (x : FrameBlock), f.blocks[j]? = some x → b.refs[i]? = some ⟨f.kind, f.desc, j⟩ →
    (∀ k : Nat, k < i → b.refs[k]? ≠ some ⟨f.kind, f.desc, j⟩) →
    f'.blocks[j]? = some ⟨if accepted.getD i false then .done else .pending, x.sentBefore⟩
  outside : ∀ j : Nat, (∀ i : Nat, b.refs[i]? ≠ some ⟨f.kind, f.desc, j⟩) → f'.blocks[j]? = f.blocks[j]?

/-- The blocks of some frames. -/
def blockSum (fs : List Frame) : Nat := (fs.map fun f => f.blocks.length).sum

/-- A result of the burst on line `b` is applied to the train `a`, whose frames it makes `frames` (R121 to
R123, R115, R113): of the frames with a block in the burst, those with every block DONE are sent, those
expired and those at their sixteenth attempt are dropped, and the others stay; the blocks and descriptors
of those that leave return; a train without frames gives way to the top of the stack. `m` is the MGU's
state before. -/
structure Applied (b : BurstOnLine) (frames : List Frame) (a : Train) (m : Mgu) (s s' : State) : Prop where
  onLine : s'.tsc.onLine = none
  stays : (∃ f ∈ frames, f.leaves b = false) →
    s'.tsc.active = some { a with frames := frames.filter fun f => !f.leaves b } ∧
    s'.tsc.stack = s.tsc.stack
  resumes : (∀ f ∈ frames, f.leaves b = true) →
    s'.tsc.active = s.tsc.stack.head? ∧ s'.tsc.stack = s.tsc.stack.tail
  queues : s'.tsc.queues = s.tsc.queues
  prospective : s'.tsc.prospective = prospectiveLevel s'.tsc
  others : s'.tsc.floor = s.tsc.floor ∧ s'.tsc.lifetimes = s.tsc.lifetimes ∧
    s'.tsc.bcastTags = s.tsc.bcastTags
  pools : s'.bpm =
    let gone (k : FrameKind) := frames.filter fun f => f.leaves b && decide (f.kind = k)
    { s.bpm with
      txFree := s.bpm.txFree + blockSum (gone .data)
      txDesc := s.bpm.txDesc + (gone .data).length
      ctlFree := s.bpm.ctlFree + blockSum (gone .notice)
      ctlDesc := s.bpm.ctlDesc + (gone .notice).length }
  results : s'.mgu =
    let expired := (frames.filter fun f => f.expires b).length
    let givenUp := (frames.filter fun f => f.givenUp b).length
    let flags : BitVec 14 := m.flags ||| (if expired = 0 then 0#14 else 1#14 <<< 7) |||
      (if givenUp = 0 then 0#14 else 1#14 <<< 8)
    { m with
      flags := flags
      attn := if expired + givenUp = 0 then m.attn else decide (flags &&& m.mask ≠ 0)
      counters := { m.counters with levels := updAt m.counters.levels a.level fun c =>
        { c with
          sent := min 4294967295 (c.sent + (frames.filter fun f => f.completes b).length)
          expiries := min 4294967295 (c.expiries + expired)
          retryDrops := min 4294967295 (c.retryDrops + givenUp) } } }

/-- R119: `kMax` symbols may go in a burst latched at a phase in the run of slot `k`. -/
inductive RunAllows (ws : WindowList) (k phase p16 : Nat) : Nat → Prop where
  /-- Every window is of the slot: the run has no end. -/
  | endless (all : ∀ w, w < 12 → ws.getD w none = some k) : RunAllows ws k phase p16 28
  /-- The run ends at the first window, cyclically, that is not of the slot. -/
  | ends (j : Nat) (later : 1 ≤ j) (round : j ≤ 12)
      (other : ws.getD ((phase / 100 + j) % 12) none ≠ some k)
      (first : ∀ c, 1 ≤ c → c < j → ws.getD ((phase / 100 + c) % 12) none = some k) :
      RunAllows ws k phase p16 (min 28
        ((((100 * ((phase / 100 + j) % 12) + 1200 - phase) % 1200) * p16 / 19200 - 160) / 40))

/-- R118, R119: a burst to `dest` goes on the window map `m` of slot `k`, in at most `kMax` symbols: the
latched phase and a transmit map set are present, the fallback count is below 2, the window list names the
slot for the window of the phase, and a whole block fits into a run of four symbols or more. -/
structure OnWindow (s : State) (dest : Dest) (k : Nat) (m : VersionedMap) (kMax : Nat) : Prop where
  mapped : ∃ i p set phase, dest = .peer i ∧ s.peer i = some p ∧ p.txMaps = some set ∧ p.fallback < 2 ∧
    s.lcu.latchPhase = some phase ∧ set.windows.getD (phase / 100) none = some k ∧
    set.slots.getD k none = some m ∧ RunAllows set.windows k phase s.lcu.latchP16 kMax
  symbols : 4 ≤ kMax
  block : 1 ≤ kMax * (3 * (16 * m.loads.sum) / 4) / 1088

/-- R119: the number of blocks that may go to `dest` from frames, in `kMax` symbols of `d` data bits. -/
def mayGo (gOn : Nat) (dest : Dest) (frames : List Frame) (kMax d : Nat) : Nat :=
  let pending := (frames.map fun f => (f.blocks.filter fun x => decide (x.state = .pending)).length).sum
  min (min (kMax * d / 1088) pending) (match dest with
    | .peer _ => min 48 (2 * gOn - 66)
    | .broadcast => 48)

/-- R94: a window list as it is settled at install: an entry that names an absent slot, or a slot whose map
carries no more than the robust map, becomes ROBUST, and every other stands. -/
structure WindowsSettled (gOn : Nat) (slots : List (Option VersionedMap)) (ws ws' : WindowList) :
    Prop where
  length : ws'.length = ws.length
  robust : ∀ w : Nat, ws[w]? = some none → ws'[w]? = some none
  absent : ∀ w k : Nat, ws[w]? = some (some k) → slots.getD k none = none → ws'[w]? = some none
  thin : ∀ (w k : Nat) (m : VersionedMap), ws[w]? = some (some k) → slots.getD k none = some m →
    3 * (16 * m.loads.sum) / 4 ≤ 2 * gOn → ws'[w]? = some none
  keeps : ∀ (w k : Nat) (m : VersionedMap), ws[w]? = some (some k) → slots.getD k none = some m →
    2 * gOn < 3 * (16 * m.loads.sum) / 4 → ws'[w]? = some (some k)

/-- R170: the fields of a header stand at their places in a bit stream, bits numbered from 0. -/
structure HeaderBits (bits : List Bool) (h : Header) : Prop where
  label : bitsNat ((bits.drop 0).take 16) = h.label.toNat
  sender : bitsNat ((bits.drop 16).take 48) = h.sender.toNat
  dest : bitsNat ((bits.drop 64).take 48) = h.dest.toNat
  stamped : ∀ p, h.stamp = some p → bits[112]? = some true ∧ bitsNat ((bits.drop 113).take 11) = p
  unstamped : h.stamp = none → bits[112]? = some false
  robust : h.selector = .robust → bits[124]? = some true
  slot : ∀ k v, h.selector = .slot k v → bits[124]? = some false ∧
    bitsNat ((bits.drop 125).take 2) = k ∧ bitsNat ((bits.drop 127).take 4) = v
  symbols : bitsNat ((bits.drop 131).take 5) = h.symbols
  blocks : bitsNat ((bits.drop 136).take 6) = h.blocks
  check : bitsNat ((bits.drop 142).take 16) = (crc16 (bits.take 142)).toNat

/-- R171: the record of a slot in a map notice, 32 bytes. -/
def RecordBytes (bytes : List Byte) (slot : Option VersionedMap) : Prop :=
  bytes.length = 32 ∧
  match slot with
  | none => ∀ x ∈ bytes, x = 0
  | some m => byteAt bytes 1 = 1 ∧ (byteAt bytes 2).toNat = m.version ∧
      ∀ k, k < 30 → (byteAt bytes (3 + k)).toNat = 16 * m.loads.getD (2 * k) 0 + m.loads.getD (2 * k + 1) 0

/-- The pools with a frame's blocks and descriptor returned (R106). -/
def returned (f : Frame) (b : Bpm) : Bpm :=
  match f.kind with
  | .data => { b with txFree := b.txFree + f.blocks.length, txDesc := b.txDesc + 1 }
  | .notice => { b with ctlFree := b.ctlFree + f.blocks.length, ctlDesc := b.ctlDesc + 1 }

/-- The counters with `f` applied to those of one level (R126). -/
def atLevel (l : Nat) (f : LevelCounters → LevelCounters) (c : Counters) : Counters :=
  { c with levels := updAt c.levels l f }

/-- The MGU's state with its counters changed by `f`. -/
def Mgu.counting (f : Counters → Counters) (m : Mgu) : Mgu := { m with counters := f m.counters }

/-- A report of the prospective claim level opens no claim period (R40). -/
def NoClaimOpens (s : State) : Prop :=
  s.clc.medium ≠ .idle ∨ s.clc.quietFlag = false ∨ s.suc.station ≠ .online

/-- The frame that ends with `bytes` leaves the mover: its blocks are back in the transmit pool, and the
classifier has counted it (R144, R145). -/
def classified (t : Time) (f : Counters → Counters) (s : State) : State :=
  { s with
    now := t
    bpm := { s.bpm with txFree := s.bpm.txFree + (s.ptu.ingress.getD emptyIngress).drawn }
    ptu := { s.ptu with ingress := none, receiving := false }
    mgu := { s.mgu with counters := f { s.mgu.counters with
      portReceived := min 4294967295 (s.mgu.counters.portReceived + 1) } } }

/-- The frame passes the first five steps of R145: it is for the line. -/
structure ForLine (s : State) (bytes : List Byte) (rxError : Bool) : Prop where
  live : s.nrstLow = false
  taken : Taken s bytes
  good : GoodFrame s bytes rxError
  notControl : etherType (wholeFrame s bytes) ≠ 0x8808
  notManagement : etherType (wholeFrame s bytes) = 0x89C3 →
    diverted s.suc.address (wholeFrame s bytes) = false
  elsewhere : s.suc.address ≠ some (addrAt (wholeFrame s bytes) 1) ∧ s.suc.address ≠ none
  online : s.suc.station = .online

/-- R155: what an IDLE arbiter starts when no pause holds: the oldest reply, otherwise the head of the
FIFO, otherwise nothing. -/
structure Chosen (p q : Ptu) : Prop where
  reply : ∀ r rest, p.slot = r :: rest →
    q = { p with slot := rest, egress := .sendingReply r, txError := false }
  data : ∀ f rest, p.slot = [] → p.fifo = f :: rest →
    q = { p with fifo := rest, egress := .sendingData f, txError := false }
  nothing : p.slot = [] → p.fifo = [] → q = p

/-- R112: the next claim decision at level `l` forms a train: queue `l` holds `f` and then `rest`, every more
urgent queue is empty, an active train is less urgent, the first `n` frames, four at most, have one
destination, and its tag counter stands at `k`. -/
structure FormsTrain (l : Nat) (f : Frame) (rest : List Frame) (n k : Nat) (s : State) : Prop where
  queue : queueAt s.tsc l = f :: rest
  level : l ≤ 7
  first : ∀ j, j < l → queueAt s.tsc j = []
  urgent : ∀ a, s.tsc.active = some a → l < a.level
  atMost : n ≤ 4
  atLeast : 1 ≤ n
  there : n ≤ (f :: rest).length
  alike : ∀ g ∈ (f :: rest).take n, g.dest = f.dest
  ends : n < 4 → ∀ g, (f :: rest)[n]? = some g → g.dest ≠ f.dest
  counter : tagCounter s f.dest l = k
  tagRange : k < 256

/-- R112, R113, R114: that train has been formed, as the active train: its frames have left the queue with
consecutive tags and every block PENDING, and the train that was active is on top of the stack. -/
structure TrainStands (l : Nat) (f : Frame) (rest : List Frame) (n k : Nat) (s s' : State) : Prop where
  train : ∃ r, s'.tsc.active = some r ∧ r.level = l ∧ r.dest = f.dest ∧ r.frames.length = n ∧
    ∀ j g, j < n → (f :: rest)[j]? = some g → r.frames[j]? = some { g with
      tag := some ((k + j) % 256), attempts := 0
      blocks := g.blocks.map fun _ => ⟨.pending, false⟩ }
  queue : queueAt s'.tsc l = (f :: rest).drop n
  queues : ∀ j, j ≠ l → queueAt s'.tsc j = queueAt s.tsc j
  stack : s'.tsc.stack = s.tsc.active.toList ++ s.tsc.stack
  prospective : s'.tsc.prospective = some l
  others : s'.tsc.onLine = s.tsc.onLine ∧ s'.tsc.floor = s.tsc.floor ∧
    s'.tsc.lifetimes = s.tsc.lifetimes
  bcast : f.dest = .broadcast → s'.peers = s.peers ∧
    s'.tsc.bcastTags = updAt s.tsc.bcastTags l fun _ => (k + n) % 256
  peer : ∀ i p, f.dest = .peer i → s.peer i = some p → s'.tsc.bcastTags = s.tsc.bcastTags ∧
    s'.peers = tableSet s.peers i (some { p with nextTag := updAt p.nextTag l fun _ => (k + n) % 256 })

/-- The taken request's reply is handed to egress from `s`: `s'` is the state then (R164). It waits in the
slot, is started by an idle port, or stays with the MGU when the slot is full; an idle port that finds
an older reply in the slot starts that one (R155). -/
structure Offered (r : Reply) (s s' : State) : Prop where
  full : 2 ≤ s.ptu.slot.length → s' = { s with mgu := { s.mgu with service := some r } }
  waits : s.ptu.slot.length < 2 → (s.ptu.egress ≠ .idle ∨ pauseHolds s.now s.ptu = true) →
    s' = { s with ptu := { s.ptu with slot := s.ptu.slot ++ [r] } }
  starts : s.ptu.slot = [] → s.ptu.egress = .idle → pauseHolds s.now s.ptu = false →
    s' = { s with ptu := { s.ptu with egress := .sendingReply r, txError := false } }
  oldest : ∀ x, s.ptu.slot = [x] → s.ptu.egress = .idle → pauseHolds s.now s.ptu = false →
    s' = { s with ptu := { s.ptu with slot := [r], egress := .sendingReply x, txError := false } }

/-! ### Grouping (R77, R78) -/

/-- The window's map and a slot's map join (R77): the merged map keeps seven eighths of each. -/
def Joins (m w : List Nat) : Prop :=
  7 * (16 * w.sum) ≤ 8 * (16 * (m.zipWith min w).sum) ∧
  7 * (16 * m.sum) ≤ 8 * (16 * (m.zipWith min w).sum)

/-- R77, R78: a window with map `w`, taken when `slots` are open, is assigned to slot `k` and leaves the
slots `slots'`. -/
inductive Placed (slots : List (List Nat)) (w : List Nat) : List (List Nat) → Nat → Prop where
  /-- It joins the first slot tested that it can join. -/
  | joins (k : Nat) (m : List Nat) (at_k : slots[k]? = some m) (fits : Joins m w)
      (first : ∀ j, j < k → ∀ m', slots[j]? = some m' → ¬Joins m' w) :
      Placed slots w (slots.set k (m.zipWith min w)) k
  /-- It joins none, and opens the next slot. -/
  | opens (alone : ∀ m ∈ slots, ¬Joins m w) (room : slots.length < 4) :
      Placed slots w (slots ++ [w]) slots.length
  /-- It joins none, the slots are all open, and the one with the largest merged map takes it, the lowest
  number among equals. -/
  | forced (k : Nat) (m : List Nat) (alone : ∀ m ∈ slots, ¬Joins m w) (full : 4 ≤ slots.length)
      (at_k : slots[k]? = some m)
      (largest : ∀ (j : Nat) (m' : List Nat), slots[j]? = some m' →
        (m'.zipWith min w).sum < (m.zipWith min w).sum ∨
        ((m'.zipWith min w).sum = (m.zipWith min w).sum ∧ k ≤ j)) :
      Placed slots w (slots.set k (m.zipWith min w)) k

/-- R77, R78: windows with their candidates, taken in order when `slots` are open, leave the slots `slots'`
and are assigned to the slots of a list; a window without a candidate is passed over. -/
inductive Grouped : List (List Nat) → List (Option (List Nat)) → List (List Nat) → WindowList → Prop where
  | done (slots : List (List Nat)) : Grouped slots [] slots []
  | passed {slots slots' : List (List Nat)} {rest : List (Option (List Nat))} {ws : WindowList}
      (after : Grouped slots rest slots' ws) : Grouped slots (none :: rest) slots' (none :: ws)
  | taken {slots mid slots' : List (List Nat)} {w : List Nat} {rest : List (Option (List Nat))}
      {ws : WindowList} {k : Nat} (placed : Placed slots w mid k) (after : Grouped mid rest slots' ws) :
      Grouped slots (some w :: rest) slots' (some k :: ws)

end Sys2Proof.Machine
end

