-- ==== Sys2Proof/WellFormed.lean ====
section
/-! DEFINITION. Which operands a command can have: the ranges that the rules give to indices,
positions, descriptors and lengths. A command outside them has the effect its meaning gives it, which
is none where it names nothing. -/

namespace Sys2Proof

open Machine

/-- The instant at which a command is taken. -/
def Instr.time : Instr → Time
  | .qualifiedCrossing t => t
  | .acquiringTimeout t => t
  | .holdoverInstant t => t
  | .lossInstant t => t
  | .energyReport t _ _ => t
  | .quietReport t => t
  | .gapTailCheck t => t
  | .openingInstant t => t
  | .markSlotListenEnd t => t
  | .claimBitSlot t => t
  | .claimPeriodEnd t => t
  | .burstStart t => t
  | .hiddenWinnerDeadline t => t
  | .occupancyEnd t => t
  | .burstDetected t _ _ _ _ _ => t
  | .headerOutcome t _ => t
  | .reviewComplete t _ => t
  | .blockHanded t _ => t
  | .rxPayloadEnd t => t
  | .sendReceipt t => t
  | .receiptEnd t => t
  | .ownPayloadEnd t => t
  | .receiptSlotEnd t _ => t
  | .silenceInstant t _ => t
  | .mapSetLifetime t _ => t
  | .lastUnicastExpiry t _ => t
  | .lastNoticeExpiry t _ => t
  | .robustResendExpiry t _ => t
  | .frameExpiry t _ _ => t
  | .reassemblyTimeout t _ => t
  | .portFrameReceived t _ _ => t
  | .pauseEnd t => t
  | .forwardingAging t _ => t
  | .egressLastByte t => t
  | .egressGapEnd t => t
  | .replyPlaced t => t
  | .nrstAssert t => t
  | .hardwareReset t _ => t
  | .flashReadStart t => t
  | .flashReadEnd t _ => t
  | .identify t => t
  | .status t => t
  | .eventMask t => t
  | .floor t => t
  | .peerList t => t
  | .peerDetail t => t
  | .configLoad t => t
  | .restart t => t
  | .unknownRequest t => t
  | .restartTaken t => t
  | .zcSample t _ => t
  | .ingressBlockDraw t _ _ => t

/-- An index or a position lies within 1..n. -/
def inTable (n i : Nat) : Bool := decide (1 ≤ i) && decide (i ≤ n)

/-- The descriptors of a kind, numbered from 0 (R107). -/
def descriptors : FrameKind → Nat
  | .data => dataDescriptors
  | .notice => noticeDescriptors

/-- A symbol heard has the 60 groups, each with 16 carriers or with none when nothing was demodulated in
it. -/
def symbolHeard (symbol : HeardSymbol) : Bool :=
  decide (symbol.length = groupCount) &&
    symbol.all fun g => decide (g.length = 16) || decide (g.length = 0)

/-- `n` symbols heard on each path. -/
def symbolsHeard (n : Nat) (heard : SymbolsHeard) : Bool :=
  decide (heard.onA.length = n) && decide (heard.onB.length = n) &&
    (heard.onA ++ heard.onB).all symbolHeard

/-- The SNR of every group of a path. -/
def snrHeard (snr : List Int) : Bool := decide (snr.length = groupCount)

/-- The operands of a command are within their ranges. -/
def Instr.wellFormed : Instr → Bool
  | .burstDetected _ _ _ _ snrA snrB =>
    snrHeard snrA && snrHeard snrB
  | .headerOutcome _ heard =>
    symbolsHeard 2 heard.toSymbolsHeard && decide (heard.senderNotch.length = groupCount)
  | .reviewComplete _ i => inTable peerCount i
  | .blockHanded _ heard => decide (1 ≤ heard.onA.length) &&
    decide (heard.onA.length ≤ maxSymbols) && symbolsHeard heard.onA.length heard
  | .receiptSlotEnd _ heard => match heard with
    | some r => snrHeard r.snrA && snrHeard r.snrB && symbolHeard r.symbolA && symbolHeard r.symbolB
    | none => true
  | .silenceInstant _ i => inTable peerCount i
  | .mapSetLifetime _ i => inTable peerCount i
  | .lastUnicastExpiry _ i => inTable peerCount i
  | .lastNoticeExpiry _ i => inTable peerCount i
  | .robustResendExpiry _ i => inTable peerCount i
  | .frameExpiry _ kind desc => decide (desc < descriptors kind)
  | .reassemblyTimeout _ pos => inTable entryCount pos
  | .forwardingAging _ pos => inTable forwardCount pos
  | .flashReadEnd _ bytes => decide (bytes.length ≤ 52)
  | .ingressBlockDraw _ stretch _ =>
    decide (1 ≤ stretch.length) && decide (stretch.length ≤ blockPayload)
  | .qualifiedCrossing _ => true
  | .acquiringTimeout _ => true
  | .holdoverInstant _ => true
  | .lossInstant _ => true
  | .energyReport _ _ _ => true
  | .quietReport _ => true
  | .gapTailCheck _ => true
  | .openingInstant _ => true
  | .markSlotListenEnd _ => true
  | .claimBitSlot _ => true
  | .claimPeriodEnd _ => true
  | .burstStart _ => true
  | .hiddenWinnerDeadline _ => true
  | .occupancyEnd _ => true
  | .rxPayloadEnd _ => true
  | .sendReceipt _ => true
  | .receiptEnd _ => true
  | .ownPayloadEnd _ => true
  | .portFrameReceived _ _ _ => true
  | .pauseEnd _ => true
  | .egressLastByte _ => true
  | .egressGapEnd _ => true
  | .replyPlaced _ => true
  | .nrstAssert _ => true
  | .hardwareReset _ _ => true
  | .flashReadStart _ => true
  | .identify _ => true
  | .status _ => true
  | .eventMask _ => true
  | .floor _ => true
  | .peerList _ => true
  | .peerDetail _ => true
  | .configLoad _ => true
  | .restart _ => true
  | .unknownRequest _ => true
  | .restartTaken _ => true
  | .zcSample _ _ => true

end Sys2Proof
end

