-- ==== Sys2Proof/Certificates/Slice0/Obligations.lean ====
section
/-! DEFINITION. The statements for the provers, block by block in the order of the manual. -/

open Sys2Proof Sys2Proof.Machine

/-! ### Steps, resets -/

/-- A step takes the command at the front of the queue, with the queue's rest. -/
def Obligations.StepTakesFront : Prop :=
  ∀ (c : Instr) (q : List Instr) (s : State),
    step (s.withQueue (c :: q)) = exec c (s.withQueue q)

/-- Every command, whatever its operands, ends in a next state, at its own instant, and leaves the queue.
That no command faults is the spec's; that the time base is at the command's instant is the model's form of
a command (log entry 1). -/
def Obligations.CommandsComplete : Prop :=
  ∀ (c : Instr) (s : State),
    ∃ s', exec c s = .next s' ∧ s'.pending = s.pending ∧ s'.now = c.time

/-- R158: while NRST is held low a command moves the time base and nothing else, but for NRST_ASSERT and
HARDWARE_RESET. That the other state stands until the release is the model's choice (log entry 25); that the
receive data of the port is followed, so that a frame whose start delimiter has gone by is not taken after
the release (R157), is the model's form of it (log entry 38). -/
def Obligations.NrstHolds : Prop :=
  ∀ (c : Instr) (s : State), s.nrstLow = true →
    let follows (under : Bool) := exec c s = .next { s with
      now := c.time, ptu := { s.ptu with receiving := under } }
    (∀ t bytes bad, c = .portFrameReceived t bytes bad → follows false) ∧
    (∀ t stretch bad, c = .ingressBlockDraw t stretch bad → stretch ≠ [] → follows true) ∧
    ((∀ t, c ≠ .nrstAssert t) → (∀ t strap, c ≠ .hardwareReset t strap) →
      (∀ t bytes bad, c ≠ .portFrameReceived t bytes bad) →
      (∀ t stretch bad, c ≠ .ingressBlockDraw t stretch bad) →
      exec c s = .next { s with now := c.time })

/-- R158, R17, R36, R52, R66, R89, R126, R143, R157: what a hardware reset leaves, whatever state it finds.
Receive data that is under way at the port goes on past it (log entry 38). -/
def Obligations.HardwareResetLeaves : Prop :=
  ∀ (t : Time) (strap : Strap) (s : State), ∃ s',
    exec (.hardwareReset t strap) s = .next s' ∧
    s'.now = t ∧ s'.nrstLow = false ∧ s'.pending = s.pending ∧
    -- R17
    s'.lcu.accepted = .unsettled ∧ s'.lcu.runLength = 0 ∧ s'.lcu.q = 8 ∧ s'.lcu.lock = .noLine ∧
    s'.lcu.p16 = 0 ∧ s'.lcu.tPrev = none ∧ s'.lcu.tLast = none ∧ s'.lcu.accCount = 0 ∧
    s'.lcu.latchPhase = none ∧ s'.lcu.latchStart = 0 ∧ s'.lcu.latchP16 = 0 ∧
    -- R36
    s'.lmd.activity = .off ∧ s'.lmd.lineOut = .silent ∧ s'.lmd.inHand = none ∧
    s'.lmd.expect = none ∧ s'.lmd.path = .single ∧ s'.gOn = 60 ∧
    -- R52
    s'.clc.medium = .sensedBusy ∧ s'.clc.claim = .none ∧ s'.clc.markStart = none ∧
    s'.clc.word = none ∧ s'.clc.level = none ∧ s'.clc.freeInstant = none ∧
    s'.clc.occupancyEnd = none ∧ s'.clc.quietFlag = false ∧ s'.clc.rng = 1 ∧
    s'.clc.lastLevel = none ∧ s'.clc.lostStreak = 0 ∧ s'.clc.waited = false ∧
    -- R66, R89
    (∀ i, s'.peer i = none) ∧ s'.lae.margin = 16 ∧ (∀ i, tableGet s'.lae.reviews i = none) ∧
    -- R126
    framesHeld s'.tsc = [] ∧ s'.tsc.active = none ∧ s'.tsc.stack = [] ∧ s'.tsc.floor = 7 ∧
    s'.tsc.lifetimes = [20, 40, 60, 100, 200, 300, 500, 1000] ∧
    s'.tsc.bcastTags = List.replicate 8 0 ∧ s'.tsc.prospective = none ∧ s'.tsc.onLine = none ∧
    -- R126, R143
    s'.bpm = ⟨512, 160, 64, 32, 256⟩ ∧ (∀ i, tableGet s'.rxa.table i = none) ∧
    s'.rxa.service = none ∧
    -- R157
    s'.ptu.ingress = none ∧ (∀ i, tableGet s'.ptu.fwd i = none) ∧ s'.ptu.fifo = [] ∧
    s'.ptu.slot = [] ∧ s'.ptu.egress = .idle ∧ s'.ptu.pauseEnd = none ∧
    s'.ptu.priority = [7, 6, 5, 4, 3, 2, 1, 0] ∧ s'.ptu.defaultLevel = 4 ∧
    s'.ptu.receiving = s.ptu.receiving ∧
    -- R158, R168
    s'.mgu.queue = [] ∧ s'.mgu.service = none ∧ s'.mgu.restart = .none ∧ s'.mgu.flags = 0 ∧
    s'.mgu.mask = 1#14 <<< 12 ∧ (∀ n ∈ counterList s'.mgu.counters, n = 0) ∧
    s'.mgu.attn = false ∧
    s'.suc.strap = strap ∧ s'.suc.image = none ∧ s'.suc.address = none ∧ s'.suc.label = none ∧
    s'.suc.flashRead = none ∧
    (strap = .flash → s'.suc.station = .config ∧ s'.suc.flashDue = some (after t 1000)) ∧
    (strap = .port → s'.suc.station = .configWait ∧ s'.suc.flashDue = none)

/-- R158, R159, R157, R17, R164: NRST falling, the RESTART request and the restart itself. A RESTART request
whose arguments do not fit is answered BAD_ARGUMENT. The restart keeps the LCU and the strap sample, starts
the flash read of a FLASH sample at once, and leaves every other block as a hardware reset does, but for the
transmit error of a frame that it cuts. RESTART_TAKEN as a command after the reply's last byte is the
model's order (log entry 24); so is the transmit error at NRST's fall (log entry 25). -/
def Obligations.RestartKeepsLineCycle : Prop :=
  ∀ (t : Time) (s : State),
    (∃ s', exec (.nrstAssert t) s = .next s' ∧ s'.nrstLow = true ∧ s'.mgu.attn = false ∧
      s'.lmd.lineOut = .silent ∧ portOutput s' = .nothing ∧
      ((∃ f, s.ptu.egress = .sendingData f) ∨ (∃ r, s.ptu.egress = .sendingReply r) →
        s'.ptu.txError = true)) ∧
    (∀ r rest, RequestDue s r rest → r.code = 0x08 →
      let taken : State := { s with now := t, mgu := { s.mgu with queue := rest } }
      (r.argLength ≤ r.args.length → ∃ s', exec (.restart t) s = .next s' ∧
        Offered ⟨encodeReply (s.suc.address.getD 0) r .ok [], true⟩
          { taken with mgu := { taken.mgu with restart := .outstanding } } s') ∧
      (r.args.length < r.argLength → ∃ s', exec (.restart t) s = .next s' ∧
        Offered (replyTo s r .badArgument []) taken s')) ∧
    (s.nrstLow = false → s.mgu.restart = .due → ∃ s', exec (.restartTaken t) s = .next s' ∧
      s'.lcu = s.lcu ∧ s'.suc.strap = s.suc.strap ∧ s'.mgu.restart = .none ∧
      (s.suc.strap = .flash → s'.suc.station = .config ∧ s'.suc.flashDue = some t) ∧
      (s.suc.strap = .port → s'.suc.station = .configWait ∧ s'.suc.flashDue = none) ∧
      (∀ f, s.ptu.egress = .sendingData f → s'.ptu.txError = true) ∧
      ∃ s'', exec (.hardwareReset t s.suc.strap) s = .next s'' ∧
        s'.lmd = s''.lmd ∧ s'.clc = s''.clc ∧ s'.peers = s''.peers ∧ s'.lae = s''.lae ∧
        s'.tsc = s''.tsc ∧ s'.bpm = s''.bpm ∧ s'.rxa = s''.rxa ∧ s'.mgu = s''.mgu ∧
        s'.ptu = { s''.ptu with txError := s'.ptu.txError } ∧
        s'.ptu.ingress = none ∧ s'.ptu.egress = .idle ∧ s'.ptu.slot = [] ∧ s'.ptu.fifo = [] ∧
        s'.ptu.receiving = s.ptu.receiving ∧
        (∀ i, tableGet s'.ptu.fwd i = none) ∧ s'.ptu.pauseEnd = none ∧
        s'.ptu.priority = [7, 6, 5, 4, 3, 2, 1, 0] ∧ s'.ptu.defaultLevel = 4 ∧
        s'.suc.flashRead = none ∧
        s'.suc.image = none ∧ s'.suc.address = none ∧ s'.suc.label = none)

/-- The invariants stated below hold right after reset. -/
def Obligations.ResetMeetsInvariants : Prop :=
  LockShape State.reset.lcu ∧ ModeShape State.reset ∧ RngLive State.reset ∧
  AttnJudged State.reset ∧ CountersInRange State.reset ∧ WithinCapacity State.reset ∧
  RxBalance State.reset ∧ TxBalance State.reset ∧ StackOrder State.reset.tsc ∧
  ProspectiveFresh State.reset ∧ PeersDistinct State.reset ∧ PeerVersions State.reset ∧
  PeersShaped State.reset ∧ AnnouncedMapped State.reset ∧ ForwardSound State.reset ∧
  EntriesSound State.reset ∧
  NotchedSilent State.reset

/-! ### Line-Cycle Unit (chapter 1) -/

/-- R1, R2: a sample that completes no LOW-to-HIGH run. It ends a run, begins one, continues one, or makes
its level the accepted level. -/
def Obligations.SampleOfARun : Prop :=
  ∀ (t : Time) (v : ZcLevel) (s : State), s.nrstLow = false → 2 ≤ s.lcu.q →
    let next (l : Lcu) := exec (.zcSample t v) s = .next { s with now := t, lcu := l }
    (s.lcu.accepted = acceptLevel v → next { s.lcu with runLength := 0 }) ∧
    (s.lcu.accepted ≠ acceptLevel v → (s.lcu.runLength = 0 ∨ s.lcu.runLevel ≠ v) →
      next { s.lcu with runLength := 1, runStart := t, runLevel := v }) ∧
    (s.lcu.accepted ≠ acceptLevel v → 1 ≤ s.lcu.runLength → s.lcu.runLevel = v →
      s.lcu.runLength + 1 < s.lcu.q → next { s.lcu with runLength := s.lcu.runLength + 1 }) ∧
    (s.lcu.accepted ≠ acceptLevel v → 1 ≤ s.lcu.runLength → s.lcu.runLevel = v →
      s.lcu.q ≤ s.lcu.runLength + 1 → ¬(s.lcu.accepted = .low ∧ v = .high) →
      next { s.lcu with accepted := acceptLevel v, runLength := 0 })

/-- R4: a crossing in NO_LINE. The stamp is the start of the run (R1). That QUALIFIED_CROSSING and a HIGH
ZC_SAMPLE take the same crossing is the model's reading of the table (log entry 7). -/
def Obligations.CrossingStartsAcquiring : Prop :=
  ∀ (t : Time) (c : Instr) (s : State), s.nrstLow = false → IsHighSample t c →
    CrossingReady s.lcu → s.lcu.lock = .noLine →
    exec c s = .next { s with
      now := t
      lcu := { s.lcu with
        accepted := .high, runLength := 0
        tPrev := some s.lcu.runStart, accCount := 0, lock := .acquiring } } ∧
    (LockShape s.lcu → s.lcu.tLast = none ∧ ∀ u, phaseAt s.lcu u = none)

/-- R5, R6: a crossing in ACQUIRING, `m` µs after the last one; `p` is P16 after a period update with `m`
(R3). That QUALIFIED_CROSSING and a HIGH ZC_SAMPLE take the same crossing is the model's reading of the
table (log entry 7). -/
def Obligations.CrossingInAcquiring : Prop :=
  ∀ (t t0 : Time) (c : Instr) (s : State) (m p : Nat), s.nrstLow = false → IsHighSample t c →
    CrossingReady s.lcu → s.lcu.lock = .acquiring → s.lcu.tPrev = some t0 →
    m = elapsed t0 s.lcu.runStart →
    (p : Int) = min 355552 (max 246160 ((s.lcu.p16 : Int) + (16 * (m : Int) - s.lcu.p16).tdiv 8)) →
    let valid := 15385 ≤ m ∧ m ≤ 22222
    let within := (16 * (m : Int) - s.lcu.p16).natAbs ≤ s.lcu.p16 / 50
    let stays (count p16 : Nat) := exec c s = .next { s with
      now := t
      lcu := { s.lcu with
        accepted := .high, runLength := 0
        tPrev := some s.lcu.runStart, accCount := count, p16 := p16 } }
    (¬valid → stays 0 s.lcu.p16) ∧
    (valid → s.lcu.accCount = 0 → stays 1 (16 * m)) ∧
    (valid → 1 ≤ s.lcu.accCount → ¬within → stays 1 (16 * m)) ∧
    (valid → 1 ≤ s.lcu.accCount → within → s.lcu.accCount ≤ 6 → stays (s.lcu.accCount + 1) p) ∧
    (valid → within → s.lcu.accCount = 7 → exec c s = .next { s with
      now := t
      lcu := { s.lcu with
        accepted := .high, runLength := 0
        tPrev := none, tLast := some s.lcu.runStart, accCount := 8, p16 := p, lock := .locked }
      mgu := latch .lineLocked s.mgu })

/-- R8, R10, R13: a crossing in LOCKED or HOLDOVER, `d` µs after the origin; `p` is P16 after a period
update with `d` (R3), and `k` the number of periods nearest to `d`, halves rounded up. That
QUALIFIED_CROSSING and a HIGH ZC_SAMPLE take the same crossing is the model's reading of the table (log
entry 7). -/
def Obligations.CrossingWhileFollowing : Prop :=
  ∀ (t t0 : Time) (c : Instr) (s : State) (d p k : Nat), s.nrstLow = false → IsHighSample t c →
    CrossingReady s.lcu → s.lcu.tLast = some t0 → d = elapsed t0 s.lcu.runStart →
    (p : Int) = min 355552 (max 246160 ((s.lcu.p16 : Int) + (16 * (d : Int) - s.lcu.p16).tdiv 8)) →
    2 * k * s.lcu.p16 ≤ 32 * d + s.lcu.p16 → 32 * d + s.lcu.p16 < 2 * (k + 1) * s.lcu.p16 →
    let off (n : Nat) := (16 * (d : Int) - n * s.lcu.p16).natAbs
    let ignored := exec c s = .next { s with
      now := t
      lcu := { s.lcu with accepted := .high, runLength := 0 }
      mgu := { s.mgu with counters := { s.mgu.counters with
        spuriousCrossings := min 4294967295 (s.mgu.counters.spuriousCrossings + 1) } } }
    (s.lcu.lock = .locked → off 1 ≤ s.lcu.p16 / 50 → exec c s = .next { s with
      now := t
      lcu := { s.lcu with
        accepted := .high, runLength := 0, p16 := p, tLast := some s.lcu.runStart } }) ∧
    (s.lcu.lock = .locked → s.lcu.p16 / 50 < off 1 → ignored) ∧
    (s.lcu.lock = .holdover → off k ≤ s.lcu.p16 / 50 → exec c s = .next { s with
      now := t
      lcu := { s.lcu with
        accepted := .high, runLength := 0, tLast := some s.lcu.runStart, lock := .locked } }) ∧
    (s.lcu.lock = .holdover → s.lcu.p16 / 50 < off k → ignored)

/-- R7, R9, R11: the instants of the lock states. -/
def Obligations.LineTimers : Prop :=
  ∀ (t t0 : Time) (s : State), s.nrstLow = false →
    (s.lcu.lock = .acquiring → s.lcu.tPrev = some t0 → 50000 ≤ elapsed t0 t →
      exec (.acquiringTimeout t) s = .next { s with
        now := t
        lcu := { s.lcu with lock := .noLine, accCount := 0, tPrev := none } }) ∧
    (s.lcu.lock = .locked → s.lcu.tLast = some t0 →
      reached t (after t0 (13 * s.lcu.p16 / 200)) = true →
      exec (.holdoverInstant t) s = .next { s with
        now := t
        lcu := { s.lcu with lock := .holdover }
        mgu := latch .holdoverEntered s.mgu }) ∧
    (s.lcu.lock = .holdover → s.lcu.tLast = some t0 →
      reached t (after t0 (801 * s.lcu.p16 / 400)) = true →
      exec (.lossInstant t) s = .next { s with
        now := t
        lcu := { s.lcu with lock := .noLine, tLast := none, accCount := 0 }
        mgu := latch .lineLost s.mgu })

/-- The table of 1.3 and the ranges of R1 to R3 are kept by every step. -/
def Obligations.LockShapeKept : Prop :=
  ∀ s s' : State, LockShape s.lcu → step s = .next s' → LockShape s'.lcu

/-- R12: the phase and the window. -/
def Obligations.PhaseAndWindow : Prop :=
  ∀ (l : Lcu) (t t0 : Time),
    (l.lock = .noLine ∨ l.lock = .acquiring → phaseAt l t = none) ∧
    (l.lock = .locked ∨ l.lock = .holdover → l.tLast = some t0 →
      phaseAt l t = some (elapsed t0 t * 19200 / l.p16 % 1200)) ∧
    ∀ p, phaseAt l t = some p → p ≤ 1199 ∧ windowOf p = p / 100 ∧ windowOf p ≤ 11

/-! ### Claiming the medium (chapter 3) -/

/-- R32, R38 to R40, R43: energy found at `t`. With no report in progress a report begins, the quiet flag
becomes clear, and the CLC takes the mark of another station, or goes OUT. A report in progress goes on: it
opens a claim period in the listened mark slot alone, and puts a station OUT that listens at `t`, or
listened up to the instant before (log entry 10), even where a slot of its own 1 bit begins at `t`. In GAP
the opening instant has passed when the station listens through the mark slot. What the detectors find at
`t` is an operand (log entry 9); energy in the first 6 µs of the listened mark slot is the model's reading
(log entry 17); in SENDING the modem reports nothing (log entry 35). -/
def Obligations.EnergyBegins : Prop :=
  ∀ (t : Time) (onA onB : Bool) (s : State), s.nrstLow = false →
    watching s.lmd.activity = true → s.clc.medium ≠ .sending →
    (sendsAt s.clc t = false ∨ Caught t s) → (s.lmd.path = .single → onA = true) →
    (s.lmd.path = .dual → onA = true ∨ onB = true) →
    let quiet : Clc := { s.clc with quietFlag := false }
    let report (onset : Time) (k : Clc) := exec (.energyReport t onA onB) s = .next { s with
      now := t
      lmd := { s.lmd with energy := some onset, lastEnergy := some t }
      clc := k }
    let marked (m : Time) : Clc :=
      { quiet with
        medium := .claiming, claim := .none, markStart := some m, markListen := false
        lossCounted := false }
    (s.lmd.energy = none →
      (s.clc.medium = .idle → report t (marked t)) ∧
      (s.clc.medium = .gap → s.clc.markListen = false → report t (marked t)) ∧
      (∀ m w, s.clc.medium = .claiming → s.clc.claim = .contending → s.clc.markStart = some m →
        s.clc.word = some w →
        (ListensAt m t w → report t { quiet with claim := .out }) ∧
        (¬ListensAt m t w → report t quiet))) ∧
    (∀ e, s.lmd.energy = some e →
      (s.clc.medium = .idle → report e quiet) ∧
      (s.clc.medium = .gap → s.clc.markListen = false → report e quiet) ∧
      (∀ m w, s.clc.medium = .claiming → s.clc.claim = .contending → s.clc.markStart = some m →
        s.clc.word = some w →
        (ListensAt m t w ∨ Caught t s → report e { quiet with claim := .out }) ∧
        (¬ListensAt m t w → ¬Caught t s → report e quiet))) ∧
    (∀ f, s.clc.medium = .gap → s.clc.markListen = true → s.clc.freeInstant = some f →
      (6 ≤ elapsed (after f 40) t → report (s.lmd.energy.getD t) (marked (after f 40))) ∧
      (elapsed (after f 40) t < 6 → report (s.lmd.energy.getD t) quiet)) ∧
    (s.clc.medium = .claiming → s.clc.claim ≠ .contending → report (s.lmd.energy.getD t) quiet) ∧
    (s.clc.medium = .occupied ∨ s.clc.medium = .sensedBusy ∨ s.clc.medium = .awaitReceipt →
      report (s.lmd.energy.getD t) quiet)

/-- R21, R32, R39, R43, R49: with nothing found by the enabled detectors, whatever path B finds in SINGLE, a
report in progress ends, and the 100 µs of quiet run from here; with none in progress nothing happens. A
report that began before and reached into the listened mark slot, or into a listened bit slot, is energy
there up to the instant before its end (log entry 10). In the modem's activities in which it does not watch,
in SENDING (log entry 35), and in a slot in which the station sends, a report has no effect; a station that
such energy has put OUT sends no more, so that its report ends where a slot of its own 1 bit would begin.
That finding nothing ends a report is the model's form of the command (log entry 9). -/
def Obligations.EnergyEnds : Prop :=
  ∀ (t : Time) (onA onB : Bool) (s : State), s.nrstLow = false →
    (watching s.lmd.activity = true → s.clc.medium ≠ .sending →
      (sendsAt s.clc t = false ∨ Caught t s) → onA = false → (s.lmd.path = .single ∨ onB = false) →
      let ends (k : Clc) := exec (.energyReport t onA onB) s = .next { s with
        now := t
        lmd := { s.lmd with energy := none, lastEnergy := some t, quietFrom := t }
        clc := k }
      (s.lmd.energy = none → exec (.energyReport t onA onB) s = .next { s with now := t }) ∧
      (∀ e, s.lmd.energy = some e → s.clc.medium ≠ .gap → s.clc.medium ≠ .claiming → ends s.clc) ∧
      (∀ e f, s.lmd.energy = some e → s.clc.medium = .gap → s.clc.freeInstant = some f →
        (s.clc.markListen = true → e ≠ t → 7 ≤ elapsed (after f 40) t → ends { s.clc with
          medium := .claiming, claim := .none, markStart := some (after f 40), markListen := false
          lossCounted := false }) ∧
        (s.clc.markListen = false ∨ e = t ∨ elapsed (after f 40) t < 7 → ends s.clc)) ∧
      (∀ e m w, s.lmd.energy = some e → s.clc.medium = .claiming → s.clc.claim = .contending →
        s.clc.markStart = some m → s.clc.word = some w →
        (Caught t s → ends { s.clc with claim := .out }) ∧
        (¬Caught t s → ends s.clc)) ∧
      (∀ e, s.lmd.energy = some e → s.clc.medium = .claiming → s.clc.claim ≠ .contending →
        ends s.clc)) ∧
    (s.lmd.activity = .off ∨ s.lmd.activity = .sendBurst ∨ s.lmd.activity = .sendReceipt ∨
      s.clc.medium = .sending ∨ (sendsAt s.clc t = true ∧ ¬Caught t s) →
      exec (.energyReport t onA onB) s = .next { s with now := t })

/-- R32, R40, R48, R53: a quiet report, 100 µs after the last energy. A station that is ONLINE and pending
at a quiet report in IDLE marks. When the 100 µs start afresh, and a quiet report in IDLE that nothing
waited for, are the model's (log entries 11, 31); so are the entry into LISTEN that a quiet line makes
absent (log entry 13), and the silence of the modem in SENDING (log entry 35). -/
def Obligations.QuietReported : Prop :=
  ∀ (t : Time) (s : State), s.nrstLow = false → watching s.lmd.activity = true →
    s.lmd.energy = none → sendsAt s.clc t = false → 100 ≤ elapsed s.lmd.quietFrom t →
    let settled : Lmd := { s.lmd with listenFrom := none }
    (s.clc.medium = .sending → exec (.quietReport t) s = .next { s with now := t }) ∧
    (s.clc.medium = .sensedBusy → exec (.quietReport t) s = .next { s with
      now := t, lmd := settled, clc := { inGap t s.clc with quietFlag := true } }) ∧
    (s.clc.medium ≠ .sending → s.clc.medium ≠ .sensedBusy → s.clc.medium ≠ .idle →
      exec (.quietReport t) s = .next { s with
        now := t, lmd := settled, clc := { s.clc with quietFlag := true } }) ∧
    (s.clc.medium = .idle → s.suc.station = .online → prospectiveLevel s.tsc = none →
      exec (.quietReport t) s = .next { s with
        now := t
        lmd := settled
        clc := { s.clc with quietFlag := true }
        tsc := { s.tsc with prospective := none } }) ∧
    (∀ l, s.clc.medium = .idle → s.suc.station = .online → prospectiveLevel s.tsc = some l →
      ∃ s', exec (.quietReport t) s = .next s' ∧ Marked t l s s' ∧ s'.clc.quietFlag = true ∧
        s'.lcu = s.lcu ∧ s'.bpm = s.bpm ∧ s'.ptu = s.ptu ∧ s'.mgu = s.mgu ∧ s'.suc = s.suc)

/-- R38, R45, R46, R47: the instants at which a free instant is checked, reached, or fixed. `heard`: energy
since CPE, and no quiet since. `d` is the state with the loss of a station that is OUT counted, if CPE has
not counted it (log entry 14). -/
def Obligations.FreeInstants : Prop :=
  ∀ (t u : Time) (s : State), s.nrstLow = false →
    (s.clc.medium = .gap → s.clc.freeInstant = some u → reached t (after u 10) = true →
      s.clc.markListen = false →
      (s.lmd.energy ≠ none →
        exec (.gapTailCheck t) s = .next { s with now := t, clc := withoutClaim .sensedBusy s.clc }) ∧
      (s.lmd.energy = none → exec (.gapTailCheck t) s = .next { s with now := t })) ∧
    (s.clc.medium = .occupied → s.clc.occupancyEnd = some u → reached t u = true →
      exec (.occupancyEnd t) s = .next { s with now := t, clc := inGap u s.clc }) ∧
    (∀ d, s.clc.medium = .claiming → s.clc.claim ≠ .contending → s.clc.markStart = some u →
      reached t (after (after u 270) 200) = true → LossSettled s d →
      let heard := s.clc.quietFlag = false ∧ (s.lmd.energy ≠ none ∨
        ∃ e, s.lmd.lastEnergy = some e ∧ elapsed e t < elapsed (after u 270) t)
      (heard → exec (.hiddenWinnerDeadline t) s = .next { d with
        now := t, clc := withoutClaim .sensedBusy d.clc }) ∧
      (¬heard → exec (.hiddenWinnerDeadline t) s = .next { d with
        now := t, clc := inGap (after (after u 270) 200) d.clc }))

/-- R37, R39, R41, R42, R45: the opening instant, 40 µs after the free instant `f`. A pending station marks
at its level; another listens through the mark slot. -/
def Obligations.OpeningInstant : Prop :=
  ∀ (t f : Time) (s : State), s.nrstLow = false → s.clc.medium = .gap →
    s.clc.freeInstant = some f → reached t (after f 40) = true → s.clc.markListen = false →
    s.suc.station = .online →
    (prospectiveLevel s.tsc = none → exec (.openingInstant t) s = .next { s with
      now := t
      clc := { s.clc with markListen := true }
      tsc := { s.tsc with prospective := none } }) ∧
    (∀ l, prospectiveLevel s.tsc = some l →
      ∃ s', exec (.openingInstant t) s = .next s' ∧ Marked (after f 40) l s s' ∧
        s'.tsc = (claimDecision s).1.tsc ∧
        s'.lcu = s.lcu ∧ s'.bpm = s.bpm ∧ s'.ptu = s.ptu ∧ s'.mgu = s.mgu ∧ s'.suc = s.suc)

/-- R32, R39, R40, R43: the ends and the beginnings of slots. At the end of the mark slot of an opening
instant nobody has marked, unless a report of energy that began before is still in progress, which is
another station's mark (log entry 10): a station that has become pending since marks at once when the quiet
flag is set. A bit slot of a station in the contest begins: a 1 bit is sent for the whole slot, a burst in
hand being dropped; in a slot of a 0 bit, and once OUT, nothing is sent. A station that listened in the slot
before, with such a report still in progress, is OUT. That the 100 µs of quiet start after a slot of the
station's own signal is the model's (log entry 11), and so is the end of the burst in service with a burst
in hand that is dropped (log entry 29). The signal is on every group that is not notched (R20). -/
def Obligations.ClaimSlots : Prop :=
  ∀ (t u : Time) (s : State), s.nrstLow = false →
    let inProgress := ∃ e, s.lmd.energy = some e ∧ e ≠ t
    (s.clc.medium = .gap → s.clc.markListen = true → s.clc.freeInstant = some u →
      reached t (after (after u 40) 30) = true → inProgress →
      exec (.markSlotListenEnd t) s = .next { s with
        now := t
        clc := { s.clc with
          medium := .claiming, claim := .none, markStart := some (after u 40), markListen := false
          lossCounted := false } }) ∧
    (s.clc.medium = .gap → s.clc.markListen = true → s.clc.freeInstant = some u →
      reached t (after (after u 40) 30) = true → ¬inProgress →
      (s.tsc.prospective = none ∨ s.clc.quietFlag = false →
        exec (.markSlotListenEnd t) s = .next { s with
          now := t, clc := { s.clc with medium := .idle, markListen := false } }) ∧
      (∀ l, s.tsc.prospective ≠ none → s.clc.quietFlag = true → s.suc.station = .online →
        prospectiveLevel s.tsc = some l →
        ∃ s', exec (.markSlotListenEnd t) s = .next s' ∧ Marked t l s s')) ∧
    (∀ w : BitVec 8, s.clc.medium = .claiming → s.clc.markStart = some u → s.clc.word = some w →
      let slot := elapsed u t / 30
      let silent := exec (.claimBitSlot t) s = .next { s with
        now := t, lmd := { s.lmd with lineOut := .silent } }
      (Caught t s → exec (.claimBitSlot t) s = .next { s with
        now := t, lmd := { s.lmd with lineOut := .silent }, clc := { s.clc with claim := .out } }) ∧
      (s.clc.claim = .contending → ¬Caught t s → 1 ≤ slot → slot ≤ 8 → w.getLsbD (8 - slot) = false →
        silent) ∧
      (s.clc.claim = .out → silent) ∧
      (s.clc.claim = .contending → ¬Caught t s → 1 ≤ slot → slot ≤ 8 → w.getLsbD (8 - slot) = true →
        let sent (l : Lmd) : Lmd := { l with
          lineOut := .claimSignal (s.lmd.notch.map fun n => if n then .silent else .claim)
          energy := none, quietFrom := after (after u (30 * slot)) 30 }
        (s.lmd.inHand = none →
          exec (.claimBitSlot t) s = .next { s with now := t, lmd := sent s.lmd }) ∧
        (s.lmd.inHand ≠ none → exec (.claimBitSlot t) s = .next { s with
          now := t, lmd := sent (backToListen t s.lmd), rxa := { s.rxa with service := none } })))

/-- R43, R44, R45, R46: a claim period is lost at CPE by a station that is OUT, which stays OUT until the
outcome, or that a report of energy still in progress from the last slot takes OUT there (log entry 10), and
before CPE at a header, foreign (R29) here, of a burst that starts in it. A second CLAIM_PERIOD_END counts
nothing. The header before CPE at a station already OUT, and the mark that the loss has been counted, are
the model's (log entries 14, 16). -/
def Obligations.ClaimLost : Prop :=
  ∀ (t m : Time) (s : State), s.nrstLow = false → s.clc.medium = .claiming →
    s.clc.markStart = some m →
    let counted : Counters :=
      { s.mgu.counters with claimsLost := min 4294967295 (s.mgu.counters.claimsLost + 1) }
    (s.clc.claim = .out → s.clc.lossCounted = false → reached t (after m 270) = true →
      exec (.claimPeriodEnd t) s = .next { s with
        now := t
        lmd := { s.lmd with lineOut := .silent }
        clc := { lost s.clc with lossCounted := true }
        mgu := { s.mgu with counters := counted } }) ∧
    (s.clc.claim = .out → s.clc.lossCounted = true →
      exec (.claimPeriodEnd t) s = .next { s with now := t }) ∧
    (Caught t s → s.clc.lossCounted = false → reached t (after m 270) = true →
      exec (.claimPeriodEnd t) s = .next { s with
        now := t
        lmd := { s.lmd with lineOut := .silent }
        clc := { lost s.clc with claim := .out, lossCounted := true }
        mgu := { s.mgu with counters := counted } }) ∧
    (∀ b x h, HeaderDue t s b →
      s.clc.claim = .contending ∨ (s.clc.claim = .out ∧ s.clc.lossCounted = false) →
      elapsed m t < 270 → headerHeard s.lmd b x = some h → s.suc.label ≠ some h.label →
      exec (.headerOutcome t x) s = .next { s with
        now := t
        lmd := { backToListen t s.lmd with lineOut := .silent }
        clc := { withoutClaim .occupied (lost s.clc) with
          occupancyEnd := some (declaredFree b.start h) }
        mgu := { s.mgu with counters :=
          { counted with foreignBursts := min 4294967295 (s.mgu.counters.foreignBursts + 1) } } })

/-- R14, R44, R64, R117, R119, R120: a claim period is won at CPE, with no report of energy still in
progress from a listened slot, which would take the station OUT there (log entry 10). The LCU takes the
latch for the burst start, CPE + 20. Without a burst, for want of an active train or of a block that may go,
the mark start stays; with a burst of `burstFor` the medium state becomes SENDING, and the counters of a
peer it goes to count it, the blocks that an earlier burst carried among them. That a report of energy ends
in SENDING is the model's (log entry 35). -/
def Obligations.ClaimWon : Prop :=
  (∀ (f : Frame) (refs : List BlockRef) (j : Nat) (x : FrameBlock), f.blocks[j]? = some x →
    (⟨f.kind, f.desc, j⟩ ∈ refs → (goOnLine f refs).blocks[j]? =
      some ⟨.onLine, x.sentBefore || decide (f.dest ≠ .broadcast)⟩ ∧
      (goOnLine f refs).attempts = f.attempts + 1) ∧
    (⟨f.kind, f.desc, j⟩ ∉ refs → (goOnLine f refs).blocks[j]? = some x)) ∧
  ∀ (t m : Time) (s : State), s.nrstLow = false → s.clc.medium = .claiming →
    s.clc.claim = .contending → s.clc.markStart = some m → reached t (after m 270) = true →
    ¬Caught t s →
    let start := after m 290
    let latched : Lcu := { s.lcu with
      latchStart := start, latchPhase := phaseAt s.lcu start, latchP16 := s.lcu.p16 }
    let won : Clc := { s.clc with
      claim := .none, word := none, level := none, lostStreak := 0, waited := false
      lastLevel := s.clc.level, lossCounted := false }
    let counted : Mgu := { s.mgu with counters := { s.mgu.counters with
      claimsWon := min 4294967295 (s.mgu.counters.claimsWon + 1) } }
    (s.tsc.active = none ∨
        (∃ a, s.tsc.active = some a ∧ burstFor { s with lcu := latched } a = none) →
      s.tsc.onLine = none → exec (.claimPeriodEnd t) s = .next { s with
        now := t, lcu := latched, lmd := { s.lmd with lineOut := .silent }, clc := won
        mgu := counted }) ∧
    (∀ a bl, s.tsc.active = some a → burstFor { s with lcu := latched } a = some bl →
      ∃ s', exec (.claimPeriodEnd t) s = .next s' ∧ s'.lcu = latched ∧ s'.mgu = counted ∧
        s'.clc = withoutClaim .sending won ∧ s'.lmd.inHand = none ∧ s'.lmd.lineOut = .silent ∧
        s'.tsc = { s.tsc with
          active := some { a with frames := a.frames.map fun f => goOnLine f bl.refs }
          onLine := some bl } ∧
        (a.dest = .broadcast → s'.peers = s.peers) ∧
        (∀ i p, a.dest = .peer i → s.peer i = some p →
          let again (f : Frame) := f.blocks.zipIdx.filter fun x =>
            x.1.sentBefore && decide ((⟨f.kind, f.desc, x.2⟩ : BlockRef) ∈ bl.refs)
          s'.peers = tableSet s.peers i (some { p with counters := { p.counters with
            burstsSent := min 4294967295 (p.counters.burstsSent + 1)
            blocksSent := min 4294967295 (p.counters.blocksSent + bl.refs.length)
            blocksRetried := min 4294967295
              (p.counters.blocksRetried + (a.frames.map fun f => (again f).length).sum) } })))

/-- The activity, the medium state, the claim state, the burst in hand and the burst on line go together as
the tables of 2.6.1, chapter 3 and 10.2 give them, and every step keeps them so. -/
def Obligations.ModeShapeKept : Prop :=
  ∀ s s' : State, ModeShape s → step s = .next s' → ModeShape s'

/-! ### Receiving (chapters 2, 4, 5, 6) -/

/-- R22, R23, R29: a burst is detected in LISTEN; its measurement and its path choice, group by group. The
preamble starts after LISTEN was entered, unless a quiet line since then shows it (log entry 13); in SENDING
none is detected (log entry 35). -/
def Obligations.BurstDetected : Prop :=
  ∀ (t start : Time) (onA onB : Bool) (snrA snrB : List Int) (s : State), s.nrstLow = false →
    s.lmd.activity = .listen → s.clc.medium ≠ .sending → (s.lmd.path = .single → onA = true) →
    (s.lmd.path = .dual → onA = true ∨ onB = true) →
    (∀ u, s.lmd.listenFrom = some u → elapsed start t < elapsed u t) →
    let units (snr : List Int) (g : Nat) : Nat :=
      if s.lmd.notch.getD g false then 0 else min 255 (snr.getD g 0 / 250).toNat
    ∃ b, exec (.burstDetected t start onA onB snrA snrB) s = .next { s with
        now := t, lmd := { s.lmd with activity := .receive, inHand := some b } } ∧
      b.start = start ∧ b.header = none ∧ b.stage = .header ∧ b.handed = 0 ∧
      b.measurement.length = 60 ∧ b.choice.length = 60 ∧
      ∀ g, g < 60 →
        (s.lmd.path = .single →
          b.measurement[g]? = some (units snrA g) ∧ b.choice[g]? = some .a) ∧
        (s.lmd.path = .dual →
          b.measurement[g]? = some (max (units snrA g) (units snrB g)) ∧
          (units snrA g < units snrB g → b.choice[g]? = some .b) ∧
          (units snrB g ≤ units snrA g → b.choice[g]? = some .a))

/-- R29, R30, R45, R46, R47, R48: a header that is not decoded. In IDLE and GAP the medium state standing is
the model's reading (log entry 15), and so is the loss that a station OUT has at CPE itself (log entry 14),
energy still in progress having put it OUT there or not (log entry 10); the symbols and the sender's notch
mask are operands (log entries 12, 41). -/
def Obligations.HeaderNotDecoded : Prop :=
  ∀ (t : Time) (b : BurstInHand) (x : HeaderHeard) (s d : State), HeaderDue t s b →
    headerHeard s.lmd b x = none → LossSettled s d →
    let undecoded (s₁ : State) (k : Clc) := exec (.headerOutcome t x) s = .next { s₁ with
      now := t
      lmd := backToListen t s₁.lmd
      clc := k
      mgu := { s₁.mgu with counters := { s₁.mgu.counters with
        undecodedBursts := min 4294967295 (s.mgu.counters.undecodedBursts + 1) } } }
    (∀ m, s.clc.medium = .claiming → s.clc.claim ≠ .contending → s.clc.markStart = some m →
      270 ≤ elapsed m t → undecoded d (withoutClaim .sensedBusy d.clc)) ∧
    (∀ m, s.clc.medium = .claiming → s.clc.markStart = some m → elapsed m t < 270 →
      undecoded s s.clc) ∧
    (s.clc.medium = .claiming → s.clc.claim = .contending → ¬Caught t s → undecoded s s.clc) ∧
    (∀ m, Caught t s → s.clc.markStart = some m → 270 ≤ elapsed m t →
      undecoded (losing s) (withoutClaim .sensedBusy (losing s).clc)) ∧
    (s.clc.medium ≠ .claiming → undecoded s s.clc)

/-- R19, R29, R30, R33, R46: a foreign header, of another label, of this station's own address, or of a
group address, and its declared free instant. Nothing but the CLC and the counters hears of it; `d` is the
state after the CLC has taken it, with a period that it ends counted as lost. The symbols of a header are
operands (log entry 12). -/
def Obligations.HeaderForeign : Prop :=
  ∀ (t : Time) (b : BurstInHand) (x : HeaderHeard) (h : Header) (s d : State),
    HeaderDue t s b → headerHeard s.lmd b x = some h →
    (s.suc.label ≠ some h.label ∨ s.suc.address = some h.sender ∨ isGroup h.sender = true) →
    DeclaredAt t
      (after b.start ((if h.dest = broadcastAddr then 160 else 300) + 40 * h.symbols)) s d →
    exec (.headerOutcome t x) s = .next { d with
      now := t
      lmd := backToListen t d.lmd
      mgu := { d.mgu with counters := { d.mgu.counters with
        foreignBursts := min 4294967295 (s.mgu.counters.foreignBursts + 1) } } }

/-- R29, R170: the range tests of a header. What is decoded is well formed, stands field by field at its
place in the bit stream, and was sent with its check. -/
def Obligations.DecodedHeadersInRange : Prop :=
  ∀ (gOn : Nat) (bits : List Bool) (h : Header), decodeHeader gOn bits = some h →
    1 ≤ h.symbols ∧ h.symbols ≤ 28 ∧ 1 ≤ h.blocks ∧ h.blocks ≤ 48 ∧ h.dest ≠ h.sender ∧
    (∀ p, h.stamp = some p → p ≤ 1199) ∧
    (∀ k v, h.selector = .slot k v → k ≤ 3 ∧ v ≤ 15) ∧
    40 ≤ gOn ∧ 158 ≤ bits.length ∧ HeaderBits bits h ∧
    bitsNat ((bits.drop 142).take 16) = (crc16 (bits.take 142)).toNat

/-- R58: a sender that no record holds, all records ACTIVE and each with work for its peer. What the CLC
makes of the free instant is in `d` (log entries 14, 32). -/
def Obligations.SenderNotLearned : Prop :=
  ∀ (t : Time) (b : BurstInHand) (x : HeaderHeard) (h : Header) (s d : State),
    HeaderDue t s b → headerHeard s.lmd b x = some h → OwnLabel s h →
    DeclaredAt t (declaredFree b.start h) s d →
    (∀ x ∈ s.peers, x ≠ none) → (∀ i p, s.peer i = some p → p.address ≠ h.sender ∧ Busy s i) →
    exec (.headerOutcome t x) s = .next { d with
      now := t
      lmd := backToListen t d.lmd
      mgu := latch .peerTableFull { d.mgu with counters := { d.mgu.counters with
        unlearnedBursts := min 4294967295 (s.mgu.counters.unlearnedBursts + 1) } } }

/-- R54, R56, R67, R68: a sender that no record holds claims the FREE record of the lowest index, every
field at its value when claimed, last unicast from the present for a header addressed here. Whatever its
destination and stamp, the header is then taken as that of a known sender with this record, which
HeaderServed and HeaderMapUnknown state. A header to another station files its measurement, if it is
stamped, and nothing else follows. What the CLC makes of the free instant is in `d` (log entries 14, 32). -/
def Obligations.SenderLearned : Prop :=
  ∀ (t : Time) (b : BurstInHand) (x : HeaderHeard) (h : Header) (s : State) (i : Nat),
    HeaderDue t s b → headerHeard s.lmd b x = some h → OwnLabel s h →
    (∀ j p, s.peer j = some p → p.address ≠ h.sender) →
    1 ≤ i → i ≤ s.peers.length → s.peer i = none → (∀ j, 1 ≤ j → j < i → s.peer j ≠ none) →
    let fresh := learnedPeer h.sender t (if s.suc.address = some h.dest then some t else none)
    exec (.headerOutcome t x) s = exec (.headerOutcome t x) { s with
      peers := tableSet s.peers i (some fresh)
      mgu := latch .peerLearned s.mgu } ∧
    ∀ d, DeclaredAt t (declaredFree b.start h) s d → s.suc.address ≠ some h.dest →
      h.dest ≠ broadcastAddr →
      exec (.headerOutcome t x) s = .next { d with
        now := t
        lmd := backToListen t d.lmd
        peers := tableSet s.peers i (some { fresh with
          store := match h.stamp with
            | none => fresh.store
            | some st => updAt fresh.store (st / 100) (fileWindow b.measurement)
          filings := if h.stamp = none then 0 else 1 })
        mgu := latch .peerLearned d.mgu }

/-- R57: a full table evicts the record heard longest ago among those without work, the lowest index among
equals, and the new sender takes its place. Whatever its destination and stamp, the header is then taken as
that of a known sender with the new record, no train being empty (R115). What the CLC makes of the free
instant is in `d` (log entries 14, 32). -/
def Obligations.SenderEvicts : Prop :=
  ∀ (t : Time) (b : BurstInHand) (x : HeaderHeard) (h : Header) (s : State) (i : Nat) (p : Peer),
    HeaderDue t s b → headerHeard s.lmd b x = some h → OwnLabel s h → CountersInRange s →
    (∀ x ∈ s.peers, x ≠ none) → (∀ j q, s.peer j = some q → q.address ≠ h.sender) →
    s.peer i = some p → ¬Busy s i →
    (∀ j q, s.peer j = some q → ¬Busy s j →
      elapsed q.lastHeard t < elapsed p.lastHeard t ∨
      (elapsed q.lastHeard t = elapsed p.lastHeard t ∧ i ≤ j)) →
    let fresh := learnedPeer h.sender t (if s.suc.address = some h.dest then some t else none)
    ((∀ r ∈ trains s.tsc, r.frames ≠ []) →
      exec (.headerOutcome t x) s = exec (.headerOutcome t x) { s with
        peers := tableSet s.peers i (some fresh)
        ptu := { s.ptu with fwd := s.ptu.fwd.map fun e => e.filter fun e => decide (e.peer ≠ i) }
        lae := { s.lae with reviews := tableSet s.lae.reviews i none }
        tsc := { s.tsc with prospective := prospectiveLevel s.tsc }
        mgu := latch .peerLearned (latch .peerReleased s.mgu) }) ∧
    ∀ d, DeclaredAt t (declaredFree b.start h) s d → s.suc.address ≠ some h.dest →
      h.dest ≠ broadcastAddr →
      ∃ s' q, exec (.headerOutcome t x) s = .next s' ∧ s'.peer i = some q ∧
        (h.stamp = none → q = fresh) ∧
        (∀ st, h.stamp = some st → q = { fresh with
          store := updAt fresh.store (st / 100) (fileWindow b.measurement), filings := 1 }) ∧
        (∀ j, j ≠ i → s'.peer j = s.peer j) ∧
        (∀ n e, tableGet s'.ptu.fwd n = some e → e.peer ≠ i) ∧
        tableGet s'.lae.reviews i = none ∧ s'.clc = d.clc ∧ s'.lmd = backToListen t d.lmd ∧
        s'.mgu.flags = s.mgu.flags ||| (1#14 <<< 3) ||| (1#14 <<< 4) ∧
        s'.mgu.counters = d.mgu.counters ∧ s'.rxa.table = s.rxa.table ∧
        framesHeld s'.tsc = framesHeld s.tsc ∧ s'.bpm = s.bpm

/-- R55, R67, R69, R86, R95 to R97, R99 to R101, R127: a known sender's header refreshes its record, and the
measurement is filed under the sender's window; a review begins at the eighth filing when none is running. A
header to another station, or a broadcast one that names an unknown slot and version, does nothing more, and
the modem returns to LISTEN. One addressed here or broadcast, on the robust map or a known slot and version,
is served. A header that names the current version discards that slot's previous map. Addressed here, a
notice that is pending, a robust burst in a window mapped for the peer, or a keep-alive that is due queues
the current set, once. What the CLC makes of the free instant is in `d` (log entries 14, 32). -/
def Obligations.HeaderServed : Prop :=
  ∀ (t : Time) (b : BurstInHand) (x : HeaderHeard) (h : Header) (s d : State) (i : Nat)
    (p : Peer), HeaderDue t s b → headerHeard s.lmd b x = some h → OwnLabel s h →
    DeclaredAt t (declaredFree b.start h) s d → PeersDistinct s →
    s.peer i = some p → p.address = h.sender →
    (s.suc.address ≠ some h.dest →
      (h.dest ≠ broadcastAddr ∨ mapTest p h.selector = .unknown) →
      ∃ s' q, exec (.headerOutcome t x) s = .next s' ∧ Refreshed t b h i p q s s' ∧
        q = { p with
          lastHeard := q.lastHeard, lastUnicast := q.lastUnicast
          store := q.store, filings := q.filings } ∧
        s' = { d with
          now := t
          lmd := backToListen t d.lmd
          peers := tableSet s.peers i (some q)
          lae := s'.lae }) ∧
    ∀ map, mapTest p h.selector = .known map → s.suc.address ≠ some broadcastAddr →
    (s.suc.address = some h.dest ∨ h.dest = broadcastAddr) →
    let robust := h.selector = .robust ∧ ∃ st, h.stamp = some st ∧
      p.announced.getD (st / 100) none ≠ none ∧ ∀ u, p.robustResend = some u → 1000000 ≤ elapsed u t
    let keepAlive := h.selector ≠ .robust ∧ ∀ u, p.lastNotice = some u → 20000000 ≤ elapsed u t
    let wanted := h.dest ≠ broadcastAddr ∧ (p.noticePending = true ∨ robust ∨ keepAlive)
    ∃ s' q, exec (.headerOutcome t x) s = .next s' ∧ s'.clc = d.clc ∧
      s'.lmd = { d.lmd with
        inHand := some { b with
          header := some h, stage := .payload, map := map, dataBits := map.bits s.gOn } } ∧
      s'.rxa.table = s.rxa.table ∧
      s'.rxa.service = some
        { sender := i, bcast := decide (h.dest = broadcastAddr), blocks := h.blocks
          receipt := if h.dest = broadcastAddr then none
            else some ⟨.received, false, List.replicate h.blocks false⟩ } ∧
      s'.peer i = some q ∧ (∀ j, j ≠ i → s'.peer j = s.peer j) ∧
      q.address = p.address ∧ Refreshed t b h i p q s s' ∧
      q.counters = { p.counters with
        burstsReceived := min 4294967295 (p.counters.burstsReceived + 1) } ∧
      -- R95, R96
      (h.selector = .robust → map = .robust ∧ q.rxMaps = p.rxMaps) ∧
      (∀ k v, h.selector = .slot k v →
        (∀ m, (p.rxMaps.getD k ⟨none, none⟩).current = some m → m.version = v →
          map = .window m.loads ∧ q.rxMaps = p.rxMaps.set k ⟨some m, none⟩) ∧
        ((∀ m, (p.rxMaps.getD k ⟨none, none⟩).current = some m → m.version ≠ v) →
          q.rxMaps = p.rxMaps ∧ ∃ m, (p.rxMaps.getD k ⟨none, none⟩).previous = some m ∧
            m.version = v ∧ map = .window m.loads)) ∧
      -- R86, R99, R100, R101
      (h.dest ≠ broadcastAddr → robust → q.robustResend = some t) ∧
      (h.dest = broadcastAddr ∨ ¬robust → q.robustResend = p.robustResend) ∧
      (¬wanted → s'.tsc = s.tsc ∧ s'.bpm = s.bpm ∧ q.lastNotice = p.lastNotice ∧
        q.noticePending = p.noticePending) ∧
      (wanted → q.lastNotice = some t ∧ q.noticePending = false ∧
        s'.tsc = { s.tsc with queues := s'.tsc.queues, prospective := s'.tsc.prospective } ∧
        (∀ j, j ≠ 0 → queueAt s'.tsc j = queueAt s.tsc j) ∧
        s'.bpm = { s.bpm with ctlFree := s'.bpm.ctlFree, ctlDesc := s'.bpm.ctlDesc } ∧
        (s.tsc.queues.length = 8 → p.announced.length = 12 → 2 ≤ s.bpm.ctlFree →
          1 ≤ s.bpm.ctlDesc →
          (∃ f ∈ queueAt s'.tsc 0, f.kind = .notice ∧ f.dest = .peer i) ∧
          (∀ f ∈ queueAt s'.tsc 0, f.kind = .notice → f.dest = .peer i →
            f.bytes = encodeNotice p.announced (currentSlots p) ∧ f.expiry = after t 500000) ∧
          ((∀ f ∈ queueAt s.tsc 0, f.kind = .notice → f.dest ≠ .peer i) →
            (queueAt s'.tsc 0).length = (queueAt s.tsc 0).length + 1) ∧
          ((∃ f ∈ queueAt s.tsc 0, f.kind = .notice ∧ f.dest = .peer i) →
            (queueAt s'.tsc 0).length = (queueAt s.tsc 0).length))) ∧
      q.txMaps = p.txMaps ∧ q.fallback = p.fallback ∧ q.nextTag = p.nextTag ∧
      q.announced = p.announced ∧ q.recent = p.recent ∧ q.deferred = p.deferred ∧
      s'.lcu = s.lcu ∧ s'.ptu = s.ptu ∧ s'.mgu = d.mgu ∧ s'.suc = s.suc

/-- R95, R97, R127, R84: a known sender's header addressed here that names an unknown slot and version. The
receipt is MAP_UNKNOWN, and the current set waits for the sender as a notice. What the CLC makes of the free
instant is in `d` (log entries 14, 32). -/
def Obligations.HeaderMapUnknown : Prop :=
  ∀ (t : Time) (b : BurstInHand) (x : HeaderHeard) (h : Header) (s d : State) (i : Nat)
    (p : Peer), HeaderDue t s b → headerHeard s.lmd b x = some h → OwnLabel s h →
    DeclaredAt t (declaredFree b.start h) s d → PeersDistinct s →
    s.peer i = some p → p.address = h.sender → mapTest p h.selector = .unknown →
    s.suc.address = some h.dest → h.dest ≠ broadcastAddr →
    s.tsc.queues.length = 8 → p.announced.length = 12 → 2 ≤ s.bpm.ctlFree → 1 ≤ s.bpm.ctlDesc →
    ∃ s' q, exec (.headerOutcome t x) s = .next s' ∧ s'.clc = d.clc ∧
      s'.lmd = { d.lmd with
        inHand := some { b with header := some h, stage := .refused, map := .robust, dataBits := 0 } } ∧
      s'.rxa.table = s.rxa.table ∧
      s'.rxa.service = some ⟨i, false, h.blocks, some ⟨.mapUnknown, false, []⟩⟩ ∧
      s'.peer i = some q ∧ q.counters = p.counters ∧ q.rxMaps = p.rxMaps ∧
      Refreshed t b h i p q s s' ∧ q.lastNotice = some t ∧ q.noticePending = false ∧
      (∃ f ∈ queueAt s'.tsc 0, f.kind = .notice ∧ f.dest = .peer i) ∧
      (∀ f ∈ queueAt s'.tsc 0, f.kind = .notice → f.dest = .peer i →
        f.bytes = encodeNotice p.announced (currentSlots p) ∧ f.expiry = after t 500000) ∧
      s'.lcu = s.lcu ∧ s'.ptu = s.ptu ∧ s'.mgu = d.mgu ∧ s'.suc = s.suc

/-- R68, R74: a filing into a window, group by group, with the ranges it keeps; and the loading of a group,
the largest whose threshold its effective value less the margin reaches. -/
def Obligations.MeasurementArithmetic : Prop :=
  (∀ (meas : List Nat) (w : WindowStore) (g a x : Nat), w.groups[g]? = some ⟨a, x⟩ →
    (fileWindow meas w).count = min (w.count + 1) 255 ∧
    (w.count = 0 →
      (fileWindow meas w).groups[g]? = some ⟨meas.getD g 0, meas.getD g 0⟩) ∧
    (w.count ≠ 0 → (fileWindow meas w).groups[g]? =
      some ⟨(3 * a + meas.getD g 0 + 2) / 4, min (meas.getD g 0) (x + 2)⟩) ∧
    (a ≤ 255 → meas.getD g 0 ≤ 255 → ∀ a' x', (fileWindow meas w).groups[g]? = some ⟨a', x'⟩ →
      a' ≤ 255 ∧ x' ≤ 255)) ∧
  ∀ margin e b th : Nat, 1 ≤ b →
    [12, 28, 44, 56, 68, 80, 92, 104, 116, 128][b - 1]? = some th →
    (b ≤ loading margin e ↔ margin + th ≤ e) ∧ loading margin e ≤ 10

/-- R73 to R79: the set that a review computes from any snapshot. A window filed fewer than four times, or
whose loadings carry no more than the robust map, has no candidate; the others are grouped into slots by the
inequalities of R77 and the three courses of R78; a slot that in the end carries no more than the robust map
is unused, and its windows are ROBUST. Every slot map carries more than the robust map, its loadings within
0..10 and 0 on notched groups; every mapped window names a slot with a map, was eligible, and is loaded no
higher than its own candidate. -/
def Obligations.NewSetCarriesMore : Prop :=
  ∀ (notch : List Bool) (margin : Nat) (snapshot : Store),
    let n := reviewSet notch margin snapshot
    let beats (m : List Nat) := 2 * groupsOn notch < 3 * (16 * m.sum) / 4
    -- R73, R74, R76
    (∀ (w : WindowStore) (loads : List Nat), loads.length = 60 →
      (∀ g, g < 60 → loads[g]? = some (if notch.getD g false = true then 0 else
        let x := w.groups.getD g ⟨0, 0⟩
        loading margin ((x.average + x.worst) / 2))) →
      (candidate notch margin w = some loads ↔ 4 ≤ w.count ∧ beats loads) ∧
      (candidate notch margin w = none ↔ w.count < 4 ∨ ¬beats loads)) ∧
    -- R77, R78, R79
    (∃ slots ws, Grouped [] (snapshot.map (candidate notch margin)) slots ws ∧ slots.length ≤ 4 ∧
      (∀ (k : Nat) (m : List Nat), slots[k]? = some m →
        (beats m → n.slots[k]? = some (some m)) ∧ (¬beats m → n.slots[k]? = some none)) ∧
      (∀ k : Nat, slots.length ≤ k → k < 4 → n.slots[k]? = some none) ∧
      (∀ w : Nat, ws[w]? = some none → n.windows[w]? = some none) ∧
      ∀ (w k : Nat) (m : List Nat), ws[w]? = some (some k) → slots[k]? = some m →
        (beats m → n.windows[w]? = some (some k)) ∧ (¬beats m → n.windows[w]? = some none)) ∧
    n.windows.length = snapshot.length ∧ n.slots.length = 4 ∧
    (∀ m, some m ∈ n.slots → m.length = 60 ∧ (∀ b ∈ m, b ≤ 10) ∧
      (∀ g, notch.getD g false = true → m.getD g 0 = 0) ∧
      2 * groupsOn notch < 3 * (16 * m.sum) / 4) ∧
    ∀ w k : Nat, n.windows[w]? = some (some k) → ∃ (m : List Nat) (ws : WindowStore) (c : List Nat),
      n.slots[k]? = some (some m) ∧ snapshot[w]? = some ws ∧ 4 ≤ ws.count ∧
      candidate notch margin ws = some c ∧ ∀ g, m.getD g 0 ≤ c.getD g 0

/-- R71, R72, R81, R82, R83, R85: a review completes: a set that is not announced leaves no trace; an
announced one is written, and sent at once to a peer heard sending here within 10 s. A set is announced when
some window is mapped in one of the current assignment and the new set alone, has a group whose loading
falls by two or more, or changes its raw bits by an eighth or more. An announced set gives every slot its
maps by the table of R82, a new map the slot's next version, and becomes the window list. The length of a
review is not checked (log entry 26). -/
def Obligations.ReviewCompletes : Prop :=
  (∀ (t : Time) (i : Nat) (r : Review) (p : Peer) (s : State), s.nrstLow = false →
    tableGet s.lae.reviews i = some r → s.peer i = some p →
    let n := reviewSet s.lmd.notch s.lae.margin r.snapshot
    let done : Lae := { s.lae with reviews := tableSet s.lae.reviews i none }
    let recent := ∃ u, p.lastUnicast = some u ∧ elapsed u t ≤ 10000000
    (announces p n = false →
      exec (.reviewComplete t i) s = .next { s with now := t, lae := done }) ∧
    (announces p n = true → ¬recent → exec (.reviewComplete t i) s = .next { s with
      now := t, lae := done
      peers := tableSet s.peers i (some { announceSet n p with noticePending := true }) }) ∧
    (announces p n = true → recent → r.snapshot.length = 12 → s.tsc.queues.length = 8 →
      2 ≤ s.bpm.ctlFree → 1 ≤ s.bpm.ctlDesc →
      ∃ s' q, exec (.reviewComplete t i) s = .next s' ∧ s'.lae = done ∧ s'.peer i = some q ∧
        q.rxMaps = (announceSet n p).rxMaps ∧ q.announced = n.windows ∧
        q.lastNotice = some t ∧ q.noticePending = false ∧
        ∃ f ∈ framesHeld s'.tsc, f.kind = .notice ∧ f.dest = .peer i ∧
          f.bytes = encodeNotice n.windows (currentSlots (announceSet n p)))) ∧
  ∀ (p : Peer) (n : NewSet),
    -- R80, R81
    (announces p n = true ↔ ∃ w, w < 12 ∧
      let old := (p.announced.getD w none).bind fun k =>
        ((p.rxMaps.getD k ⟨none, none⟩).current).map fun m => m.loads
      let new := (n.windows.getD w none).bind fun k => n.slots.getD k none
      old.isSome ≠ new.isSome ∨ ∃ o m, old = some o ∧ new = some m ∧
        ((∃ g x y : Nat, o[g]? = some x ∧ m[g]? = some y ∧ y + 2 ≤ x) ∨
          ((16 * o.sum : Nat) : Int) ≤ 8 * (((16 * m.sum : Nat) : Int) - (16 * o.sum : Nat)).natAbs)) ∧
    -- R82, R83
    (announceSet n p).announced = n.windows ∧
    (announceSet n p).rxMaps.length = p.rxMaps.length ∧
    announceSet n p = { p with
      rxMaps := (announceSet n p).rxMaps, announced := n.windows } ∧
    ∀ (k : Nat) (r : RxSlot), p.rxMaps[k]? = some r →
      let becomes (c q : Option VersionedMap) := (announceSet n p).rxMaps[k]? = some ⟨c, q⟩
      (∀ m c, n.slots.getD k none = some m → r.current = some c →
        (c.loads = m → becomes (some c) r.previous) ∧
        (c.loads ≠ m → becomes (some ⟨(c.version + 1) % 16, m⟩) (some c))) ∧
      (∀ m, n.slots.getD k none = some m → r.current = none →
        (r.previous = none → becomes (some ⟨0, m⟩) none) ∧
        (∀ o, r.previous = some o → becomes (some ⟨(o.version + 1) % 16, m⟩) (some o))) ∧
      (n.slots.getD k none = none → (∀ c, r.current = some c → becomes none (some c)) ∧
        (r.current = none → becomes none r.previous))

/-! ### Blocks, receipts and reassembly (chapter 8) -/

/-- R129: a block refused as damaged changes nothing; every other block is sound, and R132 decides it. The
block is what its payload symbols decode to. R128 has a block of a payload gone silent handed as not intact;
when a payload counts as gone silent is the model's choice (log entry 40). -/
def Obligations.BlockDamaged : Prop :=
  ∀ (t : Time) (x : SymbolsHeard) (bytes : List Byte) (b : BurstInHand) (h : Header) (sv : Service)
    (s : State), BlockDue t s x bytes b h sv →
    (Damaged s x bytes b h sv → exec (.blockHanded t x) s = .next (handOver t b s)) ∧
    (¬Damaged s x bytes b h sv → exec (.blockHanded t x) s = .next (decideBlock sv (b.handed + 1)
      (readBlockHeader bytes) (blockPayloadOf bytes) (handOver t b s)))

/-- R132, cases 1 and 2: a duplicate is accepted and discarded. -/
def Obligations.DuplicateAccepted : Prop :=
  ∀ (t : Time) (x : SymbolsHeard) (bytes : List Byte) (b : BurstInHand) (h : Header) (sv : Service)
    (p : Peer) (s : State), BlockDue t s x bytes b h sv → ¬Damaged s x bytes b h sv →
    s.peer sv.sender = some p →
    (CompletedBefore s sv (readBlockHeader bytes) ∨
      ∃ pos e, KeyAt s sv (readBlockHeader bytes) pos e ∧ e.agrees (readBlockHeader bytes) = true ∧
        e.holdsIndex (readBlockHeader bytes).index = true) →
    exec (.blockHanded t x) s = .next { handOver t b s with
      rxa := { s.rxa with service := some (sv.accepting b.handed) }
      peers := tableSet s.peers sv.sender (some p.acceptingOne) }

/-- R132, cases 3, 4 and 5, R133: a block is stored and completes nothing. It takes a block of the receive
pool, its bit becomes 1, and its entry's last-block time becomes the present. A stale entry is freed first;
of a full table the oldest entry is evicted, 20,000 µs old or older, the one at the lowest position among
equals. -/
def Obligations.BlockStored : Prop :=
  ∀ (t : Time) (y : SymbolsHeard) (bytes : List Byte) (b : BurstInHand) (h : Header) (sv : Service)
    (p : Peer) (s : State), BlockDue t s y bytes b h sv → ¬Damaged s y bytes b h sv →
    s.peer sv.sender = some p → ¬CompletedBefore s sv (readBlockHeader bytes) →
    let x := readBlockHeader bytes
    let stored (free : Nat) (table : List (Option Entry)) (m : Mgu) :=
      exec (.blockHanded t y) s = .next { handOver t b s with
        bpm := { s.bpm with rxFree := free }
        rxa := ⟨table, some (sv.accepting b.handed)⟩
        peers := tableSet s.peers sv.sender (some p.acceptingOne)
        mgu := m }
    (∀ pos e, KeyAt s sv x pos e → e.agrees x = true → e.holdsIndex x.index = false →
      s.bpm.rxFree ≠ 0 → (e.adding x bytes t).isComplete = false →
      stored (s.bpm.rxFree - 1) (tableSet s.rxa.table pos (some (e.adding x bytes t))) s.mgu) ∧
    (∀ r pos, MakesRoom t s sv x r → lowestVacant r.rxa.table = some pos → r.bpm.rxFree ≠ 0 →
      2 ≤ x.total →
      stored (r.bpm.rxFree - 1)
        (tableSet r.rxa.table pos (some (newEntry sv x (blockPayloadOf bytes) t))) r.mgu)

/-- R134: a sound block that finds the pool empty, or no position after R133, is refused for buffer. -/
def Obligations.BlockRefusedForBuffer : Prop :=
  ∀ (t : Time) (y : SymbolsHeard) (bytes : List Byte) (b : BurstInHand) (h : Header) (sv : Service)
    (s : State), BlockDue t s y bytes b h sv → ¬Damaged s y bytes b h sv →
    ¬CompletedBefore s sv (readBlockHeader bytes) →
    (s.bpm.rxFree = 0 ∧ (∃ pos e, KeyAt s sv (readBlockHeader bytes) pos e ∧
        e.agrees (readBlockHeader bytes) = true ∧
        e.holdsIndex (readBlockHeader bytes).index = false)) ∨
      (s.bpm.rxFree = 0 ∧ NoKey s sv (readBlockHeader bytes) ∧ none ∈ s.rxa.table) ∨
      (NoKey s sv (readBlockHeader bytes) ∧ ∀ x ∈ s.rxa.table, ∃ e, x = some e ∧
        elapsed e.lastTime t < 20000) →
    exec (.blockHanded t y) s = .next { handOver t b s with
      rxa := { s.rxa with service := some { sv with
        receipt := sv.receipt.map fun r => { r with bufferShort := true } } }
      mgu := { s.mgu with counters := { s.mgu.counters with
        bufferRefusals := min 4294967295 (s.mgu.counters.bufferRefusals + 1) } } }

/-- R132, R133, R137, R138, R139, R151: a block that completes a data frame, the last index of its entry or
the one block of a frame, for which a stale entry or the oldest one may have gone: `r` is the state with
room for it. Delivery to the egress FIFO, with the source address learned behind the sender at its own
position, at the lowest vacant one, or in place of the entry seen longest ago, or the drop at a full FIFO.
The frame waits in the FIFO, or an idle port starts the oldest reply or frame (R155). -/
def Obligations.DataFrameCompletes : Prop :=
  ∀ (t : Time) (x : SymbolsHeard) (bytes : List Byte) (b : BurstInHand) (h : Header) (sv : Service)
    (pos : Nat) (e : Entry) (p : Peer) (s r : State), Completes t s x bytes b h sv r pos e p →
    e.kind = .data →
    let source := addrAt e.frameBytes 7
    let done : Peer := { p.acceptingOne with
      recent := if e.bcast then p.recent else appendRecent (e.level, e.tag) p.recent }
    let completed (s' : State) := exec (.blockHanded t x) s = .next s' ∧
      s'.rxa = ⟨tableSet r.rxa.table pos none, some (sv.accepting b.handed)⟩ ∧
      s'.peers = tableSet s.peers sv.sender (some done) ∧
      s'.lmd = (handOver t b s).lmd ∧ s'.lcu = s.lcu ∧ s'.clc = s.clc ∧ s'.tsc = s.tsc ∧
      s'.lae = s.lae ∧ s'.suc = s.suc
    let frame : EgressFrame := ⟨e.frameBytes, e.blocks.length, e.level⟩
    let learnable := isGroup source = false ∧ source ≠ 0 ∧ s.suc.address ≠ some source
    let learned : Option ForwardEntry := some ⟨source, e.sender, t⟩
    let counting (replaced : Nat) : Mgu := { r.mgu with counters := { r.mgu.counters with
      lineDelivered := min 4294967295 (s.mgu.counters.lineDelivered + 1)
      forwardReplacements := replaced } }
    let keeps := counting s.mgu.counters.forwardReplacements
    (s.ptu.fifo.length < 32 → ∃ s', completed s' ∧
      (s.ptu.egress ≠ .idle ∨ pauseHolds t s.ptu = true →
        s'.ptu = { s.ptu with fwd := s'.ptu.fwd, fifo := s.ptu.fifo ++ [frame] }) ∧
      (s.ptu.egress = .idle → pauseHolds t s.ptu = false →
        Chosen { s.ptu with fwd := s'.ptu.fwd, fifo := s.ptu.fifo ++ [frame] } s'.ptu) ∧
      (s.ptu.egress = .idle → pauseHolds t s.ptu = false → s.ptu.slot = [] → s.ptu.fifo = [] →
        s'.ptu.fifo = [] ∧ s'.ptu.egress = .sendingData frame) ∧
      s'.bpm = { s.bpm with rxFree := r.bpm.rxFree - 1 } ∧
      (∀ n f, learnable → forwardFind source s.ptu.fwd = some (n, f) →
        s'.ptu.fwd = tableSet s.ptu.fwd n learned ∧ s'.mgu = keeps) ∧
      (∀ n, learnable → forwardFind source s.ptu.fwd = none → lowestVacant s.ptu.fwd = some n →
        s'.ptu.fwd = tableSet s.ptu.fwd n learned ∧ s'.mgu = keeps) ∧
      (∀ n f, learnable → forwardFind source s.ptu.fwd = none → (∀ y ∈ s.ptu.fwd, y ≠ none) →
        tableGet s.ptu.fwd n = some f →
        (∀ j g, tableGet s.ptu.fwd j = some g → elapsed g.lastSeen t < elapsed f.lastSeen t ∨
          (elapsed g.lastSeen t = elapsed f.lastSeen t ∧ n ≤ j)) →
        s'.ptu.fwd = tableSet s.ptu.fwd n learned ∧
        s'.mgu = counting (min 4294967295 (s.mgu.counters.forwardReplacements + 1))) ∧
      (¬learnable → s'.ptu.fwd = s.ptu.fwd ∧ s'.mgu = keeps)) ∧
    (32 ≤ s.ptu.fifo.length → ∃ s', completed s' ∧ s'.ptu = s.ptu ∧
      s'.bpm = { s.bpm with rxFree := r.bpm.rxFree - 1 + e.blocks.length } ∧
      s'.mgu = latch .egressOverflow { r.mgu with counters := { r.mgu.counters with
        egressOverflows := min 4294967295 (s.mgu.counters.egressOverflows + 1) } })

/-- R93, R94, R138, R140: a block that completes a map notice: the notice is rejected whole, or installed as
the sender's transmit map set, an entry of its window list that names an absent slot or one with no more
than the robust map becoming ROBUST. Its blocks return to the pool either way. -/
def Obligations.NoticeCompletes : Prop :=
  ∀ (t : Time) (x : SymbolsHeard) (bytes : List Byte) (b : BurstInHand) (h : Header) (sv : Service)
    (pos : Nat) (e : Entry) (p : Peer) (s r : State), Completes t s x bytes b h sv r pos e p →
    e.kind = .notice →
    let n := readNotice e.frameBytes
    let done : Peer := { p.acceptingOne with recent := appendRecent (e.level, e.tag) p.recent }
    let completed (q : Peer) (m : Mgu) := exec (.blockHanded t x) s = .next { handOver t b s with
      rxa := ⟨tableSet r.rxa.table pos none, some (sv.accepting b.handed)⟩
      bpm := { s.bpm with rxFree := r.bpm.rxFree - 1 + e.blocks.length }
      peers := tableSet s.peers sv.sender (some q)
      mgu := m }
    let bad := ∃ m, some m ∈ n.2 ∧ (15 < m.version ∨ (∃ x ∈ m.loads, 10 < x) ∨
      ∃ g, g < 60 ∧ s.lmd.notch.getD g false = true ∧ m.loads.getD g 0 ≠ 0)
    (bad → completed done { r.mgu with counters := { r.mgu.counters with
      noticesRejected := min 4294967295 (r.mgu.counters.noticesRejected + 1) } }) ∧
    (¬bad → ∃ ws, WindowsSettled s.gOn n.2 n.1 ws ∧ ws.length = 12 ∧ completed
      { done with
        txMaps := some { windows := ws, slots := n.2, installed := t }
        fallback := 0 }
      (latch .mapInstalled r.mgu))

/-- R20, R31, R34, R128: the payload end, the receipt and its end. A receipt is a preamble symbol and a
robust symbol on the groups that are not notched. That the 100 µs of quiet run afresh from its end is the
model's (log entry 11). -/
def Obligations.ReceptionEnds : Prop :=
  ∀ (t : Time) (b : BurstInHand) (h : Header) (s : State), s.nrstLow = false →
    (s.lmd.activity = .receive → s.lmd.inHand = some b → b.header = some h → b.stage = .payload →
      b.handed = h.blocks → reached t (after b.start (160 + 40 * h.symbols)) = true →
      (h.dest = broadcastAddr → exec (.rxPayloadEnd t) s = .next { s with
        now := t, lmd := backToListen t s.lmd, rxa := { s.rxa with service := none } }) ∧
      (h.dest ≠ broadcastAddr → exec (.rxPayloadEnd t) s = .next { s with
        now := t, lmd := { s.lmd with inHand := some { b with stage := .ended } } })) ∧
    (∀ sv r a, s.lmd.activity = .receive → s.lmd.inHand = some b → b.header = some h →
      b.stage = .ended ∨ b.stage = .refused → s.rxa.service = some sv → sv.receipt = some r →
      s.suc.address = some a → reached t (after b.start (220 + 40 * h.symbols)) = true →
      exec (.sendReceipt t) s = .next { s with
        now := t
        lmd := { s.lmd with
          activity := .sendReceipt, inHand := none, energy := none
          receiptStart := after b.start (220 + 40 * h.symbols)
          lineOut := .receipt (s.lmd.notch.map fun n => if n then .silent else .preamble)
            (robustSymbol s.lmd.notch (receiptSymbol s.gOn a r)) }
        rxa := { s.rxa with service := none } }) ∧
    (s.lmd.activity = .sendReceipt → reached t (after s.lmd.receiptStart 80) = true →
      exec (.receiptEnd t) s = .next { s with
        now := t
        lmd := { s.lmd with
          activity := .listen, lineOut := .silent, energy := none, quietFrom := t
          listenFrom := some t } })

/-- R130: the receive pool's balance at 256 is kept by every step. -/
def Obligations.RxBalanceKept : Prop :=
  ∀ s s' : State, RxBalance s → step s = .next s' → RxBalance s'

/-! ### Trains and bursts (chapter 7) -/

/-- R112, R113, R114, R116: the prospective claim level is the smallest among the levels of the non-empty
queues and of the active train that lie at or below the floor, and a station without one is not pending: at
its opening instant it only listens through the mark slot. The claim decision at an opening instant: the
most urgent queue at or below the floor gives a new train when there is no active train or a less urgent
one, which is pushed onto the stack; otherwise the active train stays. A train takes up to four frames of
one destination from the head of its queue, with consecutive tags. -/
def Obligations.TrainFormed : Prop :=
  (∀ (q : Tsc) (l : Nat),
    (prospectiveLevel q = none ↔ (∀ j, j ≤ 7 → j ≤ q.floor → queueAt q j = []) ∧
      ∀ a, q.active = some a → q.floor < a.level) ∧
    (prospectiveLevel q = some l ↔ l ≤ q.floor ∧
      ((l ≤ 7 ∧ queueAt q l ≠ []) ∨ ∃ a, q.active = some a ∧ a.level = l) ∧
      (∀ j, j < l → j ≤ 7 → queueAt q j = []) ∧ ∀ a, q.active = some a → l ≤ a.level)) ∧
  (∀ (t u : Time) (s : State), s.nrstLow = false → s.clc.medium = .gap →
    s.clc.freeInstant = some u → reached t (after u 40) = true → s.clc.markListen = false →
    s.suc.station = .online → (∀ j, j ≤ 7 → j ≤ s.tsc.floor → queueAt s.tsc j = []) →
    (∀ a, s.tsc.active = some a → s.tsc.floor < a.level) →
    exec (.openingInstant t) s = .next { s with
      now := t
      clc := { s.clc with markListen := true }
      tsc := { s.tsc with prospective := none } }) ∧
  ∀ (t u : Time) (l : Nat) (s : State), s.nrstLow = false → s.clc.medium = .gap →
    s.clc.freeInstant = some u → reached t (after u 40) = true → s.clc.markListen = false →
    s.suc.station = .online → s.tsc.queues.length = 8 → l ≤ s.tsc.floor →
    (∀ f rest n k, FormsTrain l f rest n k s →
      ∃ s', exec (.openingInstant t) s = .next s' ∧ Marked (after u 40) l s s' ∧
        TrainStands l f rest n k s s') ∧
    (∀ a, s.tsc.active = some a → a.level = l →
      (∀ j, j < l → j ≤ 7 → queueAt s.tsc j = []) →
      ∃ s', exec (.openingInstant t) s = .next s' ∧ Marked (after u 40) l s s' ∧
        s'.tsc = { s.tsc with prospective := some l } ∧ s'.peers = s.peers)

/-- R118, R119, R120: the map and the number of blocks of a burst cut from a train. It goes on the window
map of the slot that the latched phase's window names, where `OnWindow` holds, otherwise on the robust map;
it carries as many PENDING blocks as fit into K_max symbols within the receipt limit, and where none may go
no burst is cut. What it carries: the lowest-numbered PENDING blocks in train order, within the receipt
limit, in the smallest number of symbols, 1..28. A broadcast burst goes on the robust map. A burst on a
window map ends its payload within the run of windows of that slot, computed from the latched phase and
period. -/
def Obligations.BurstFits : Prop :=
  ∀ (s : State) (a : Train),
  (∀ k m kMax, OnWindow s a.dest k m kMax →
    let d := 3 * (16 * m.loads.sum) / 4
    (burstFor s a = none ↔ mayGo s.gOn a.dest a.frames kMax d = 0) ∧
    ∀ b, burstFor s a = some b → b.refs.length = mayGo s.gOn a.dest a.frames kMax d ∧
      b.selector = .slot k m.version ∧ b.map = .window m.loads ∧ b.dataBits = d ∧ b.symbols ≤ kMax) ∧
  ((∀ k m kMax, ¬OnWindow s a.dest k m kMax) →
    (burstFor s a = none ↔ mayGo s.gOn a.dest a.frames 28 (2 * s.gOn) = 0) ∧
    ∀ b, burstFor s a = some b → b.refs.length = mayGo s.gOn a.dest a.frames 28 (2 * s.gOn) ∧
      b.selector = .robust ∧ b.map = .robust ∧ b.dataBits = 2 * s.gOn) ∧
  ∀ b : BurstOnLine, burstFor s a = some b →
    let n := b.refs.length
    1 ≤ n ∧ n ≤ 48 ∧ 1 ≤ b.symbols ∧ b.symbols ≤ 28 ∧ b.blocks.length = n ∧
    n * 1088 ≤ b.symbols * b.dataBits ∧ (b.symbols - 1) * b.dataBits < n * 1088 ∧
    b.refs <+: a.frames.flatMap pendingRefs ∧ b.dest = a.dest ∧
    (∀ i, a.dest = .peer i → n ≤ min 48 (2 * s.gOn - 66)) ∧
    (b.selector = .robust → b.map = .robust ∧ b.dataBits = 2 * s.gOn) ∧
    (a.dest = .broadcast → b.selector = .robust ∧ b.destAddr = broadcastAddr) ∧
    ∀ k v, b.selector = .slot k v → ∃ i p m phase, a.dest = .peer i ∧ s.peer i = some p ∧
      b.destAddr = p.address ∧ p.txMaps = some m ∧ p.fallback < 2 ∧
      s.lcu.latchPhase = some phase ∧ m.windows.getD (phase / 100) none = some k ∧
      (∃ x, m.slots.getD k none = some x ∧ x.version = v ∧ b.map = .window x.loads ∧
        b.dataBits = dataBits x.loads) ∧
      ((∀ w, w < 12 → m.windows.getD w none = some k) ∨
        ∃ j, 1 ≤ j ∧ j ≤ 12 ∧ m.windows.getD ((phase / 100 + j) % 12) none ≠ some k ∧
          (∀ c, 1 ≤ c → c < j → m.windows.getD ((phase / 100 + c) % 12) none = some k) ∧
          (160 + 40 * b.symbols) * 19200 ≤
            ((100 * ((phase / 100 + j) % 12) + 1200 - phase) % 1200) * s.lcu.latchP16)

/-- R18, R20, R24, R25, R28, R35, R49: this station's burst begins at the latched instant: two preamble
symbols, its header as two robust symbols, and its payload on the burst's map. At the payload end of a
unicast burst the receipt is expected 60 µs later. In every symbol on a map a notched group is silent, and
so is a group with loading 0; a robust group carries each coded bit on four carriers, one bit to a carrier,
and a loaded group its loading on each of 16 carriers. The 100 µs of quiet run afresh from the payload end
(log entry 11); a burst in service for a burst in hand that is dropped ends with it (log entry 29); the
codes and the order in which coded bits are placed are the model's (log entries 33, 34). -/
def Obligations.BurstGoes : Prop :=
  (∀ (t : Time) (b : BurstOnLine) (a : Addr) (label : BitVec 16) (s : State), s.nrstLow = false →
    s.tsc.onLine = some b → s.suc.address = some a → s.suc.label = some label →
    let header : Header :=
      ⟨label, a, b.destAddr, s.lcu.latchPhase, b.selector, b.symbols, b.refs.length⟩
    let preamble : Machine.Symbol := s.lmd.notch.map fun n => if n then .silent else .preamble
    let sending (l : Lmd) : Lmd := { l with
      activity := .sendBurst, energy := none
      lineOut := .burst [preamble, preamble]
        (mapSymbols s.lmd.notch .robust 2 (headerSymbols s.gOn header))
        (mapSymbols s.lmd.notch b.map b.symbols (payloadBits b.symbols b.dataBits b.blocks)) }
    (s.clc.medium = .sending → s.lmd.activity ≠ .sendBurst → reached t s.lcu.latchStart = true →
      (s.lmd.inHand = none →
        exec (.burstStart t) s = .next { s with now := t, lmd := sending s.lmd }) ∧
      (s.lmd.inHand ≠ none → exec (.burstStart t) s = .next { s with
        now := t, lmd := sending (backToListen t s.lmd), rxa := { s.rxa with service := none } })) ∧
    (∀ i, b.dest = .peer i → s.lmd.activity = .sendBurst →
      reached t (after s.lcu.latchStart (160 + 40 * b.symbols)) = true →
      exec (.ownPayloadEnd t) s = .next { s with
        now := t
        lmd := { s.lmd with
          activity := .receiptWait, lineOut := .silent, energy := none, quietFrom := t
          expect := some { start := after s.lcu.latchStart (220 + 40 * b.symbols)
                           dest := b.destAddr, blocks := b.refs.length } }
        clc := { s.clc with medium := .awaitReceipt } })) ∧
  ∀ (notch : List Bool) (map : PayloadMap) (k : Nat) (data : List Bool) (x : Machine.Symbol),
    (∀ loads, map = .window loads → loads.length = notch.length) → x ∈ mapSymbols notch map k data →
    (mapSymbols notch map k data).length = k ∧ x.length = notch.length ∧
    ∀ g y, x[g]? = some y → GroupCarries notch map g y

/-- R35, R49, R115, R121, R122, R123, R63: the result of a burst: a receipt with the result RECEIVED, or the
payload end of a broadcast burst. Bit i of the bitmap decides the block at burst position i; a block outside
the burst keeps its state. Frames with a block in the burst complete, are dropped as expired or at the
sixteenth attempt, or stay. What is heard in the receipt slot is an operand (log entry 12); the 100 µs of
quiet run afresh from the payload end of a broadcast burst (log entry 11). -/
def Obligations.BurstDelivered : Prop :=
  (∀ (b : BurstOnLine) (accepted : List Bool) (f : Frame),
    Settled b accepted f (settleFrame b accepted f)) ∧
  ∀ (t : Time) (b : BurstOnLine) (a : Train) (s : State), (∀ f ∈ a.frames, f.level = a.level) →
    CountersInRange s →
    (∀ x i p h r, SlotEnds t s b x i p a → p.deferred = false → ReceiptIs s x h r →
      r.result = .received →
      ∃ s', exec (.receiptSlotEnd t (some h)) s = .next s' ∧ SlotOver t b s s' ∧
        Applied b (a.frames.map (settleFrame b r.bitmap)) a s.mgu s s' ∧
        s'.peers = tableSet s.peers i (some { p with fallback := 0 })) ∧
    (s.nrstLow = false → s.tsc.onLine = some b → b.dest = .broadcast → s.tsc.active = some a →
      s.lmd.activity = .sendBurst → s.clc.medium = .sending →
      reached t (after s.lcu.latchStart (160 + 40 * b.symbols)) = true →
      ∃ s', exec (.ownPayloadEnd t) s = .next s' ∧
        Applied b (a.frames.map (settleFrame b (List.replicate b.refs.length true))) a s.mgu s s' ∧
        s'.lmd = { s.lmd with
          activity := .listen, lineOut := .silent, energy := none, quietFrom := t
          listenFrom := some t } ∧
        s'.clc = inGap (after s.lcu.latchStart (160 + 40 * b.symbols)) s.clc ∧
        s'.peers = s.peers ∧ s'.rxa = s.rxa ∧ s'.ptu = s.ptu)

/-- R98, R115, R122, R123, R63: no receipt, or a receipt with the result MAP_UNKNOWN. Every block of the
burst is PENDING again; a frame that is expired, or at its sixteenth attempt, is dropped, in a train of any
number of frames. What is heard in the receipt slot is an operand (log entry 12). -/
def Obligations.BurstUnanswered : Prop :=
  ∀ (t : Time) (b : BurstOnLine) (a : Train) (x : ReceiptExpect) (i : Nat) (p : Peer)
    (heard : Option ReceiptHeard) (s : State), SlotEnds t s b x i p a → p.deferred = false →
    (∀ f ∈ a.frames, f.level = a.level) → CountersInRange s →
    let missed : Peer := { p with
      fallback := min 2 (p.fallback + 1)
      counters := { p.counters with
        noReceipts := min 4294967295 (p.counters.noReceipts + 1) } }
    let ended (s' : State) := exec (.receiptSlotEnd t heard) s = .next s' ∧ SlotOver t b s s'
    (∀ f j, f ∈ a.frames → (∃ r ∈ b.refs, r = ⟨f.kind, f.desc, j⟩) → ∀ y, f.blocks[j]? = some y →
      (settleFrame b [] f).blocks[j]? = some { y with state := .pending }) ∧
    (NoReceipt s x heard →
      ∃ s', ended s' ∧ Applied b (a.frames.map (settleFrame b [])) a s.mgu s s' ∧
        s'.peers = tableSet s.peers i (some missed)) ∧
    (∀ h r, heard = some h → ReceiptIs s x h r → r.result = .mapUnknown →
      ∃ s', ended s' ∧
        Applied b (a.frames.map (settleFrame b [])) a (latch .mapUnknownSeen s.mgu) s s' ∧
        s'.mgu.flags.getLsbD 11 = true ∧
        s'.peers = tableSet s.peers i (some { p with
          txMaps := none
          fallback := 0
          counters := { p.counters with
            mapUnknown := min 4294967295 (p.counters.mapUnknown + 1) } })) ∧
    (∀ f, a.frames = [f] → f.carried b = true → NoReceipt s x heard →
      (∃ y ∈ (settleFrame b [] f).blocks, y.state ≠ .done) → f.expired = true ∨ 16 ≤ f.attempts →
      ∃ s', ended s' ∧ s'.tsc.onLine = none ∧ s'.tsc.active = s.tsc.stack.head? ∧
        s'.tsc.stack = s.tsc.stack.tail ∧ s'.bpm = returned f s.bpm ∧
        (f.expired = true → s'.mgu = latch .frameExpired (s.mgu.counting (atLevel f.level fun c =>
          { c with expiries := min 4294967295 (c.expiries + 1) }))) ∧
        (f.expired = false → s'.mgu = latch .frameRetryLimit (s.mgu.counting (atLevel f.level fun c =>
          { c with retryDrops := min 4294967295 (c.retryDrops + 1) }))) ∧
        s'.peers = tableSet s.peers i (some missed))

/-- R124: the expiry of a frame that no block of is on the line drops it wherever it stands, and its blocks
and descriptor return; a frame with a block on the line is marked. That the command has no effect before the
instant is the model's (log entry 3). -/
def Obligations.FrameExpires : Prop :=
  ∀ (t : Time) (f : Frame) (s : State), s.nrstLow = false →
    (framesHeld s.tsc).find? (fun g => g.holds f.kind f.desc) = some f →
    (reached t f.expiry = false →
      exec (.frameExpiry t f.kind f.desc) s = .next { s with now := t }) ∧
    (reached t f.expiry = true → (∃ x ∈ f.blocks, x.state = .onLine) →
      exec (.frameExpiry t f.kind f.desc) s = .next { s with
        now := t, tsc := markExpired f.kind f.desc s.tsc } ∧
      framesHeld (markExpired f.kind f.desc s.tsc) = s.tsc.queues.flatten ++
        ((trains s.tsc).flatMap fun r => r.frames).map fun g =>
          if g.holds f.kind f.desc then { g with expired := true } else g) ∧
    (reached t f.expiry = true → (∀ x ∈ f.blocks, x.state ≠ .onLine) →
      ∃ s', exec (.frameExpiry t f.kind f.desc) s = .next s' ∧ s'.bpm = returned f s.bpm ∧
        s'.mgu = latch .frameExpired (s.mgu.counting (atLevel f.level fun c =>
          { c with expiries := min 4294967295 (c.expiries + 1) })) ∧
        (∀ g ∈ framesHeld s'.tsc, g.holds f.kind f.desc = false) ∧
        (framesHeld s'.tsc).length =
          ((framesHeld s.tsc).filter fun g => !g.holds f.kind f.desc).length ∧
        (NoClaimOpens s →
          framesHeld s'.tsc = (framesHeld s.tsc).filter (fun g => !g.holds f.kind f.desc) ∧
          s'.peers = s.peers ∧ s'.clc = s.clc ∧ s'.lmd = s.lmd) ∧
        s'.lcu = s.lcu ∧ s'.ptu = s.ptu ∧ s'.lae = s.lae ∧ s'.suc = s.suc)

/-- R106, R107: the balances of the transmit pool and the control reserve are kept by every step. -/
def Obligations.TxBalanceKept : Prop :=
  ∀ s s' : State, TxBalance s → step s = .next s' → TxBalance s'

/-- R112, R115: every step keeps the levels rising strictly from the active train down the stack, and 1..4
frames of its own level and destination in every train. -/
def Obligations.StackOrderKept : Prop :=
  ∀ s s' : State, StackOrder s.tsc → step s = .next s' → StackOrder s'.tsc

/-! ### Timers and releases (chapters 4, 8, 9) -/

/-- R55, R62, R84, R99, R131, R135, R152: the timers of a record, of a reassembly entry and of a forwarding
entry. Each has its effect when its time has come, and none before; that the command then has none is the
model's (log entry 3). -/
def Obligations.TimersExpire : Prop :=
  ∀ (t u : Time) (i : Nat) (s : State), s.nrstLow = false →
    let stands (c : Instr) := exec c s = .next { s with now := t }
    (∀ p : Peer, s.peer i = some p →
      let changed (c : Instr) (q : Peer) :=
        exec c s = .next { s with now := t, peers := tableSet s.peers i (some q) }
      (∀ m, p.txMaps = some m →
        (reached t (after m.installed 60000000) = true →
          changed (.mapSetLifetime t i) { p with txMaps := none }) ∧
        (reached t (after m.installed 60000000) = false → stands (.mapSetLifetime t i))) ∧
      (p.lastUnicast = some u →
        (10000000 < elapsed u t →
          changed (.lastUnicastExpiry t i) { p with lastUnicast := none }) ∧
        (elapsed u t ≤ 10000000 → stands (.lastUnicastExpiry t i))) ∧
      (p.lastNotice = some u →
        (20000000 ≤ elapsed u t →
          changed (.lastNoticeExpiry t i) { p with lastNotice := none }) ∧
        (elapsed u t < 20000000 → stands (.lastNoticeExpiry t i))) ∧
      (p.robustResend = some u →
        (1000000 ≤ elapsed u t →
          changed (.robustResendExpiry t i) { p with robustResend := none }) ∧
        (elapsed u t < 1000000 → stands (.robustResendExpiry t i)))) ∧
    (∀ e, tableGet s.rxa.table i = some e →
      (250000 ≤ elapsed e.lastTime t → exec (.reassemblyTimeout t i) s = .next { s with
        now := t
        bpm := { s.bpm with rxFree := s.bpm.rxFree + e.blocks.length }
        rxa := { s.rxa with table := tableSet s.rxa.table i none }
        mgu := { s.mgu with counters := { s.mgu.counters with
          abandoned := min 4294967295 (s.mgu.counters.abandoned + 1) } } }) ∧
      (elapsed e.lastTime t < 250000 → stands (.reassemblyTimeout t i))) ∧
    (∀ e, tableGet s.ptu.fwd i = some e →
      (300000000 ≤ elapsed e.lastSeen t → exec (.forwardingAging t i) s = .next { s with
        now := t, ptu := { s.ptu with fwd := tableSet s.ptu.fwd i none } }) ∧
      (elapsed e.lastSeen t < 300000000 → stands (.forwardingAging t i)))

/-- R59, R60: the silence instant of a record. A burst to the peer on the line defers the release to the end
of its receipt slot; otherwise the record is released with all that refers to it: its frames, its reassembly
and forwarding entries and its review; what belongs to the other peers stays. That the command has no effect
before the instant is the model's (log entry 3). -/
def Obligations.SilenceReleases : Prop :=
  ∀ (t : Time) (i : Nat) (p : Peer) (s : State), s.nrstLow = false → s.peer i = some p →
    let gone := (framesHeld s.tsc).filter fun f => decide (f.dest = .peer i)
    let entries := (s.rxa.table.filterMap id).filter fun e => decide (e.sender = i)
    let released (s' : State) := s'.peer i = none ∧
      (∀ j q, j ≠ i → s.peer j = some q →
        ∃ q', s'.peer j = some q' ∧ q' = { q with nextTag := q'.nextTag }) ∧
      (∀ f ∈ framesHeld s'.tsc, f.dest ≠ .peer i) ∧
      s'.rxa.table = (s.rxa.table.map fun e => e.filter fun e => decide (e.sender ≠ i)) ∧
      s'.ptu = { s.ptu with fwd := s.ptu.fwd.map fun e => e.filter fun e => decide (e.peer ≠ i) } ∧
      s'.lae = { s.lae with reviews := tableSet s.lae.reviews i none } ∧
      s'.mgu.flags.getLsbD 4 = true
    (reached t (after p.lastHeard 120000000) = false →
      exec (.silenceInstant t i) s = .next { s with now := t }) ∧
    (∀ b, reached t (after p.lastHeard 120000000) = true → s.tsc.onLine = some b →
      b.dest = .peer i → exec (.silenceInstant t i) s = .next { s with
        now := t, peers := tableSet s.peers i (some { p with deferred := true }) }) ∧
    (reached t (after p.lastHeard 120000000) = true →
      (∀ b, s.tsc.onLine = some b → b.dest ≠ .peer i) →
      ∃ s', exec (.silenceInstant t i) s = .next s' ∧ released s' ∧
        s'.mgu = latch .peerReleased { s.mgu with counters := { s.mgu.counters with
          framesReleased := min 4294967295 (s.mgu.counters.framesReleased + gone.length)
          abandoned := min 4294967295 (s.mgu.counters.abandoned + entries.length) } } ∧
        s'.bpm = { gone.foldl (fun b f => returned f b) s.bpm with
          rxFree := s.bpm.rxFree + (entries.map fun e => e.blocks.length).sum } ∧
        (NoClaimOpens s → s'.clc = s.clc ∧ s'.lmd = s.lmd ∧ s'.rxa.service = s.rxa.service ∧
          (∀ j, j ≠ i → s'.peer j = s.peer j) ∧
          framesHeld s'.tsc = (framesHeld s.tsc).filter fun f => !decide (f.dest = .peer i)) ∧
        s'.lcu = s.lcu ∧ s'.suc = s.suc) ∧
    (∀ b x a heard, SlotEnds t s b x i p a → p.deferred = true →
      ∃ s', exec (.receiptSlotEnd t heard) s = .next s' ∧ released s' ∧ s'.lmd.activity = .listen)

/-! ### The port and egress (chapter 9) -/

/-- R107, R144 to R147, R157: bytes from the port. Bytes that no start delimiter precedes since a reset, the
rest of a frame that it cut, are not taken, and neither their end nor receive data without a frame byte
counts a frame (log entries 3, 38). For a 128-byte stretch that begins to arrive the mover draws a free
block, or marks the frame short; after byte 1,522 it draws none. The frames that do not go on to the line:
with an error, a port control frame, a management frame for this station, a frame to this station, a frame
while not ONLINE. The tests come in this order. The stretches that bytes arrive in are the model's operands
(log entry 19). -/
def Obligations.PortFrameDisposed : Prop :=
  ∀ (t : Time) (bytes : List Byte) (bad : Bool) (s : State), s.nrstLow = false →
    let f := wholeFrame s bytes
    let ends (s' : State) := exec (.portFrameReceived t bytes bad) s = .next s'
    let control := classified t
      (fun c => { c with portControl := min 4294967295 (c.portControl + 1) }) s
    let plain := classified t id s
    let ours := s.suc.address = none ∨ s.suc.address = some (addrAt f 1) ∨
      (addrAt f 1 = broadcastAddr ∧ byteAt f 15 = 1)
    let g := s.ptu.ingress.getD ⟨[], 0, false, false⟩
    let grown (n : Nat) (short : Bool) := exec (.ingressBlockDraw t bytes bad) s = .next { s with
      now := t
      bpm := { s.bpm with txFree := s.bpm.txFree - n }
      ptu := { s.ptu with
        ingress := some ⟨g.bytes ++ bytes, g.drawn + n, short, g.rxError || bad⟩, receiving := true } }
    (¬Taken s bytes →
      ends { s with now := t, ptu := { s.ptu with receiving := false } } ∧
      (bytes ≠ [] → exec (.ingressBlockDraw t bytes bad) s = .next { s with
        now := t, ptu := { s.ptu with receiving := true } })) ∧
    (Taken s bytes → bytes ≠ [] →
      (∀ k, g.short = false → g.bytes.length = 128 * k → g.drawn = k → k ≤ 11 → bytes.length ≤ 128 →
        (1 ≤ s.bpm.txFree → grown 1 false) ∧ (s.bpm.txFree = 0 → grown 0 true)) ∧
      (g.short = true → grown 0 true) ∧
      (g.short = false → 1522 ≤ g.bytes.length → g.drawn = 12 → grown 0 false)) ∧
    (Taken s bytes → ¬GoodFrame s bytes bad →
      ends (classified t (fun c => { c with portErrors := min 4294967295 (c.portErrors + 1) }) s)) ∧
    (Taken s bytes → GoodFrame s bytes bad → etherType f = 0x8808 →
      (fieldAt f 15 2 ≠ 1 → ends control) ∧
      (fieldAt f 15 2 = 1 → fieldAt f 17 2 ≠ 0 → ends { control with
        ptu := { control.ptu with
          pauseEnd := some (after t ((512 * fieldAt f 17 2 + 999) / 1000)) } }) ∧
      (fieldAt f 15 2 = 1 → fieldAt f 17 2 = 0 →
        (s.ptu.egress ≠ .idle →
          ends { control with ptu := { control.ptu with pauseEnd := none } }) ∧
        (s.ptu.egress = .idle → ∃ q, Chosen { control.ptu with pauseEnd := none } q ∧
          ends { control with ptu := q }))) ∧
    (Taken s bytes → GoodFrame s bytes bad → etherType f = 0x89C3 → ours →
      (¬NotShort s bytes → ends (classified t
        (fun c => { c with managementLost := min 4294967295 (c.managementLost + 1) }) s)) ∧
      (NotShort s bytes → s.mgu.queue.length < 2 → ends { plain with
        mgu := { plain.mgu with queue := s.mgu.queue ++ [readRequest f] } }) ∧
      (NotShort s bytes → 2 ≤ s.mgu.queue.length → ends { plain with
        mgu := latch .mgmtOverflow { plain.mgu with counters := { plain.mgu.counters with
          requestsDropped := min 4294967295 (s.mgu.counters.requestsDropped + 1) } } })) ∧
    (Taken s bytes → GoodFrame s bytes bad → etherType f ≠ 0x8808 → (etherType f = 0x89C3 → ¬ours) →
      (s.suc.address = some (addrAt f 1) → ends (classified t
        (fun c => { c with portToStation := min 4294967295 (c.portToStation + 1) }) s)) ∧
      (s.suc.address ≠ some (addrAt f 1) → s.suc.station ≠ .online → ends (classified t
        (fun c => { c with portOffline := min 4294967295 (c.portOffline + 1) }) s)))

/-- R40, R107, R108, R110, R148, R149: a frame from the port for the line, `n` blocks long, at level `l`: it
is admitted to its queue or dropped at admission. In IDLE with the quiet flag set, a station that was not
pending marks at once. -/
def Obligations.PortFrameAdmitted : Prop :=
  ∀ (t : Time) (bytes : List Byte) (bad : Bool) (l n : Nat) (dest : Dest) (s : State),
    ForLine s bytes bad →
    let f := wholeFrame s bytes
    let g := s.ptu.ingress.getD ⟨[], 0, false, false⟩
    n = (f.length + 127) / 128 → g.drawn ≤ n → l ≤ 7 → s.tsc.queues.length = 8 →
    l = (if etherType f = 0x8100 then s.ptu.priority.getD ((byteAt f 15).toNat / 32) 0
      else s.ptu.defaultLevel) →
    (isGroup (addrAt f 1) = true → dest = .broadcast) →
    (isGroup (addrAt f 1) = false →
      (∀ k e, forwardFind (addrAt f 1) s.ptu.fwd = some (k, e) → dest = .peer e.peer) ∧
      (forwardFind (addrAt f 1) s.ptu.fwd = none → dest = .broadcast)) →
    let admits := NotShort s bytes ∧ 1 ≤ s.bpm.txDesc ∧ 8 * l + n ≤ s.bpm.txFree + g.drawn
    let received : Counters := { s.mgu.counters with
      portReceived := min 4294967295 (s.mgu.counters.portReceived + 1) }
    (admits → ∃ s' x, exec (.portFrameReceived t bytes bad) s = .next s' ∧
      x ∈ framesHeld s'.tsc ∧ x.kind = .data ∧ x.level = l ∧ x.dest = dest ∧ x.bytes = f ∧
      x.blocks = List.replicate n ⟨.pending, false⟩ ∧ x.attempts = 0 ∧ x.expired = false ∧
      x.expiry = after t (1000 * s.tsc.lifetimes.getD l 0) ∧
      (∀ y ∈ framesHeld s.tsc, y.kind = .data → y.desc ≠ x.desc) ∧
      s'.bpm = { s.bpm with
        txFree := s.bpm.txFree + g.drawn - n, txDesc := s.bpm.txDesc - 1 } ∧
      s'.ptu = { s.ptu with ingress := none, receiving := false } ∧
      s'.mgu = { s.mgu with counters := received } ∧
      (NoClaimOpens s → x.tag = none ∧ queueAt s'.tsc l = queueAt s.tsc l ++ [x] ∧
        (∀ j, j ≠ l → queueAt s'.tsc j = queueAt s.tsc j) ∧ s'.tsc.active = s.tsc.active ∧
        s'.tsc.stack = s.tsc.stack ∧ s'.clc = s.clc ∧ s'.lmd = s.lmd ∧ s'.peers = s.peers) ∧
      (s.clc.medium = .idle → s.clc.quietFlag = true → s.tsc.prospective = none →
        prospectiveLevel s.tsc = none → s.tsc.active = none → l ≤ s.tsc.floor →
        Marked t l s s' ∧ s'.tsc.prospective = some l)) ∧
    (¬admits → exec (.portFrameReceived t bytes bad) s = .next { s with
      now := t
      bpm := { s.bpm with txFree := s.bpm.txFree + g.drawn }
      ptu := { s.ptu with ingress := none, receiving := false }
      mgu := latch .frameDroppedAdmission ({ s.mgu with counters := received }.counting
        (atLevel l fun c => { c with admissionDrops := min 4294967295 (c.admissionDrops + 1) })) })

/-- R153, R154, R155, R159, R147, R164: what the port sends, a data frame as its bytes and a reply padded
with zeros to 60 bytes and with its check sequence; the end of a frame at egress, of the interframe gap and
of a pause, and a reply that has waited for room. Byte times are not checked (log entry 20); that the last
byte of the RESTART reply makes the restart due, and RESTART_TAKEN takes it, is the model's order (log entry
24); that PAUSE_END has no effect before its instant, and REPLY_PLACED none at a full slot, is the model's
too (log entry 3). -/
def Obligations.EgressGoesOn : Prop :=
  ∀ (t : Time) (s : State), s.nrstLow = false →
    (∀ f, s.ptu.egress = .sendingData f → portOutput s = .frame f.bytes) ∧
    (∀ r, s.ptu.egress = .sendingReply r → ∃ padded,
      padded = r.bytes ++ List.replicate (60 - r.bytes.length) 0 ∧
      portOutput s = .frame (padded ++ frameCheck padded)) ∧
    (s.ptu.egress = .idle ∨ s.ptu.egress = .gap → portOutput s = .nothing) ∧
    (∀ f, s.ptu.egress = .sendingData f → exec (.egressLastByte t) s = .next { s with
      now := t
      bpm := { s.bpm with rxFree := s.bpm.rxFree + f.blocks }
      ptu := { s.ptu with egress := .gap }
      mgu := { s.mgu with counters := { s.mgu.counters with
        portSent := min 4294967295 (s.mgu.counters.portSent + 1) } } }) ∧
    (∀ r, s.ptu.egress = .sendingReply r → exec (.egressLastByte t) s = .next { s with
      now := t
      ptu := { s.ptu with egress := .gap }
      mgu := { s.mgu with
        restart := if r.restart then .due else s.mgu.restart
        counters := { s.mgu.counters with
          repliesSent := min 4294967295 (s.mgu.counters.repliesSent + 1) } } }) ∧
    (s.ptu.egress = .gap →
      (∀ e, s.ptu.pauseEnd = some e → reached t e = false →
        exec (.egressGapEnd t) s = .next { s with
          now := t, ptu := { s.ptu with egress := .idle } }) ∧
      ((∀ e, s.ptu.pauseEnd = some e → reached t e = true) →
        ∃ q, Chosen { s.ptu with egress := .idle } q ∧
          exec (.egressGapEnd t) s = .next { s with now := t, ptu := q })) ∧
    (∀ e, s.ptu.pauseEnd = some e →
      (reached t e = false → exec (.pauseEnd t) s = .next { s with now := t }) ∧
      (reached t e = true → s.ptu.egress ≠ .idle → exec (.pauseEnd t) s = .next { s with
        now := t, ptu := { s.ptu with pauseEnd := none } }) ∧
      (reached t e = true → s.ptu.egress = .idle →
        ∃ q, Chosen { s.ptu with pauseEnd := none } q ∧
          exec (.pauseEnd t) s = .next { s with now := t, ptu := q })) ∧
    (∀ r, s.mgu.service = some r →
      (2 ≤ s.ptu.slot.length → exec (.replyPlaced t) s = .next { s with now := t }) ∧
      (s.ptu.slot.length < 2 → ∃ s', exec (.replyPlaced t) s = .next s' ∧
        Offered r { s with now := t, mgu := { s.mgu with service := none } } s'))

/-! ### Configuration and requests (chapter 10) -/

/-- R160, R161, R162, R163, R42: the flash read, CONFIG LOAD, and the apply of a valid configuration block,
field by field, its values clamped, with FLASH or PORT as the image's source. `block` is the block of 52
bytes. The flash read may end from 35 µs on (log entry 20), and a byte that it does not return reads 0xFF
(log entry 30); WRONG_STATE comes before the check of the block (log entry 22); the 100 µs of quiet start
where the modem begins to listen (log entry 11). The apply is stated outside IDLE, where every station that
is not ONLINE is; nothing else here depends on the medium. In a CONFIG LOAD the reply is offered after the
apply, from the new station address. -/
def Obligations.ConfigApplied : Prop :=
  ∀ (t d : Time) (r : Request) (rest : List Request) (block : List Byte) (s : State),
    s.nrstLow = false →
    let valid := fieldAt block 1 2 = 0x4E4B ∧ byteAt block 3 = 1 ∧
      fieldAt block 51 2 = (crc16 (bytesBits (block.take 50))).toNat ∧
      isGroup (addrAt block 4) = false ∧
      ∃ g, g < 60 ∧ (byteAt block (12 + g / 8)).getLsbD (7 - g % 8) = false
    let low := (addrAt block 4).toNat % 65536
    let applied (source : Strap) (s' : State) := s'.suc.station = .online ∧
      s'.suc.address = some (addrAt block 4) ∧
      s'.suc.label = some (BitVec.ofNat 16 (fieldAt block 10 2)) ∧
      (∃ c, s'.suc.image = some c ∧ c.source = source) ∧
      s'.lcu = { s.lcu with q := min 32 (max 2 (byteAt block 21).toNat) } ∧
      s'.now = t ∧ s'.nrstLow = false ∧ s'.suc.strap = s.suc.strap ∧
      s'.lmd = { s.lmd with
        activity := .listen, notch := s'.lmd.notch, path := s'.lmd.path, energy := none
        quietFrom := t, listenFrom := some t } ∧ s'.lmd.notch.length = 60 ∧
      (∀ g, g < 60 →
        s'.lmd.notch[g]? = some ((byteAt block (12 + g / 8)).getLsbD (7 - g % 8))) ∧
      s'.lmd.path = (if byteAt block 22 = 1 then .dual else .single) ∧
      s'.clc = { s.clc with rng := BitVec.ofNat 16 (if low = 0 then 1 else low) } ∧
      s'.lae = { s.lae with margin := min 40 (byteAt block 20).toNat } ∧
      s'.tsc.floor = min 7 (byteAt block 48).toNat ∧ s'.tsc.lifetimes.length = 8 ∧
      s'.ptu.priority.length = 8 ∧ s'.ptu.defaultLevel = min 7 (byteAt block 31).toNat ∧
      (∀ l, l < 8 →
        s'.tsc.lifetimes[l]? = some (min 1000 (max 1 (fieldAt block (32 + 2 * l) 2))) ∧
        s'.ptu.priority[l]? = some (min 7 (byteAt block (23 + l)).toNat)) ∧
      s'.mgu.mask = BitVec.ofNat 14 (fieldAt block 49 2) ∧ s'.mgu.flags = s.mgu.flags ∧
      s'.mgu.counters = s.mgu.counters ∧ s'.mgu.attn = decide (s'.mgu.flags &&& s'.mgu.mask ≠ 0) ∧
      s'.tsc = { s.tsc with
        floor := s'.tsc.floor, lifetimes := s'.tsc.lifetimes
        prospective := prospectiveLevel s'.tsc } ∧
      s'.ptu.ingress = s.ptu.ingress ∧ s'.ptu.fwd = s.ptu.fwd ∧ s'.ptu.fifo = s.ptu.fifo ∧
      s'.ptu.pauseEnd = s.ptu.pauseEnd ∧ s'.mgu.restart = s.mgu.restart ∧
      framesHeld s'.tsc = framesHeld s.tsc ∧ s'.peers = s.peers ∧ s'.bpm = s.bpm ∧ s'.rxa = s.rxa
    (s.suc.station = .config → s.suc.flashDue = some d → reached t d = true →
      exec (.flashReadStart t) s = .next { s with
        now := t, suc := { s.suc with flashDue := none, flashRead := some d } }) ∧
    (∀ bytes, s.suc.station = .config → s.suc.flashRead = some d → reached t (after d 35) = true →
      bytes.length ≤ 52 → block = bytes ++ List.replicate (52 - bytes.length) 0xFF →
      (valid → s.clc.medium ≠ .idle →
        ∃ s', exec (.flashReadEnd t bytes) s = .next s' ∧ applied .flash s' ∧
        s'.suc.flashRead = none ∧ s'.suc.flashDue = s.suc.flashDue ∧
        s'.ptu.slot = s.ptu.slot ∧ s'.ptu.egress = s.ptu.egress ∧ s'.ptu.txError = s.ptu.txError ∧
        s'.mgu.queue = s.mgu.queue ∧ s'.mgu.service = s.mgu.service) ∧
      (¬valid → exec (.flashReadEnd t bytes) s = .next { s with
        now := t
        suc := { s.suc with flashRead := none, station := .configWait }
        mgu := latch .configInvalid s.mgu })) ∧
    (RequestDue s r rest → r.code = 0x07 →
      let taken : State := { s with now := t, mgu := { s.mgu with queue := rest } }
      (s.suc.station ≠ .configWait → ∃ s', exec (.configLoad t) s = .next s' ∧
        Offered (replyTo s r .wrongState []) taken s') ∧
      (s.suc.station = .configWait →
        (r.argLength = 52 → r.args.take 52 = block → block.length = 52 → valid →
          s.clc.medium ≠ .idle → ∃ s', exec (.configLoad t) s = .next s' ∧ applied .port s' ∧ s'.mgu.queue = rest ∧
            s'.suc.flashDue = s.suc.flashDue ∧ s'.suc.flashRead = s.suc.flashRead ∧
            Offered
              ⟨encodeReply (addrAt block 4) r .ok [], false⟩
              { s' with
                ptu := { s'.ptu with
                  slot := s.ptu.slot, egress := s.ptu.egress, txError := s.ptu.txError }
                mgu := { s'.mgu with service := none } } s') ∧
        ((r.argLength ≠ 52 ∨ r.args.length < 52 ∨ (r.args.take 52 = block ∧ ¬valid)) →
          ∃ s', exec (.configLoad t) s = .next s' ∧
            Offered (replyTo s r .badArgument [])
              { taken with mgu := latch .configInvalid taken.mgu } s')))

/-- R40, R112, R113, R116, R164, R165, R167, R168, R172: the requests are taken and answered; first the
bytes of a reply, of IDENTIFY, of STATUS and of PEER DETAIL, and the lines of PEER LIST, the last with the
model's reading of one field (log entry 23). A request whose arguments do not fit is answered BAD_ARGUMENT;
STATUS clears the flags that it reports. FLOOR takes effect on the prospective claim level at once: in IDLE
with the quiet flag set, a station that becomes pending by it, or whose claim level changes, takes a claim
decision and marks at once. The order of the tests on a request, and two fields of PEER DETAIL, are the
model's readings (log entries 22, 23). -/
def Obligations.RequestsAnswered : Prop :=
  (∀ (a : Addr) (r : Request) (result : ResultCode) (contents : List Byte), r.sequence < 65536 →
    contents.length < 65536 →
    let f := encodeReply a r result contents
    f.length = 20 + contents.length ∧ addrAt f 1 = r.source ∧ addrAt f 7 = a ∧
    fieldAt f 13 2 = 0x89C3 ∧ byteAt f 15 = r.code + 0x80 ∧ fieldAt f 16 2 = r.sequence ∧
    (byteAt f 18).toNat = (match result with
      | .ok => 0 | .unknownRequest => 1 | .wrongState => 2 | .badArgument => 3) ∧
    fieldAt f 19 2 = contents.length ∧ f.drop 20 = contents) ∧
  (∀ s : State,
    let station : Byte := match s.suc.station with | .config => 0 | .configWait => 1 | .online => 2
    let lock : Byte := match s.lcu.lock with
      | .noLine => 0 | .acquiring => 1 | .locked => 2 | .holdover => 3
    let active := (s.peers.filter fun p => p.isSome).length
    (let f := identifyContents s;
      f.length = 13 ∧ byteAt f 1 = (if s.suc.address = none then 0 else 1) ∧
      (∀ a, s.suc.address = some a → addrAt f 2 = a) ∧ fieldAt f 8 2 = 0x0612 ∧
      byteAt f 10 = (match s.suc.strap with | .flash => 0 | .port => 1) ∧
      (s.suc.image = none → byteAt f 11 = 0) ∧
      (∀ c, s.suc.image = some c → byteAt f 11 = (match c.source with | .flash => 1 | .port => 2)) ∧
      byteAt f 12 = station ∧ byteAt f 13 = lock) ∧
    (let f := statusContents s;
      fieldAt f 1 2 = s.mgu.flags.toNat ∧ fieldAt f 3 2 = s.mgu.mask.toNat ∧ byteAt f 5 = station ∧
      byteAt f 6 = lock ∧ (s.lcu.p16 < 4294967296 → fieldAt f 7 4 = s.lcu.p16) ∧
      byteAt f 11 = BitVec.ofNat 8 active ∧ byteAt f 12 = BitVec.ofNat 8 s.tsc.floor ∧
      f.length = 12 + 4 * (counterList s.mgu.counters).length ∧
      ∀ k n, (counterList s.mgu.counters)[k]? = some n → n ≤ 4294967295 →
        fieldAt f (13 + 4 * k) 4 = n) ∧
    (let f := peerListContents s;
      f.length = 1 + 13 * active ∧ byteAt f 1 = BitVec.ofNat 8 active ∧
      ∀ (i k : Nat) (p : Peer), s.peer i = some p →
        k = ((s.peers.take (i - 1)).filter fun p => p.isSome).length →
        byteAt f (2 + 13 * k) = BitVec.ofNat 8 i ∧ addrAt f (3 + 13 * k) = p.address ∧
        fieldAt f (9 + 13 * k) 4 = elapsed p.lastHeard s.now / 1000 ∧
        byteAt f (13 + 13 * k) = (if p.txMaps = none then 0 else 1) ∧
        byteAt f (14 + 13 * k) = BitVec.ofNat 8 p.fallback)) ∧
  (∀ (i part : Nat) (p : Peer), PeerShape p →
    let f := peerDetailContents i part p
    let c := p.counters
    byteAt f 1 = BitVec.ofNat 8 i ∧
    (part = 0 → f.length = 302 ∧ byteAt f 2 = (if p.txMaps = none then 0 else 1) ∧
      (p.txMaps = none → ∀ k, 3 ≤ k → k ≤ 146 → byteAt f k = 0) ∧
      (∀ x, p.txMaps = some x → fieldAt f 3 4 = x.installed.toNat ∧
        (∀ w y, x.windows[w]? = some y →
          byteAt f (7 + w) = (match y with | some k => BitVec.ofNat 8 k | none => 4)) ∧
        ∀ k y, x.slots[k]? = some y → RecordBytes ((f.drop (18 + 32 * k)).take 32) y) ∧
      (∀ k r, p.rxMaps[k]? = some r → RecordBytes ((f.drop (146 + 32 * k)).take 32) r.current) ∧
      ∀ k n, [c.burstsSent, c.blocksSent, c.blocksRetried, c.noReceipts, c.mapUnknown,
          c.burstsReceived, c.blocksAccepted][k]? = some n → n ≤ 4294967295 →
        fieldAt f (275 + 4 * k) 4 = n) ∧
    (1 ≤ part → part ≤ 2 → f.length = 728 ∧ byteAt f 2 = BitVec.ofNat 8 part ∧
      ∀ w x, w < 6 → p.store[6 * (part - 1) + w]? = some x →
        byteAt f (3 + 121 * w) = BitVec.ofNat 8 x.count ∧
        ∀ g y, x.groups[g]? = some y →
          byteAt f (4 + 121 * w + 2 * g) = BitVec.ofNat 8 y.average ∧
          byteAt f (5 + 121 * w + 2 * g) = BitVec.ofNat 8 y.worst)) ∧
  ∀ (t : Time) (r : Request) (rest : List Request) (s : State), RequestDue s r rest →
    let taken : State := { s with now := t, mgu := { s.mgu with queue := rest } }
    let fits (need : Nat) := need ≤ r.argLength ∧ r.argLength ≤ r.args.length
    let answers (c : Instr) (result : ResultCode) (contents : List Byte) (s₁ : State) :=
      ∃ s', exec c s = .next s' ∧ Offered (replyTo s r result contents) s₁ s'
    let masked (m : BitVec 14) : State := { taken with mgu := { taken.mgu with
      mask := m, attn := decide (s.mgu.flags &&& m ≠ 0) } }
    let selection := BitVec.ofNat 14 (fieldAt r.args 2 2)
    let floored : Tsc := { s.tsc with floor := min 7 (byteAt r.args 1).toNat }
    let level := BitVec.ofNat 8 (min 7 (byteAt r.args 1).toNat)
    let record := s.peer (byteAt r.args 1).toNat
    let part := (byteAt r.args 2).toNat
    (r.code = 0x01 → (fits 0 → answers (.identify t) .ok (identifyContents taken) taken) ∧
      (¬fits 0 → answers (.identify t) .badArgument [] taken)) ∧
    (r.code = 0x02 → (fits 0 → answers (.status t) .ok (statusContents taken)
        { taken with mgu := { taken.mgu with flags := 0, attn := false } }) ∧
      (¬fits 0 → answers (.status t) .badArgument [] taken)) ∧
    (r.code = 0x03 →
      (fits 3 → byteAt r.args 1 = 1 → answers (.eventMask t) .ok
        (natBytes 2 (s.mgu.mask ||| selection).toNat) (masked (s.mgu.mask ||| selection))) ∧
      (fits 3 → byteAt r.args 1 = 2 → answers (.eventMask t) .ok
        (natBytes 2 (s.mgu.mask &&& ~~~selection).toNat) (masked (s.mgu.mask &&& ~~~selection))) ∧
      (¬fits 3 ∨ (byteAt r.args 1 ≠ 1 ∧ byteAt r.args 1 ≠ 2) →
        answers (.eventMask t) .badArgument (natBytes 2 s.mgu.mask.toNat) taken)) ∧
    (r.code = 0x04 →
      (fits 1 → (NoClaimOpens s ∨ prospectiveLevel floored = none ∨
          prospectiveLevel floored = s.tsc.prospective) →
        answers (.floor t) .ok [level]
          { taken with tsc := { floored with prospective := prospectiveLevel floored } }) ∧
      (∀ l, fits 1 → s.clc.medium = .idle → s.clc.quietFlag = true → s.suc.station = .online →
        prospectiveLevel floored = some l → s.tsc.prospective ≠ some l →
        ∃ s₁, answers (.floor t) .ok [level] s₁ ∧ Marked t l s s₁ ∧ s₁.clc.quietFlag = true ∧
          (∀ f rest n k, FormsTrain l f rest n k s →
            TrainStands l f rest n k { s with tsc := floored } s₁) ∧
          (∀ a, s.tsc.active = some a → a.level = l → (∀ j, j < l → j ≤ 7 → queueAt s.tsc j = []) →
            s₁.tsc = { floored with prospective := some l } ∧ s₁.peers = s.peers) ∧
          s₁.now = t ∧ s₁.lcu = s.lcu ∧ s₁.bpm = s.bpm ∧ s₁.ptu = s.ptu ∧ s₁.mgu = taken.mgu ∧
          s₁.suc = s.suc ∧ s₁.lae = s.lae ∧ s₁.rxa.table = s.rxa.table) ∧
      (¬fits 1 → answers (.floor t) .badArgument [BitVec.ofNat 8 s.tsc.floor] taken)) ∧
    (r.code = 0x05 → (fits 0 → answers (.peerList t) .ok (peerListContents taken) taken) ∧
      (¬fits 0 → answers (.peerList t) .badArgument [] taken)) ∧
    (r.code = 0x06 →
      (∀ p, fits 2 → record = some p → part ≤ 2 → answers (.peerDetail t) .ok
        (peerDetailContents (byteAt r.args 1).toNat part p) taken) ∧
      (¬fits 2 ∨ record = none ∨ 2 < part →
        answers (.peerDetail t) .badArgument [] taken)) ∧
    (r.code = 0 ∨ 8 < r.code.toNat → answers (.unknownRequest t) .unknownRequest [] taken)

/-! ### Invariants of the whole part -/

/-- R42, R168, R113, R54, R83, R63, R80, R150, R131, R20, 10.5 and the capacities of the collections: every
step keeps the random generator from zero, ATTN judged, the prospective claim level fresh, the addresses of
the records distinct, the versions of a slot's maps distinct, the tables of a record whole and its maps in
their ranges, a current map in every slot that an announced window list names, the forwarding entries at
distinct individual addresses behind ACTIVE records, the reassembly entries with distinct keys and never
empty, the notched groups silent in whatever is sent, every collection within its capacity and every counter
within its 32 bits. A forwarding entry is learned behind an ACTIVE record alone (log entry 32). -/
def Obligations.RegistersKept : Prop :=
  ∀ s s' : State, step s = .next s' →
    (RngLive s → RngLive s') ∧ (AttnJudged s → AttnJudged s') ∧
    (ProspectiveFresh s → ProspectiveFresh s') ∧ (PeersDistinct s → PeersDistinct s') ∧
    (PeerVersions s → PeerVersions s') ∧ (WithinCapacity s → WithinCapacity s') ∧
    (CountersInRange s → CountersInRange s') ∧ (PeersShaped s → PeersShaped s') ∧
    (AnnouncedMapped s → AnnouncedMapped s') ∧
    (ForwardSound s → ForwardSound s') ∧ (EntriesSound s → EntriesSound s') ∧
    (ModeShape s → NotchedSilent s → NotchedSilent s')

/-! ### Formats (chapter 11) -/

/-- R23, R24, R27, R28, R29, R170: a well-formed header has each field at its place in the bit stream, with
the check after them, and is read back as it was sent: from the data bits of its two header symbols at any
number of groups that carries it, and from the two symbols themselves when the receiver has the sender's
notch mask and the path chosen for each group gives them undisturbed, whatever the other path gives. The
codes are free values (log entry 33). With fewer than 40 groups the header symbols hold its first bits
alone. No header is decoded from a station whose notch mask differs from the receiver's or leaves fewer than
40 groups, whatever the symbols (the sender's mask is an operand: log entry 41), and none from a burst whose
first or second header symbol is silent, which is the model's reading of R36 (log entry 39). -/
def Obligations.HeaderRoundTrip : Prop :=
  (∀ (gOn : Nat) (h : Header), 40 ≤ gOn → headerWellFormed h = true →
    (∀ k v, h.selector = .slot k v → k ≤ 3 ∧ v ≤ 15) →
    (encodeHeader h).length = 158 ∧ HeaderBits (encodeHeader h) h ∧
    headerSymbols gOn h = encodeHeader h ++ List.replicate (4 * gOn - 158) false ∧
    decodeHeader gOn (headerSymbols gOn h) = some h) ∧
  (∀ (gOn : Nat) (h : Header), gOn < 40 → headerSymbols gOn h = (encodeHeader h).take (4 * gOn)) ∧
  (∀ (m : Lmd) (b : BurstInHand) (x : HeaderHeard), x.senderNotch ≠ m.notch ∨ groupsOn x.senderNotch < 40 →
    headerHeard m b x = none) ∧
  (∀ (m : Lmd) (b : BurstInHand) (x : HeaderHeard) (i : Nat), i < 2 →
    (∀ g, g < 60 → m.notch.getD g false = false →
      ∀ c ∈ ((match b.choice.getD g .a with | .a => x.onA | .b => x.onB).getD i []).getD g [], c = []) →
    headerHeard m b x = none) ∧
  ∀ (m : Lmd) (b : BurstInHand) (x : HeaderHeard) (h : Header), m.notch.length = 60 →
    40 ≤ groupsOn m.notch → headerWellFormed h = true →
    (∀ k v, h.selector = .slot k v → k ≤ 3 ∧ v ≤ 15) →
    x.senderNotch = m.notch →
    HeardOn b.choice (mapSymbols m.notch .robust 2 (headerSymbols (groupsOn m.notch) h))
      x.toSymbolsHeard →
    headerHeard m b x = some h

/-- R23 to R26, R31, R34, R35, R90, R128, R170, R171: receipts, blocks, block headers and map notices have
each field at its place, and are read back as they were sent; and so are the blocks of a payload and a
receipt from their symbols, when the receiver has the sender's notch mask and the path chosen for each group
gives them undisturbed. The codes are free values (log entry 33). -/
def Obligations.FormatsRoundTrip : Prop :=
  (∀ (gOn n : Nat) (a : Addr) (short : Bool) (bitmap : List Bool), bitmap.length = n →
    66 + n ≤ 2 * gOn →
    decodeReceipt gOn a n (receiptSymbol gOn a ⟨.received, short, bitmap⟩) =
      some ⟨.received, short, bitmap⟩ ∧
    decodeReceipt gOn a n (receiptSymbol gOn a ⟨.mapUnknown, short, []⟩) =
      some ⟨.mapUnknown, short, []⟩ ∧
    (let bits := receiptSymbol gOn a ⟨.received, short, bitmap⟩;
      bits.length = 2 * gOn ∧ bitsNat (bits.take 48) = a.toNat ∧ bits[48]? = some false ∧
      bits[49]? = some short ∧ (bits.drop 50).take n = bitmap ∧
      bitsNat ((bits.drop (50 + n)).take 16) = (crc16 (bits.take (50 + n))).toNat ∧
      ∀ v ∈ bits.drop (66 + n), v = false) ∧
    (let bits := receiptSymbol gOn a ⟨.mapUnknown, short, []⟩;
      bits.length = 2 * gOn ∧ bitsNat (bits.take 48) = a.toNat ∧ bits[48]? = some true ∧
      bits[49]? = some short ∧ bitsNat ((bits.drop 50).take 16) = (crc16 (bits.take 50)).toNat ∧
      ∀ v ∈ bits.drop 66, v = false)) ∧
  (∀ (h : BlockHeader) (payload : List Byte), h.level ≤ 7 → h.tag ≤ 255 → h.index ≤ 15 →
    h.total ≤ 15 → 1 ≤ h.last → h.last ≤ 128 → payload.length = 128 →
    let block := encodeBlock h payload
    block.length = 136 ∧ blockIntact block = true ∧ readBlockHeader block = h ∧
    blockPayloadOf block = payload ∧
    (byteAt block 1).toNat = (match h.kind with | .data => 0 | .notice => 128) + 16 * h.level ∧
    (byteAt block 2).toNat = h.tag ∧ (byteAt block 3).toNat = 16 * h.index + h.total ∧
    (byteAt block 4).toNat = h.last - 1 ∧ (block.drop 4).take 128 = payload ∧
    fieldAt block 133 4 = (blockCheck (block.take 132)).toNat) ∧
  (∀ (windows : WindowList) (slots : List (Option VersionedMap)), windows.length = 12 →
    slots.length = 4 → (∀ k : Nat, some k ∈ windows → k ≤ 3) →
    (∀ m, some m ∈ slots → m.version ≤ 255 ∧ m.loads.length = 60 ∧ ∀ b ∈ m.loads, b ≤ 15) →
    (encodeNotice windows slots).length = 140 ∧
    (∀ w : Nat, windows[w]? = some none → byteAt (encodeNotice windows slots) (w + 1) = 4) ∧
    (∀ w k : Nat, windows[w]? = some (some k) →
      (byteAt (encodeNotice windows slots) (w + 1)).toNat = k) ∧
    (∀ (k : Nat) (m : Option VersionedMap), slots[k]? = some m →
      RecordBytes (((encodeNotice windows slots).drop (12 + 32 * k)).take 32) m) ∧
    readNotice (encodeNotice windows slots) = (windows, slots)) ∧
  (∀ (m : Lmd) (b : BurstInHand) (x : SymbolsHeard) (h : Header) (blocks : List (List Byte)) (j : Nat)
    (block : List Byte), m.notch.length = 60 → b.map.fits m.notch →
    blocks.length * 1088 ≤ h.symbols * b.map.bits (groupsOn m.notch) →
    (∀ y ∈ blocks, y.length = 136) → blocks[j]? = some block →
    HeardOn b.choice (mapSymbols m.notch b.map h.symbols
      (payloadBits h.symbols (b.map.bits (groupsOn m.notch)) blocks)) x →
    blockHeard m b h (j + 1) x = block ∧ blockSilent m b h (j + 1) x = false) ∧
  ∀ (m : Lmd) (r : ReceiptHeard) (data : List Bool), m.notch.length = 60 →
    data.length = 2 * groupsOn m.notch →
    HeardOn (choosePaths m.path m.notch r.snrA r.snrB) [robustSymbol m.notch data]
      ⟨[r.symbolA], [r.symbolB]⟩ →
    receiptBits m r = data
end

