-- ==== Sys2Proof/Laws/State.lean ====
section
/-! SUPPORT. One lemma for each field after each update of one block's state. -/

namespace Sys2Proof.Machine

section mapLcu

variable (f : Lcu → Lcu) (s : State)

@[simp] theorem State.mapLcu_now : (s.mapLcu f).now = s.now := rfl
@[simp] theorem State.mapLcu_nrstLow : (s.mapLcu f).nrstLow = s.nrstLow := rfl
@[simp] theorem State.mapLcu_lcu : (s.mapLcu f).lcu = f s.lcu := rfl
@[simp] theorem State.mapLcu_lmd : (s.mapLcu f).lmd = s.lmd := rfl
@[simp] theorem State.mapLcu_clc : (s.mapLcu f).clc = s.clc := rfl
@[simp] theorem State.mapLcu_peers : (s.mapLcu f).peers = s.peers := rfl
@[simp] theorem State.mapLcu_lae : (s.mapLcu f).lae = s.lae := rfl
@[simp] theorem State.mapLcu_tsc : (s.mapLcu f).tsc = s.tsc := rfl
@[simp] theorem State.mapLcu_bpm : (s.mapLcu f).bpm = s.bpm := rfl
@[simp] theorem State.mapLcu_rxa : (s.mapLcu f).rxa = s.rxa := rfl
@[simp] theorem State.mapLcu_ptu : (s.mapLcu f).ptu = s.ptu := rfl
@[simp] theorem State.mapLcu_mgu : (s.mapLcu f).mgu = s.mgu := rfl
@[simp] theorem State.mapLcu_suc : (s.mapLcu f).suc = s.suc := rfl
@[simp] theorem State.mapLcu_pending : (s.mapLcu f).pending = s.pending := rfl

end mapLcu

section mapLmd

variable (f : Lmd → Lmd) (s : State)

@[simp] theorem State.mapLmd_now : (s.mapLmd f).now = s.now := rfl
@[simp] theorem State.mapLmd_nrstLow : (s.mapLmd f).nrstLow = s.nrstLow := rfl
@[simp] theorem State.mapLmd_lcu : (s.mapLmd f).lcu = s.lcu := rfl
@[simp] theorem State.mapLmd_lmd : (s.mapLmd f).lmd = f s.lmd := rfl
@[simp] theorem State.mapLmd_clc : (s.mapLmd f).clc = s.clc := rfl
@[simp] theorem State.mapLmd_peers : (s.mapLmd f).peers = s.peers := rfl
@[simp] theorem State.mapLmd_lae : (s.mapLmd f).lae = s.lae := rfl
@[simp] theorem State.mapLmd_tsc : (s.mapLmd f).tsc = s.tsc := rfl
@[simp] theorem State.mapLmd_bpm : (s.mapLmd f).bpm = s.bpm := rfl
@[simp] theorem State.mapLmd_rxa : (s.mapLmd f).rxa = s.rxa := rfl
@[simp] theorem State.mapLmd_ptu : (s.mapLmd f).ptu = s.ptu := rfl
@[simp] theorem State.mapLmd_mgu : (s.mapLmd f).mgu = s.mgu := rfl
@[simp] theorem State.mapLmd_suc : (s.mapLmd f).suc = s.suc := rfl
@[simp] theorem State.mapLmd_pending : (s.mapLmd f).pending = s.pending := rfl

end mapLmd

section mapClc

variable (f : Clc → Clc) (s : State)

@[simp] theorem State.mapClc_now : (s.mapClc f).now = s.now := rfl
@[simp] theorem State.mapClc_nrstLow : (s.mapClc f).nrstLow = s.nrstLow := rfl
@[simp] theorem State.mapClc_lcu : (s.mapClc f).lcu = s.lcu := rfl
@[simp] theorem State.mapClc_lmd : (s.mapClc f).lmd = s.lmd := rfl
@[simp] theorem State.mapClc_clc : (s.mapClc f).clc = f s.clc := rfl
@[simp] theorem State.mapClc_peers : (s.mapClc f).peers = s.peers := rfl
@[simp] theorem State.mapClc_lae : (s.mapClc f).lae = s.lae := rfl
@[simp] theorem State.mapClc_tsc : (s.mapClc f).tsc = s.tsc := rfl
@[simp] theorem State.mapClc_bpm : (s.mapClc f).bpm = s.bpm := rfl
@[simp] theorem State.mapClc_rxa : (s.mapClc f).rxa = s.rxa := rfl
@[simp] theorem State.mapClc_ptu : (s.mapClc f).ptu = s.ptu := rfl
@[simp] theorem State.mapClc_mgu : (s.mapClc f).mgu = s.mgu := rfl
@[simp] theorem State.mapClc_suc : (s.mapClc f).suc = s.suc := rfl
@[simp] theorem State.mapClc_pending : (s.mapClc f).pending = s.pending := rfl

end mapClc

section mapPeers

variable (f : List (Option Peer) → List (Option Peer)) (s : State)

@[simp] theorem State.mapPeers_now : (s.mapPeers f).now = s.now := rfl
@[simp] theorem State.mapPeers_nrstLow : (s.mapPeers f).nrstLow = s.nrstLow := rfl
@[simp] theorem State.mapPeers_lcu : (s.mapPeers f).lcu = s.lcu := rfl
@[simp] theorem State.mapPeers_lmd : (s.mapPeers f).lmd = s.lmd := rfl
@[simp] theorem State.mapPeers_clc : (s.mapPeers f).clc = s.clc := rfl
@[simp] theorem State.mapPeers_peers : (s.mapPeers f).peers = f s.peers := rfl
@[simp] theorem State.mapPeers_lae : (s.mapPeers f).lae = s.lae := rfl
@[simp] theorem State.mapPeers_tsc : (s.mapPeers f).tsc = s.tsc := rfl
@[simp] theorem State.mapPeers_bpm : (s.mapPeers f).bpm = s.bpm := rfl
@[simp] theorem State.mapPeers_rxa : (s.mapPeers f).rxa = s.rxa := rfl
@[simp] theorem State.mapPeers_ptu : (s.mapPeers f).ptu = s.ptu := rfl
@[simp] theorem State.mapPeers_mgu : (s.mapPeers f).mgu = s.mgu := rfl
@[simp] theorem State.mapPeers_suc : (s.mapPeers f).suc = s.suc := rfl
@[simp] theorem State.mapPeers_pending : (s.mapPeers f).pending = s.pending := rfl

end mapPeers

section mapLae

variable (f : Lae → Lae) (s : State)

@[simp] theorem State.mapLae_now : (s.mapLae f).now = s.now := rfl
@[simp] theorem State.mapLae_nrstLow : (s.mapLae f).nrstLow = s.nrstLow := rfl
@[simp] theorem State.mapLae_lcu : (s.mapLae f).lcu = s.lcu := rfl
@[simp] theorem State.mapLae_lmd : (s.mapLae f).lmd = s.lmd := rfl
@[simp] theorem State.mapLae_clc : (s.mapLae f).clc = s.clc := rfl
@[simp] theorem State.mapLae_peers : (s.mapLae f).peers = s.peers := rfl
@[simp] theorem State.mapLae_lae : (s.mapLae f).lae = f s.lae := rfl
@[simp] theorem State.mapLae_tsc : (s.mapLae f).tsc = s.tsc := rfl
@[simp] theorem State.mapLae_bpm : (s.mapLae f).bpm = s.bpm := rfl
@[simp] theorem State.mapLae_rxa : (s.mapLae f).rxa = s.rxa := rfl
@[simp] theorem State.mapLae_ptu : (s.mapLae f).ptu = s.ptu := rfl
@[simp] theorem State.mapLae_mgu : (s.mapLae f).mgu = s.mgu := rfl
@[simp] theorem State.mapLae_suc : (s.mapLae f).suc = s.suc := rfl
@[simp] theorem State.mapLae_pending : (s.mapLae f).pending = s.pending := rfl

end mapLae

section mapTsc

variable (f : Tsc → Tsc) (s : State)

@[simp] theorem State.mapTsc_now : (s.mapTsc f).now = s.now := rfl
@[simp] theorem State.mapTsc_nrstLow : (s.mapTsc f).nrstLow = s.nrstLow := rfl
@[simp] theorem State.mapTsc_lcu : (s.mapTsc f).lcu = s.lcu := rfl
@[simp] theorem State.mapTsc_lmd : (s.mapTsc f).lmd = s.lmd := rfl
@[simp] theorem State.mapTsc_clc : (s.mapTsc f).clc = s.clc := rfl
@[simp] theorem State.mapTsc_peers : (s.mapTsc f).peers = s.peers := rfl
@[simp] theorem State.mapTsc_lae : (s.mapTsc f).lae = s.lae := rfl
@[simp] theorem State.mapTsc_tsc : (s.mapTsc f).tsc = f s.tsc := rfl
@[simp] theorem State.mapTsc_bpm : (s.mapTsc f).bpm = s.bpm := rfl
@[simp] theorem State.mapTsc_rxa : (s.mapTsc f).rxa = s.rxa := rfl
@[simp] theorem State.mapTsc_ptu : (s.mapTsc f).ptu = s.ptu := rfl
@[simp] theorem State.mapTsc_mgu : (s.mapTsc f).mgu = s.mgu := rfl
@[simp] theorem State.mapTsc_suc : (s.mapTsc f).suc = s.suc := rfl
@[simp] theorem State.mapTsc_pending : (s.mapTsc f).pending = s.pending := rfl

end mapTsc

section mapBpm

variable (f : Bpm → Bpm) (s : State)

@[simp] theorem State.mapBpm_now : (s.mapBpm f).now = s.now := rfl
@[simp] theorem State.mapBpm_nrstLow : (s.mapBpm f).nrstLow = s.nrstLow := rfl
@[simp] theorem State.mapBpm_lcu : (s.mapBpm f).lcu = s.lcu := rfl
@[simp] theorem State.mapBpm_lmd : (s.mapBpm f).lmd = s.lmd := rfl
@[simp] theorem State.mapBpm_clc : (s.mapBpm f).clc = s.clc := rfl
@[simp] theorem State.mapBpm_peers : (s.mapBpm f).peers = s.peers := rfl
@[simp] theorem State.mapBpm_lae : (s.mapBpm f).lae = s.lae := rfl
@[simp] theorem State.mapBpm_tsc : (s.mapBpm f).tsc = s.tsc := rfl
@[simp] theorem State.mapBpm_bpm : (s.mapBpm f).bpm = f s.bpm := rfl
@[simp] theorem State.mapBpm_rxa : (s.mapBpm f).rxa = s.rxa := rfl
@[simp] theorem State.mapBpm_ptu : (s.mapBpm f).ptu = s.ptu := rfl
@[simp] theorem State.mapBpm_mgu : (s.mapBpm f).mgu = s.mgu := rfl
@[simp] theorem State.mapBpm_suc : (s.mapBpm f).suc = s.suc := rfl
@[simp] theorem State.mapBpm_pending : (s.mapBpm f).pending = s.pending := rfl

end mapBpm

section mapRxa

variable (f : Rxa → Rxa) (s : State)

@[simp] theorem State.mapRxa_now : (s.mapRxa f).now = s.now := rfl
@[simp] theorem State.mapRxa_nrstLow : (s.mapRxa f).nrstLow = s.nrstLow := rfl
@[simp] theorem State.mapRxa_lcu : (s.mapRxa f).lcu = s.lcu := rfl
@[simp] theorem State.mapRxa_lmd : (s.mapRxa f).lmd = s.lmd := rfl
@[simp] theorem State.mapRxa_clc : (s.mapRxa f).clc = s.clc := rfl
@[simp] theorem State.mapRxa_peers : (s.mapRxa f).peers = s.peers := rfl
@[simp] theorem State.mapRxa_lae : (s.mapRxa f).lae = s.lae := rfl
@[simp] theorem State.mapRxa_tsc : (s.mapRxa f).tsc = s.tsc := rfl
@[simp] theorem State.mapRxa_bpm : (s.mapRxa f).bpm = s.bpm := rfl
@[simp] theorem State.mapRxa_rxa : (s.mapRxa f).rxa = f s.rxa := rfl
@[simp] theorem State.mapRxa_ptu : (s.mapRxa f).ptu = s.ptu := rfl
@[simp] theorem State.mapRxa_mgu : (s.mapRxa f).mgu = s.mgu := rfl
@[simp] theorem State.mapRxa_suc : (s.mapRxa f).suc = s.suc := rfl
@[simp] theorem State.mapRxa_pending : (s.mapRxa f).pending = s.pending := rfl

end mapRxa

section mapPtu

variable (f : Ptu → Ptu) (s : State)

@[simp] theorem State.mapPtu_now : (s.mapPtu f).now = s.now := rfl
@[simp] theorem State.mapPtu_nrstLow : (s.mapPtu f).nrstLow = s.nrstLow := rfl
@[simp] theorem State.mapPtu_lcu : (s.mapPtu f).lcu = s.lcu := rfl
@[simp] theorem State.mapPtu_lmd : (s.mapPtu f).lmd = s.lmd := rfl
@[simp] theorem State.mapPtu_clc : (s.mapPtu f).clc = s.clc := rfl
@[simp] theorem State.mapPtu_peers : (s.mapPtu f).peers = s.peers := rfl
@[simp] theorem State.mapPtu_lae : (s.mapPtu f).lae = s.lae := rfl
@[simp] theorem State.mapPtu_tsc : (s.mapPtu f).tsc = s.tsc := rfl
@[simp] theorem State.mapPtu_bpm : (s.mapPtu f).bpm = s.bpm := rfl
@[simp] theorem State.mapPtu_rxa : (s.mapPtu f).rxa = s.rxa := rfl
@[simp] theorem State.mapPtu_ptu : (s.mapPtu f).ptu = f s.ptu := rfl
@[simp] theorem State.mapPtu_mgu : (s.mapPtu f).mgu = s.mgu := rfl
@[simp] theorem State.mapPtu_suc : (s.mapPtu f).suc = s.suc := rfl
@[simp] theorem State.mapPtu_pending : (s.mapPtu f).pending = s.pending := rfl

end mapPtu

section withReceiving

variable (u : Bool) (p : Ptu)

@[simp] theorem Ptu.withReceiving_ingress : (p.withReceiving u).ingress = p.ingress := rfl
@[simp] theorem Ptu.withReceiving_priority : (p.withReceiving u).priority = p.priority := rfl
@[simp] theorem Ptu.withReceiving_defaultLevel : (p.withReceiving u).defaultLevel = p.defaultLevel := rfl
@[simp] theorem Ptu.withReceiving_fwd : (p.withReceiving u).fwd = p.fwd := rfl
@[simp] theorem Ptu.withReceiving_fifo : (p.withReceiving u).fifo = p.fifo := rfl
@[simp] theorem Ptu.withReceiving_slot : (p.withReceiving u).slot = p.slot := rfl
@[simp] theorem Ptu.withReceiving_egress : (p.withReceiving u).egress = p.egress := rfl
@[simp] theorem Ptu.withReceiving_pauseEnd : (p.withReceiving u).pauseEnd = p.pauseEnd := rfl
@[simp] theorem Ptu.withReceiving_txError : (p.withReceiving u).txError = p.txError := rfl
@[simp] theorem Ptu.withReceiving_receiving : (p.withReceiving u).receiving = u := rfl

end withReceiving

section mapMgu

variable (f : Mgu → Mgu) (s : State)

@[simp] theorem State.mapMgu_now : (s.mapMgu f).now = s.now := rfl
@[simp] theorem State.mapMgu_nrstLow : (s.mapMgu f).nrstLow = s.nrstLow := rfl
@[simp] theorem State.mapMgu_lcu : (s.mapMgu f).lcu = s.lcu := rfl
@[simp] theorem State.mapMgu_lmd : (s.mapMgu f).lmd = s.lmd := rfl
@[simp] theorem State.mapMgu_clc : (s.mapMgu f).clc = s.clc := rfl
@[simp] theorem State.mapMgu_peers : (s.mapMgu f).peers = s.peers := rfl
@[simp] theorem State.mapMgu_lae : (s.mapMgu f).lae = s.lae := rfl
@[simp] theorem State.mapMgu_tsc : (s.mapMgu f).tsc = s.tsc := rfl
@[simp] theorem State.mapMgu_bpm : (s.mapMgu f).bpm = s.bpm := rfl
@[simp] theorem State.mapMgu_rxa : (s.mapMgu f).rxa = s.rxa := rfl
@[simp] theorem State.mapMgu_ptu : (s.mapMgu f).ptu = s.ptu := rfl
@[simp] theorem State.mapMgu_mgu : (s.mapMgu f).mgu = f s.mgu := rfl
@[simp] theorem State.mapMgu_suc : (s.mapMgu f).suc = s.suc := rfl
@[simp] theorem State.mapMgu_pending : (s.mapMgu f).pending = s.pending := rfl

end mapMgu

section mapSuc

variable (f : Suc → Suc) (s : State)

@[simp] theorem State.mapSuc_now : (s.mapSuc f).now = s.now := rfl
@[simp] theorem State.mapSuc_nrstLow : (s.mapSuc f).nrstLow = s.nrstLow := rfl
@[simp] theorem State.mapSuc_lcu : (s.mapSuc f).lcu = s.lcu := rfl
@[simp] theorem State.mapSuc_lmd : (s.mapSuc f).lmd = s.lmd := rfl
@[simp] theorem State.mapSuc_clc : (s.mapSuc f).clc = s.clc := rfl
@[simp] theorem State.mapSuc_peers : (s.mapSuc f).peers = s.peers := rfl
@[simp] theorem State.mapSuc_lae : (s.mapSuc f).lae = s.lae := rfl
@[simp] theorem State.mapSuc_tsc : (s.mapSuc f).tsc = s.tsc := rfl
@[simp] theorem State.mapSuc_bpm : (s.mapSuc f).bpm = s.bpm := rfl
@[simp] theorem State.mapSuc_rxa : (s.mapSuc f).rxa = s.rxa := rfl
@[simp] theorem State.mapSuc_ptu : (s.mapSuc f).ptu = s.ptu := rfl
@[simp] theorem State.mapSuc_mgu : (s.mapSuc f).mgu = s.mgu := rfl
@[simp] theorem State.mapSuc_suc : (s.mapSuc f).suc = f s.suc := rfl
@[simp] theorem State.mapSuc_pending : (s.mapSuc f).pending = s.pending := rfl

end mapSuc

section withQueue

variable (q : List Instr) (s : State)

@[simp] theorem State.withQueue_now : (s.withQueue q).now = s.now := rfl
@[simp] theorem State.withQueue_nrstLow : (s.withQueue q).nrstLow = s.nrstLow := rfl
@[simp] theorem State.withQueue_lcu : (s.withQueue q).lcu = s.lcu := rfl
@[simp] theorem State.withQueue_lmd : (s.withQueue q).lmd = s.lmd := rfl
@[simp] theorem State.withQueue_clc : (s.withQueue q).clc = s.clc := rfl
@[simp] theorem State.withQueue_peers : (s.withQueue q).peers = s.peers := rfl
@[simp] theorem State.withQueue_lae : (s.withQueue q).lae = s.lae := rfl
@[simp] theorem State.withQueue_tsc : (s.withQueue q).tsc = s.tsc := rfl
@[simp] theorem State.withQueue_bpm : (s.withQueue q).bpm = s.bpm := rfl
@[simp] theorem State.withQueue_rxa : (s.withQueue q).rxa = s.rxa := rfl
@[simp] theorem State.withQueue_ptu : (s.withQueue q).ptu = s.ptu := rfl
@[simp] theorem State.withQueue_mgu : (s.withQueue q).mgu = s.mgu := rfl
@[simp] theorem State.withQueue_suc : (s.withQueue q).suc = s.suc := rfl
@[simp] theorem State.withQueue_pending : (s.withQueue q).pending = q := rfl

end withQueue

section mapPeer

variable (i : Nat) (f : Peer → Peer) (s : State)

@[simp] theorem State.mapPeer_now : (s.mapPeer i f).now = s.now := by
  unfold State.mapPeer; split <;> rfl
@[simp] theorem State.mapPeer_nrstLow : (s.mapPeer i f).nrstLow = s.nrstLow := by
  unfold State.mapPeer; split <;> rfl
@[simp] theorem State.mapPeer_lcu : (s.mapPeer i f).lcu = s.lcu := by
  unfold State.mapPeer; split <;> rfl
@[simp] theorem State.mapPeer_lmd : (s.mapPeer i f).lmd = s.lmd := by
  unfold State.mapPeer; split <;> rfl
@[simp] theorem State.mapPeer_clc : (s.mapPeer i f).clc = s.clc := by
  unfold State.mapPeer; split <;> rfl
@[simp] theorem State.mapPeer_lae : (s.mapPeer i f).lae = s.lae := by
  unfold State.mapPeer; split <;> rfl
@[simp] theorem State.mapPeer_tsc : (s.mapPeer i f).tsc = s.tsc := by
  unfold State.mapPeer; split <;> rfl
@[simp] theorem State.mapPeer_bpm : (s.mapPeer i f).bpm = s.bpm := by
  unfold State.mapPeer; split <;> rfl
@[simp] theorem State.mapPeer_rxa : (s.mapPeer i f).rxa = s.rxa := by
  unfold State.mapPeer; split <;> rfl
@[simp] theorem State.mapPeer_ptu : (s.mapPeer i f).ptu = s.ptu := by
  unfold State.mapPeer; split <;> rfl
@[simp] theorem State.mapPeer_mgu : (s.mapPeer i f).mgu = s.mgu := by
  unfold State.mapPeer; split <;> rfl
@[simp] theorem State.mapPeer_suc : (s.mapPeer i f).suc = s.suc := by
  unfold State.mapPeer; split <;> rfl
@[simp] theorem State.mapPeer_pending : (s.mapPeer i f).pending = s.pending := by
  unfold State.mapPeer; split <;> rfl

end mapPeer

end Sys2Proof.Machine
end

