-- ==== Sys2Proof/Laws/Frames.lean ====
section
/-! SUPPORT. What each operation leaves as it stands, one lemma for each operation. -/

namespace Sys2Proof.Machine

/-- A fold of an operation that leaves a part of the state as it stands leaves it. -/
theorem foldl_keeps {α β : Type} (part : State → β) (f : State → α → State)
    (h : ∀ s a, part (f s a) = part s) (l : List α) (s : State) : part (l.foldl f s) = part s := by
  induction l generalizing s with
  | nil => rfl
  | cons a l ih => simp [ih, h]

@[simp] theorem raise_keeps (e : Event) (s : State) :
    (raise e s).now = s.now ∧ (raise e s).nrstLow = s.nrstLow ∧ (raise e s).lcu = s.lcu ∧
    (raise e s).lmd = s.lmd ∧ (raise e s).clc = s.clc ∧ (raise e s).peers = s.peers ∧
    (raise e s).lae = s.lae ∧ (raise e s).tsc = s.tsc ∧ (raise e s).bpm = s.bpm ∧
    (raise e s).rxa = s.rxa ∧ (raise e s).ptu = s.ptu ∧ (raise e s).suc = s.suc ∧
    (raise e s).pending = s.pending := by
  unfold raise
  simp

@[simp] theorem count_keeps (f : Counters → Counters) (s : State) :
    (count f s).now = s.now ∧ (count f s).nrstLow = s.nrstLow ∧ (count f s).lcu = s.lcu ∧
    (count f s).lmd = s.lmd ∧ (count f s).clc = s.clc ∧ (count f s).peers = s.peers ∧
    (count f s).lae = s.lae ∧ (count f s).tsc = s.tsc ∧ (count f s).bpm = s.bpm ∧
    (count f s).rxa = s.rxa ∧ (count f s).ptu = s.ptu ∧ (count f s).suc = s.suc ∧
    (count f s).pending = s.pending := by
  unfold count
  simp

@[simp] theorem countLevel_keeps (l : Nat) (f : LevelCounters → LevelCounters) (s : State) :
    (countLevel l f s).now = s.now ∧ (countLevel l f s).nrstLow = s.nrstLow ∧
    (countLevel l f s).lcu = s.lcu ∧ (countLevel l f s).lmd = s.lmd ∧
    (countLevel l f s).clc = s.clc ∧ (countLevel l f s).peers = s.peers ∧
    (countLevel l f s).lae = s.lae ∧ (countLevel l f s).tsc = s.tsc ∧
    (countLevel l f s).bpm = s.bpm ∧ (countLevel l f s).rxa = s.rxa ∧
    (countLevel l f s).ptu = s.ptu ∧ (countLevel l f s).suc = s.suc ∧
    (countLevel l f s).pending = s.pending := by
  unfold countLevel
  simp

@[simp] theorem countPeer_keeps (i : Nat) (f : PeerCounters → PeerCounters) (s : State) :
    (countPeer i f s).now = s.now ∧ (countPeer i f s).nrstLow = s.nrstLow ∧
    (countPeer i f s).lcu = s.lcu ∧ (countPeer i f s).lmd = s.lmd ∧
    (countPeer i f s).clc = s.clc ∧ (countPeer i f s).lae = s.lae ∧
    (countPeer i f s).tsc = s.tsc ∧ (countPeer i f s).bpm = s.bpm ∧
    (countPeer i f s).rxa = s.rxa ∧ (countPeer i f s).ptu = s.ptu ∧
    (countPeer i f s).mgu = s.mgu ∧ (countPeer i f s).suc = s.suc ∧
    (countPeer i f s).pending = s.pending := by
  unfold countPeer
  simp

@[simp] theorem spurious_keeps (s : State) :
    (spurious s).now = s.now ∧ (spurious s).nrstLow = s.nrstLow ∧ (spurious s).lcu = s.lcu ∧
    (spurious s).lmd = s.lmd ∧ (spurious s).clc = s.clc ∧ (spurious s).peers = s.peers ∧
    (spurious s).lae = s.lae ∧ (spurious s).tsc = s.tsc ∧ (spurious s).bpm = s.bpm ∧
    (spurious s).rxa = s.rxa ∧ (spurious s).ptu = s.ptu ∧ (spurious s).suc = s.suc ∧
    (spurious s).pending = s.pending := by
  unfold spurious
  simp

@[simp] theorem crossing_keeps (t : Time) (s : State) :
    (crossing t s).now = s.now ∧ (crossing t s).nrstLow = s.nrstLow ∧
    (crossing t s).lmd = s.lmd ∧ (crossing t s).clc = s.clc ∧ (crossing t s).peers = s.peers ∧
    (crossing t s).lae = s.lae ∧ (crossing t s).tsc = s.tsc ∧ (crossing t s).bpm = s.bpm ∧
    (crossing t s).rxa = s.rxa ∧ (crossing t s).ptu = s.ptu ∧ (crossing t s).suc = s.suc ∧
    (crossing t s).pending = s.pending := by
  unfold crossing crossingAcquiring crossingLocked crossingHoldover
  dsimp only
  repeat' split
  all_goals simp

@[simp] theorem takeSample_keeps (l : ZcLevel) (s : State) :
    (takeSample l s).now = s.now ∧ (takeSample l s).nrstLow = s.nrstLow ∧
    (takeSample l s).lmd = s.lmd ∧ (takeSample l s).clc = s.clc ∧
    (takeSample l s).peers = s.peers ∧ (takeSample l s).lae = s.lae ∧
    (takeSample l s).tsc = s.tsc ∧ (takeSample l s).bpm = s.bpm ∧ (takeSample l s).rxa = s.rxa ∧
    (takeSample l s).ptu = s.ptu ∧ (takeSample l s).suc = s.suc ∧
    (takeSample l s).pending = s.pending := by
  unfold takeSample
  dsimp only
  repeat' split
  all_goals simp

@[simp] theorem acquiringTimeout_keeps (s : State) :
    (acquiringTimeout s).now = s.now ∧ (acquiringTimeout s).nrstLow = s.nrstLow ∧
    (acquiringTimeout s).lmd = s.lmd ∧ (acquiringTimeout s).clc = s.clc ∧
    (acquiringTimeout s).peers = s.peers ∧ (acquiringTimeout s).lae = s.lae ∧
    (acquiringTimeout s).tsc = s.tsc ∧ (acquiringTimeout s).bpm = s.bpm ∧
    (acquiringTimeout s).rxa = s.rxa ∧ (acquiringTimeout s).ptu = s.ptu ∧
    (acquiringTimeout s).mgu = s.mgu ∧ (acquiringTimeout s).suc = s.suc ∧
    (acquiringTimeout s).pending = s.pending := by
  unfold acquiringTimeout
  repeat' split
  all_goals simp

@[simp] theorem holdoverInstant_keeps (s : State) :
    (holdoverInstant s).now = s.now ∧ (holdoverInstant s).nrstLow = s.nrstLow ∧
    (holdoverInstant s).lmd = s.lmd ∧ (holdoverInstant s).clc = s.clc ∧
    (holdoverInstant s).peers = s.peers ∧ (holdoverInstant s).lae = s.lae ∧
    (holdoverInstant s).tsc = s.tsc ∧ (holdoverInstant s).bpm = s.bpm ∧
    (holdoverInstant s).rxa = s.rxa ∧ (holdoverInstant s).ptu = s.ptu ∧
    (holdoverInstant s).suc = s.suc ∧ (holdoverInstant s).pending = s.pending := by
  unfold holdoverInstant
  repeat' split
  all_goals simp

@[simp] theorem lossInstant_keeps (s : State) :
    (lossInstant s).now = s.now ∧ (lossInstant s).nrstLow = s.nrstLow ∧
    (lossInstant s).lmd = s.lmd ∧ (lossInstant s).clc = s.clc ∧
    (lossInstant s).peers = s.peers ∧ (lossInstant s).lae = s.lae ∧
    (lossInstant s).tsc = s.tsc ∧ (lossInstant s).bpm = s.bpm ∧ (lossInstant s).rxa = s.rxa ∧
    (lossInstant s).ptu = s.ptu ∧ (lossInstant s).suc = s.suc ∧
    (lossInstant s).pending = s.pending := by
  unfold lossInstant
  repeat' split
  all_goals simp

@[simp] theorem freeFrame_keeps (f : Frame) (s : State) :
    (freeFrame s f).now = s.now ∧ (freeFrame s f).nrstLow = s.nrstLow ∧
    (freeFrame s f).lcu = s.lcu ∧ (freeFrame s f).lmd = s.lmd ∧ (freeFrame s f).clc = s.clc ∧
    (freeFrame s f).peers = s.peers ∧ (freeFrame s f).lae = s.lae ∧
    (freeFrame s f).tsc = s.tsc ∧ (freeFrame s f).rxa = s.rxa ∧ (freeFrame s f).ptu = s.ptu ∧
    (freeFrame s f).mgu = s.mgu ∧ (freeFrame s f).suc = s.suc ∧
    (freeFrame s f).pending = s.pending := by
  unfold freeFrame
  simp

@[simp] theorem freeFrame_foldl_keeps (l : List Frame) (s : State) :
    (l.foldl freeFrame s).now = s.now ∧ (l.foldl freeFrame s).nrstLow = s.nrstLow ∧
    (l.foldl freeFrame s).lcu = s.lcu ∧ (l.foldl freeFrame s).lmd = s.lmd ∧
    (l.foldl freeFrame s).clc = s.clc ∧ (l.foldl freeFrame s).peers = s.peers ∧
    (l.foldl freeFrame s).lae = s.lae ∧ (l.foldl freeFrame s).tsc = s.tsc ∧
    (l.foldl freeFrame s).rxa = s.rxa ∧ (l.foldl freeFrame s).ptu = s.ptu ∧
    (l.foldl freeFrame s).mgu = s.mgu ∧ (l.foldl freeFrame s).suc = s.suc ∧
    (l.foldl freeFrame s).pending = s.pending := by
  refine ⟨?_, ?_, ?_, ?_, ?_, ?_, ?_, ?_, ?_, ?_, ?_, ?_, ?_⟩ <;>
    exact foldl_keeps _ _ (fun s f => by simp) l s

@[simp] theorem advanceTags_keeps (d : Dest) (l n : Nat) (s : State) :
    (advanceTags d l n s).now = s.now ∧ (advanceTags d l n s).nrstLow = s.nrstLow ∧
    (advanceTags d l n s).lcu = s.lcu ∧ (advanceTags d l n s).lmd = s.lmd ∧
    (advanceTags d l n s).clc = s.clc ∧ (advanceTags d l n s).lae = s.lae ∧
    (advanceTags d l n s).bpm = s.bpm ∧ (advanceTags d l n s).rxa = s.rxa ∧
    (advanceTags d l n s).ptu = s.ptu ∧ (advanceTags d l n s).mgu = s.mgu ∧
    (advanceTags d l n s).suc = s.suc ∧ (advanceTags d l n s).pending = s.pending := by
  unfold advanceTags
  split <;> simp

@[simp] theorem formTrain_keeps (l : Nat) (s : State) :
    (formTrain l s).now = s.now ∧ (formTrain l s).nrstLow = s.nrstLow ∧
    (formTrain l s).lcu = s.lcu ∧ (formTrain l s).lmd = s.lmd ∧ (formTrain l s).clc = s.clc ∧
    (formTrain l s).lae = s.lae ∧ (formTrain l s).bpm = s.bpm ∧ (formTrain l s).rxa = s.rxa ∧
    (formTrain l s).ptu = s.ptu ∧ (formTrain l s).mgu = s.mgu ∧ (formTrain l s).suc = s.suc ∧
    (formTrain l s).pending = s.pending := by
  unfold formTrain
  split <;> simp

@[simp] theorem claimDecision_keeps (s : State) :
    (claimDecision s).1.now = s.now ∧ (claimDecision s).1.nrstLow = s.nrstLow ∧
    (claimDecision s).1.lcu = s.lcu ∧ (claimDecision s).1.lmd = s.lmd ∧
    (claimDecision s).1.clc = s.clc ∧ (claimDecision s).1.lae = s.lae ∧
    (claimDecision s).1.bpm = s.bpm ∧ (claimDecision s).1.rxa = s.rxa ∧
    (claimDecision s).1.ptu = s.ptu ∧ (claimDecision s).1.mgu = s.mgu ∧
    (claimDecision s).1.suc = s.suc ∧ (claimDecision s).1.pending = s.pending := by
  unfold claimDecision
  split <;> simp

@[simp] theorem enterListen_keeps (s : State) :
    (enterListen s).now = s.now ∧ (enterListen s).nrstLow = s.nrstLow ∧
    (enterListen s).lcu = s.lcu ∧ (enterListen s).clc = s.clc ∧
    (enterListen s).peers = s.peers ∧ (enterListen s).lae = s.lae ∧
    (enterListen s).tsc = s.tsc ∧ (enterListen s).bpm = s.bpm ∧ (enterListen s).rxa = s.rxa ∧
    (enterListen s).ptu = s.ptu ∧ (enterListen s).mgu = s.mgu ∧ (enterListen s).suc = s.suc ∧
    (enterListen s).pending = s.pending := by
  unfold enterListen
  simp

@[simp] theorem resumeListen_keeps (s : State) :
    (resumeListen s).now = s.now ∧ (resumeListen s).nrstLow = s.nrstLow ∧
    (resumeListen s).lcu = s.lcu ∧ (resumeListen s).clc = s.clc ∧
    (resumeListen s).peers = s.peers ∧ (resumeListen s).lae = s.lae ∧
    (resumeListen s).tsc = s.tsc ∧ (resumeListen s).bpm = s.bpm ∧ (resumeListen s).rxa = s.rxa ∧
    (resumeListen s).ptu = s.ptu ∧ (resumeListen s).mgu = s.mgu ∧ (resumeListen s).suc = s.suc ∧
    (resumeListen s).pending = s.pending := by
  unfold resumeListen
  simp

@[simp] theorem dropBurstInHand_keeps (s : State) :
    (dropBurstInHand s).now = s.now ∧ (dropBurstInHand s).nrstLow = s.nrstLow ∧
    (dropBurstInHand s).lcu = s.lcu ∧ (dropBurstInHand s).clc = s.clc ∧
    (dropBurstInHand s).peers = s.peers ∧ (dropBurstInHand s).lae = s.lae ∧
    (dropBurstInHand s).tsc = s.tsc ∧ (dropBurstInHand s).bpm = s.bpm ∧
    (dropBurstInHand s).ptu = s.ptu ∧ (dropBurstInHand s).mgu = s.mgu ∧
    (dropBurstInHand s).suc = s.suc ∧ (dropBurstInHand s).pending = s.pending := by
  unfold dropBurstInHand
  split <;> simp

@[simp] theorem sendClaimSignal_keeps (t : Time) (s : State) :
    (sendClaimSignal t s).now = s.now ∧ (sendClaimSignal t s).nrstLow = s.nrstLow ∧
    (sendClaimSignal t s).lcu = s.lcu ∧ (sendClaimSignal t s).clc = s.clc ∧
    (sendClaimSignal t s).peers = s.peers ∧ (sendClaimSignal t s).lae = s.lae ∧
    (sendClaimSignal t s).tsc = s.tsc ∧ (sendClaimSignal t s).bpm = s.bpm ∧
    (sendClaimSignal t s).ptu = s.ptu ∧ (sendClaimSignal t s).mgu = s.mgu ∧
    (sendClaimSignal t s).suc = s.suc ∧ (sendClaimSignal t s).pending = s.pending := by
  unfold sendClaimSignal
  simp

@[simp] theorem silence_keeps (s : State) :
    (silence s).now = s.now ∧ (silence s).nrstLow = s.nrstLow ∧ (silence s).lcu = s.lcu ∧
    (silence s).clc = s.clc ∧ (silence s).peers = s.peers ∧ (silence s).lae = s.lae ∧
    (silence s).tsc = s.tsc ∧ (silence s).bpm = s.bpm ∧ (silence s).rxa = s.rxa ∧
    (silence s).ptu = s.ptu ∧ (silence s).mgu = s.mgu ∧ (silence s).suc = s.suc ∧
    (silence s).pending = s.pending := by
  unfold silence
  simp

@[simp] theorem startMark_keeps (t : Time) (l : Nat) (s : State) :
    (startMark t l s).now = s.now ∧ (startMark t l s).nrstLow = s.nrstLow ∧
    (startMark t l s).lcu = s.lcu ∧ (startMark t l s).peers = s.peers ∧
    (startMark t l s).lae = s.lae ∧ (startMark t l s).tsc = s.tsc ∧
    (startMark t l s).bpm = s.bpm ∧ (startMark t l s).ptu = s.ptu ∧
    (startMark t l s).mgu = s.mgu ∧ (startMark t l s).suc = s.suc ∧
    (startMark t l s).pending = s.pending := by
  unfold startMark
  simp

@[simp] theorem openClaim_keeps (t : Time) (s : State) :
    (openClaim t s).now = s.now ∧ (openClaim t s).nrstLow = s.nrstLow ∧
    (openClaim t s).lcu = s.lcu ∧ (openClaim t s).lae = s.lae ∧ (openClaim t s).bpm = s.bpm ∧
    (openClaim t s).ptu = s.ptu ∧ (openClaim t s).mgu = s.mgu ∧ (openClaim t s).suc = s.suc ∧
    (openClaim t s).pending = s.pending := by
  unfold openClaim
  have h := claimDecision_keeps s
  revert h
  rcases claimDecision s with ⟨s', _ | l⟩ <;> intro h <;> simp_all

@[simp] theorem recompute_keeps (s : State) :
    (recompute s).now = s.now ∧ (recompute s).nrstLow = s.nrstLow ∧ (recompute s).lcu = s.lcu ∧
    (recompute s).lae = s.lae ∧ (recompute s).bpm = s.bpm ∧ (recompute s).ptu = s.ptu ∧
    (recompute s).mgu = s.mgu ∧ (recompute s).suc = s.suc ∧ (recompute s).pending = s.pending := by
  unfold recompute
  dsimp only
  repeat' split
  all_goals simp

@[simp] theorem lapse_keeps (s : State) :
    (lapse s).now = s.now ∧ (lapse s).nrstLow = s.nrstLow ∧ (lapse s).lcu = s.lcu ∧
    (lapse s).lmd = s.lmd ∧ (lapse s).peers = s.peers ∧ (lapse s).lae = s.lae ∧
    (lapse s).tsc = s.tsc ∧ (lapse s).bpm = s.bpm ∧ (lapse s).rxa = s.rxa ∧
    (lapse s).ptu = s.ptu ∧ (lapse s).mgu = s.mgu ∧ (lapse s).suc = s.suc ∧
    (lapse s).pending = s.pending := by
  unfold lapse
  repeat' split
  all_goals simp

@[simp] theorem energyReport_keeps (a b : Bool) (s : State) :
    (energyReport a b s).now = s.now ∧ (energyReport a b s).nrstLow = s.nrstLow ∧
    (energyReport a b s).lcu = s.lcu ∧ (energyReport a b s).peers = s.peers ∧
    (energyReport a b s).lae = s.lae ∧ (energyReport a b s).tsc = s.tsc ∧
    (energyReport a b s).bpm = s.bpm ∧ (energyReport a b s).rxa = s.rxa ∧
    (energyReport a b s).ptu = s.ptu ∧ (energyReport a b s).mgu = s.mgu ∧
    (energyReport a b s).suc = s.suc ∧ (energyReport a b s).pending = s.pending := by
  unfold energyReport
  dsimp only
  repeat' split
  all_goals simp

@[simp] theorem losePeriod_keeps (s : State) :
    (losePeriod s).now = s.now ∧ (losePeriod s).nrstLow = s.nrstLow ∧
    (losePeriod s).lcu = s.lcu ∧ (losePeriod s).peers = s.peers ∧
    (losePeriod s).lae = s.lae ∧ (losePeriod s).tsc = s.tsc ∧ (losePeriod s).bpm = s.bpm ∧
    (losePeriod s).rxa = s.rxa ∧ (losePeriod s).ptu = s.ptu ∧ (losePeriod s).suc = s.suc ∧
    (losePeriod s).pending = s.pending := by
  unfold losePeriod
  simp

@[simp] theorem settleLoss_keeps (s : State) :
    (settleLoss s).now = s.now ∧ (settleLoss s).nrstLow = s.nrstLow ∧
    (settleLoss s).lcu = s.lcu ∧ (settleLoss s).peers = s.peers ∧
    (settleLoss s).lae = s.lae ∧ (settleLoss s).tsc = s.tsc ∧ (settleLoss s).bpm = s.bpm ∧
    (settleLoss s).rxa = s.rxa ∧ (settleLoss s).ptu = s.ptu ∧ (settleLoss s).suc = s.suc ∧
    (settleLoss s).pending = s.pending := by
  unfold settleLoss
  split <;> simp

@[simp] theorem declaredToClc_keeps (t : Time) (s : State) :
    (declaredToClc t s).now = s.now ∧ (declaredToClc t s).nrstLow = s.nrstLow ∧
    (declaredToClc t s).lcu = s.lcu ∧ (declaredToClc t s).peers = s.peers ∧
    (declaredToClc t s).lae = s.lae ∧ (declaredToClc t s).tsc = s.tsc ∧
    (declaredToClc t s).bpm = s.bpm ∧ (declaredToClc t s).rxa = s.rxa ∧
    (declaredToClc t s).ptu = s.ptu ∧ (declaredToClc t s).suc = s.suc ∧
    (declaredToClc t s).pending = s.pending := by
  unfold declaredToClc
  repeat' split
  all_goals simp

@[simp] theorem undecodedToClc_keeps (s : State) :
    (undecodedToClc s).now = s.now ∧ (undecodedToClc s).nrstLow = s.nrstLow ∧
    (undecodedToClc s).lcu = s.lcu ∧ (undecodedToClc s).peers = s.peers ∧
    (undecodedToClc s).lae = s.lae ∧ (undecodedToClc s).tsc = s.tsc ∧
    (undecodedToClc s).bpm = s.bpm ∧ (undecodedToClc s).rxa = s.rxa ∧
    (undecodedToClc s).ptu = s.ptu ∧ (undecodedToClc s).suc = s.suc ∧
    (undecodedToClc s).pending = s.pending := by
  unfold undecodedToClc
  repeat' split
  all_goals simp

@[simp] theorem quietReport_keeps (s : State) :
    (quietReport s).now = s.now ∧ (quietReport s).nrstLow = s.nrstLow ∧
    (quietReport s).lcu = s.lcu ∧ (quietReport s).lae = s.lae ∧ (quietReport s).bpm = s.bpm ∧
    (quietReport s).ptu = s.ptu ∧ (quietReport s).mgu = s.mgu ∧ (quietReport s).suc = s.suc ∧
    (quietReport s).pending = s.pending := by
  unfold quietReport
  repeat' split
  all_goals simp

@[simp] theorem gapTailCheck_keeps (s : State) :
    (gapTailCheck s).now = s.now ∧ (gapTailCheck s).nrstLow = s.nrstLow ∧
    (gapTailCheck s).lcu = s.lcu ∧ (gapTailCheck s).lmd = s.lmd ∧
    (gapTailCheck s).peers = s.peers ∧ (gapTailCheck s).lae = s.lae ∧
    (gapTailCheck s).tsc = s.tsc ∧ (gapTailCheck s).bpm = s.bpm ∧ (gapTailCheck s).rxa = s.rxa ∧
    (gapTailCheck s).ptu = s.ptu ∧ (gapTailCheck s).mgu = s.mgu ∧ (gapTailCheck s).suc = s.suc ∧
    (gapTailCheck s).pending = s.pending := by
  unfold gapTailCheck
  repeat' split
  all_goals simp

@[simp] theorem openingInstant_keeps (s : State) :
    (openingInstant s).now = s.now ∧ (openingInstant s).nrstLow = s.nrstLow ∧
    (openingInstant s).lcu = s.lcu ∧ (openingInstant s).lae = s.lae ∧
    (openingInstant s).bpm = s.bpm ∧ (openingInstant s).ptu = s.ptu ∧
    (openingInstant s).mgu = s.mgu ∧ (openingInstant s).suc = s.suc ∧
    (openingInstant s).pending = s.pending := by
  unfold openingInstant
  have h := claimDecision_keeps s
  revert h
  rcases claimDecision s with ⟨s', _ | l⟩ <;> intro h <;> dsimp only <;> repeat' split
  all_goals simp_all

@[simp] theorem markSlotListenEnd_keeps (s : State) :
    (markSlotListenEnd s).now = s.now ∧ (markSlotListenEnd s).nrstLow = s.nrstLow ∧
    (markSlotListenEnd s).lcu = s.lcu ∧ (markSlotListenEnd s).lae = s.lae ∧
    (markSlotListenEnd s).bpm = s.bpm ∧ (markSlotListenEnd s).ptu = s.ptu ∧
    (markSlotListenEnd s).mgu = s.mgu ∧ (markSlotListenEnd s).suc = s.suc ∧
    (markSlotListenEnd s).pending = s.pending := by
  unfold markSlotListenEnd
  dsimp only
  repeat' split
  all_goals simp

@[simp] theorem claimBitSlot_keeps (s : State) :
    (claimBitSlot s).now = s.now ∧ (claimBitSlot s).nrstLow = s.nrstLow ∧
    (claimBitSlot s).lcu = s.lcu ∧ (claimBitSlot s).peers = s.peers ∧
    (claimBitSlot s).lae = s.lae ∧ (claimBitSlot s).tsc = s.tsc ∧ (claimBitSlot s).bpm = s.bpm ∧
    (claimBitSlot s).ptu = s.ptu ∧ (claimBitSlot s).mgu = s.mgu ∧ (claimBitSlot s).suc = s.suc ∧
    (claimBitSlot s).pending = s.pending := by
  unfold claimBitSlot
  dsimp only
  repeat' split
  all_goals simp

@[simp] theorem hiddenWinnerDeadline_keeps (s : State) :
    (hiddenWinnerDeadline s).now = s.now ∧ (hiddenWinnerDeadline s).nrstLow = s.nrstLow ∧
    (hiddenWinnerDeadline s).lcu = s.lcu ∧ (hiddenWinnerDeadline s).peers = s.peers ∧
    (hiddenWinnerDeadline s).lae = s.lae ∧ (hiddenWinnerDeadline s).tsc = s.tsc ∧
    (hiddenWinnerDeadline s).bpm = s.bpm ∧ (hiddenWinnerDeadline s).rxa = s.rxa ∧
    (hiddenWinnerDeadline s).ptu = s.ptu ∧ (hiddenWinnerDeadline s).suc = s.suc ∧
    (hiddenWinnerDeadline s).pending = s.pending := by
  unfold hiddenWinnerDeadline
  dsimp only
  repeat' split
  all_goals simp

@[simp] theorem occupancyEnd_keeps (s : State) :
    (occupancyEnd s).now = s.now ∧ (occupancyEnd s).nrstLow = s.nrstLow ∧
    (occupancyEnd s).lcu = s.lcu ∧ (occupancyEnd s).lmd = s.lmd ∧
    (occupancyEnd s).peers = s.peers ∧ (occupancyEnd s).lae = s.lae ∧
    (occupancyEnd s).tsc = s.tsc ∧ (occupancyEnd s).bpm = s.bpm ∧ (occupancyEnd s).rxa = s.rxa ∧
    (occupancyEnd s).ptu = s.ptu ∧ (occupancyEnd s).mgu = s.mgu ∧ (occupancyEnd s).suc = s.suc ∧
    (occupancyEnd s).pending = s.pending := by
  unfold occupancyEnd
  repeat' split
  all_goals simp

@[simp] theorem admitData_keeps (l : Nat) (d : Dest) (b : List Byte) (n : Nat) (x : Bool) (s : State) :
    (admitData l d b n x s).now = s.now ∧ (admitData l d b n x s).nrstLow = s.nrstLow ∧
    (admitData l d b n x s).lcu = s.lcu ∧ (admitData l d b n x s).lae = s.lae ∧
    (admitData l d b n x s).ptu = s.ptu ∧ (admitData l d b n x s).suc = s.suc ∧
    (admitData l d b n x s).pending = s.pending := by
  unfold admitData
  split <;> simp

@[simp] theorem admitNotice_keeps (i : Nat) (b : List Byte) (s : State) :
    (admitNotice i b s).now = s.now ∧ (admitNotice i b s).nrstLow = s.nrstLow ∧
    (admitNotice i b s).lcu = s.lcu ∧ (admitNotice i b s).lae = s.lae ∧
    (admitNotice i b s).ptu = s.ptu ∧ (admitNotice i b s).mgu = s.mgu ∧
    (admitNotice i b s).suc = s.suc ∧ (admitNotice i b s).pending = s.pending := by
  unfold admitNotice
  dsimp only
  repeat' split
  all_goals simp

@[simp] theorem countBurst_keeps (a : Train) (b : BurstOnLine) (s : State) :
    (countBurst a b s).now = s.now ∧ (countBurst a b s).nrstLow = s.nrstLow ∧
    (countBurst a b s).lcu = s.lcu ∧ (countBurst a b s).lmd = s.lmd ∧
    (countBurst a b s).clc = s.clc ∧ (countBurst a b s).lae = s.lae ∧
    (countBurst a b s).tsc = s.tsc ∧ (countBurst a b s).bpm = s.bpm ∧
    (countBurst a b s).rxa = s.rxa ∧ (countBurst a b s).ptu = s.ptu ∧
    (countBurst a b s).mgu = s.mgu ∧ (countBurst a b s).suc = s.suc ∧
    (countBurst a b s).pending = s.pending := by
  unfold countBurst
  split <;> simp

@[simp] theorem cutBurst_keeps (s : State) :
    (cutBurst s).now = s.now ∧ (cutBurst s).nrstLow = s.nrstLow ∧ (cutBurst s).lcu = s.lcu ∧
    (cutBurst s).lmd = s.lmd ∧ (cutBurst s).clc = s.clc ∧ (cutBurst s).lae = s.lae ∧
    (cutBurst s).bpm = s.bpm ∧ (cutBurst s).rxa = s.rxa ∧ (cutBurst s).ptu = s.ptu ∧
    (cutBurst s).mgu = s.mgu ∧ (cutBurst s).suc = s.suc ∧ (cutBurst s).pending = s.pending := by
  unfold cutBurst
  repeat' split
  all_goals simp

@[simp] theorem dropExpired_keeps (f : Frame) (s : State) :
    (dropExpired s f).now = s.now ∧ (dropExpired s f).nrstLow = s.nrstLow ∧
    (dropExpired s f).lcu = s.lcu ∧ (dropExpired s f).lmd = s.lmd ∧
    (dropExpired s f).clc = s.clc ∧ (dropExpired s f).peers = s.peers ∧
    (dropExpired s f).lae = s.lae ∧ (dropExpired s f).tsc = s.tsc ∧
    (dropExpired s f).rxa = s.rxa ∧ (dropExpired s f).ptu = s.ptu ∧
    (dropExpired s f).suc = s.suc ∧ (dropExpired s f).pending = s.pending := by
  unfold dropExpired
  simp

@[simp] theorem resolveFrame_keeps (b : BurstOnLine) (f : Frame) (s : State) :
    (resolveFrame b s f).now = s.now ∧ (resolveFrame b s f).nrstLow = s.nrstLow ∧
    (resolveFrame b s f).lcu = s.lcu ∧ (resolveFrame b s f).lmd = s.lmd ∧
    (resolveFrame b s f).clc = s.clc ∧ (resolveFrame b s f).peers = s.peers ∧
    (resolveFrame b s f).lae = s.lae ∧ (resolveFrame b s f).tsc = s.tsc ∧
    (resolveFrame b s f).rxa = s.rxa ∧ (resolveFrame b s f).ptu = s.ptu ∧
    (resolveFrame b s f).suc = s.suc ∧ (resolveFrame b s f).pending = s.pending := by
  unfold resolveFrame
  split <;> simp

@[simp] theorem resolveFrame_foldl_keeps (b : BurstOnLine) (l : List Frame) (s : State) :
    (l.foldl (resolveFrame b) s).now = s.now ∧
    (l.foldl (resolveFrame b) s).nrstLow = s.nrstLow ∧
    (l.foldl (resolveFrame b) s).lcu = s.lcu ∧ (l.foldl (resolveFrame b) s).lmd = s.lmd ∧
    (l.foldl (resolveFrame b) s).clc = s.clc ∧ (l.foldl (resolveFrame b) s).peers = s.peers ∧
    (l.foldl (resolveFrame b) s).lae = s.lae ∧ (l.foldl (resolveFrame b) s).tsc = s.tsc ∧
    (l.foldl (resolveFrame b) s).rxa = s.rxa ∧ (l.foldl (resolveFrame b) s).ptu = s.ptu ∧
    (l.foldl (resolveFrame b) s).suc = s.suc ∧
    (l.foldl (resolveFrame b) s).pending = s.pending := by
  refine ⟨?_, ?_, ?_, ?_, ?_, ?_, ?_, ?_, ?_, ?_, ?_, ?_⟩ <;>
    exact foldl_keeps _ _ (fun s f => by simp) l s

@[simp] theorem applyResult_keeps (b : BurstOnLine) (a : List Bool) (s : State) :
    (applyResult b a s).now = s.now ∧ (applyResult b a s).nrstLow = s.nrstLow ∧
    (applyResult b a s).lcu = s.lcu ∧ (applyResult b a s).lae = s.lae ∧
    (applyResult b a s).ptu = s.ptu ∧ (applyResult b a s).suc = s.suc ∧
    (applyResult b a s).pending = s.pending := by
  unfold applyResult
  split <;> simp

@[simp] theorem applyNoReceipt_keeps (i : Nat) (b : BurstOnLine) (s : State) :
    (applyNoReceipt i b s).now = s.now ∧ (applyNoReceipt i b s).nrstLow = s.nrstLow ∧
    (applyNoReceipt i b s).lcu = s.lcu ∧ (applyNoReceipt i b s).lae = s.lae ∧
    (applyNoReceipt i b s).ptu = s.ptu ∧ (applyNoReceipt i b s).suc = s.suc ∧
    (applyNoReceipt i b s).pending = s.pending := by
  unfold applyNoReceipt
  simp

@[simp] theorem applyReceived_keeps (i : Nat) (b : BurstOnLine) (a : List Bool) (s : State) :
    (applyReceived i b a s).now = s.now ∧ (applyReceived i b a s).nrstLow = s.nrstLow ∧
    (applyReceived i b a s).lcu = s.lcu ∧ (applyReceived i b a s).lae = s.lae ∧
    (applyReceived i b a s).ptu = s.ptu ∧ (applyReceived i b a s).suc = s.suc ∧
    (applyReceived i b a s).pending = s.pending := by
  unfold applyReceived
  simp

@[simp] theorem applyMapUnknown_keeps (i : Nat) (b : BurstOnLine) (s : State) :
    (applyMapUnknown i b s).now = s.now ∧ (applyMapUnknown i b s).nrstLow = s.nrstLow ∧
    (applyMapUnknown i b s).lcu = s.lcu ∧ (applyMapUnknown i b s).lae = s.lae ∧
    (applyMapUnknown i b s).ptu = s.ptu ∧ (applyMapUnknown i b s).suc = s.suc ∧
    (applyMapUnknown i b s).pending = s.pending := by
  unfold applyMapUnknown
  simp

@[simp] theorem applyBroadcastEnd_keeps (b : BurstOnLine) (s : State) :
    (applyBroadcastEnd b s).now = s.now ∧ (applyBroadcastEnd b s).nrstLow = s.nrstLow ∧
    (applyBroadcastEnd b s).lcu = s.lcu ∧ (applyBroadcastEnd b s).lae = s.lae ∧
    (applyBroadcastEnd b s).ptu = s.ptu ∧ (applyBroadcastEnd b s).suc = s.suc ∧
    (applyBroadcastEnd b s).pending = s.pending := by
  unfold applyBroadcastEnd
  simp

@[simp] theorem frameExpiry_keeps (k : FrameKind) (d : Nat) (s : State) :
    (frameExpiry k d s).now = s.now ∧ (frameExpiry k d s).nrstLow = s.nrstLow ∧
    (frameExpiry k d s).lcu = s.lcu ∧ (frameExpiry k d s).lae = s.lae ∧
    (frameExpiry k d s).ptu = s.ptu ∧ (frameExpiry k d s).suc = s.suc ∧
    (frameExpiry k d s).pending = s.pending := by
  unfold frameExpiry
  repeat' split
  all_goals simp

@[simp] theorem abandonEntries_keeps (p : Entry → Bool) (s : State) :
    (abandonEntries p s).now = s.now ∧ (abandonEntries p s).nrstLow = s.nrstLow ∧
    (abandonEntries p s).lcu = s.lcu ∧ (abandonEntries p s).lmd = s.lmd ∧
    (abandonEntries p s).clc = s.clc ∧ (abandonEntries p s).peers = s.peers ∧
    (abandonEntries p s).lae = s.lae ∧ (abandonEntries p s).tsc = s.tsc ∧
    (abandonEntries p s).ptu = s.ptu ∧ (abandonEntries p s).suc = s.suc ∧
    (abandonEntries p s).pending = s.pending := by
  unfold abandonEntries
  simp

@[simp] theorem releaseFrames_keeps (i : Nat) (s : State) :
    (releaseFrames i s).now = s.now ∧ (releaseFrames i s).nrstLow = s.nrstLow ∧
    (releaseFrames i s).lcu = s.lcu ∧ (releaseFrames i s).lmd = s.lmd ∧
    (releaseFrames i s).clc = s.clc ∧ (releaseFrames i s).peers = s.peers ∧
    (releaseFrames i s).lae = s.lae ∧ (releaseFrames i s).rxa = s.rxa ∧
    (releaseFrames i s).ptu = s.ptu ∧ (releaseFrames i s).suc = s.suc ∧
    (releaseFrames i s).pending = s.pending := by
  unfold releaseFrames
  simp

@[simp] theorem releasePeer_keeps (i : Nat) (s : State) :
    (releasePeer i s).now = s.now ∧ (releasePeer i s).nrstLow = s.nrstLow ∧
    (releasePeer i s).lcu = s.lcu ∧ (releasePeer i s).suc = s.suc ∧
    (releasePeer i s).pending = s.pending := by
  unfold releasePeer
  simp

@[simp] theorem claimRecord_keeps (i : Nat) (a : Addr) (h : Bool) (s : State) :
    (claimRecord i a h s).now = s.now ∧ (claimRecord i a h s).nrstLow = s.nrstLow ∧
    (claimRecord i a h s).lcu = s.lcu ∧ (claimRecord i a h s).lmd = s.lmd ∧
    (claimRecord i a h s).clc = s.clc ∧ (claimRecord i a h s).lae = s.lae ∧
    (claimRecord i a h s).tsc = s.tsc ∧ (claimRecord i a h s).bpm = s.bpm ∧
    (claimRecord i a h s).rxa = s.rxa ∧ (claimRecord i a h s).ptu = s.ptu ∧
    (claimRecord i a h s).suc = s.suc ∧ (claimRecord i a h s).pending = s.pending := by
  unfold claimRecord
  simp

@[simp] theorem refreshPeer_keeps (i : Nat) (h : Bool) (s : State) :
    (refreshPeer i h s).now = s.now ∧ (refreshPeer i h s).nrstLow = s.nrstLow ∧
    (refreshPeer i h s).lcu = s.lcu ∧ (refreshPeer i h s).lmd = s.lmd ∧
    (refreshPeer i h s).clc = s.clc ∧ (refreshPeer i h s).lae = s.lae ∧
    (refreshPeer i h s).tsc = s.tsc ∧ (refreshPeer i h s).bpm = s.bpm ∧
    (refreshPeer i h s).rxa = s.rxa ∧ (refreshPeer i h s).ptu = s.ptu ∧
    (refreshPeer i h s).mgu = s.mgu ∧ (refreshPeer i h s).suc = s.suc ∧
    (refreshPeer i h s).pending = s.pending := by
  unfold refreshPeer
  simp

@[simp] theorem notLearned_keeps (s : State) :
    (notLearned s).now = s.now ∧ (notLearned s).nrstLow = s.nrstLow ∧
    (notLearned s).lcu = s.lcu ∧ (notLearned s).lmd = s.lmd ∧ (notLearned s).clc = s.clc ∧
    (notLearned s).peers = s.peers ∧ (notLearned s).lae = s.lae ∧ (notLearned s).tsc = s.tsc ∧
    (notLearned s).bpm = s.bpm ∧ (notLearned s).rxa = s.rxa ∧ (notLearned s).ptu = s.ptu ∧
    (notLearned s).suc = s.suc ∧ (notLearned s).pending = s.pending := by
  unfold notLearned
  simp

@[simp] theorem learnSender_keeps (a : Addr) (h : Bool) (s : State) :
    (learnSender a h s).1.now = s.now ∧ (learnSender a h s).1.nrstLow = s.nrstLow ∧
    (learnSender a h s).1.lcu = s.lcu ∧ (learnSender a h s).1.suc = s.suc ∧
    (learnSender a h s).1.pending = s.pending := by
  unfold learnSender
  repeat' split
  all_goals simp

@[simp] theorem silenceInstant_keeps (i : Nat) (s : State) :
    (silenceInstant i s).now = s.now ∧ (silenceInstant i s).nrstLow = s.nrstLow ∧
    (silenceInstant i s).lcu = s.lcu ∧ (silenceInstant i s).suc = s.suc ∧
    (silenceInstant i s).pending = s.pending := by
  unfold silenceInstant
  repeat' split
  all_goals simp

@[simp] theorem takeDeferred_keeps (i : Nat) (s : State) :
    (takeDeferred i s).now = s.now ∧ (takeDeferred i s).nrstLow = s.nrstLow ∧
    (takeDeferred i s).lcu = s.lcu ∧ (takeDeferred i s).suc = s.suc ∧
    (takeDeferred i s).pending = s.pending := by
  unfold takeDeferred
  repeat' split
  all_goals simp

@[simp] theorem startReview_keeps (i : Nat) (x : Store) (s : State) :
    (startReview i x s).now = s.now ∧ (startReview i x s).nrstLow = s.nrstLow ∧
    (startReview i x s).lcu = s.lcu ∧ (startReview i x s).lmd = s.lmd ∧
    (startReview i x s).clc = s.clc ∧ (startReview i x s).peers = s.peers ∧
    (startReview i x s).tsc = s.tsc ∧ (startReview i x s).bpm = s.bpm ∧
    (startReview i x s).rxa = s.rxa ∧ (startReview i x s).ptu = s.ptu ∧
    (startReview i x s).mgu = s.mgu ∧ (startReview i x s).suc = s.suc ∧
    (startReview i x s).pending = s.pending := by
  unfold startReview
  simp

@[simp] theorem fileMeasurement_keeps (i : Nat) (m : List Nat) (p : Option Nat) (s : State) :
    (fileMeasurement i m p s).now = s.now ∧ (fileMeasurement i m p s).nrstLow = s.nrstLow ∧
    (fileMeasurement i m p s).lcu = s.lcu ∧ (fileMeasurement i m p s).lmd = s.lmd ∧
    (fileMeasurement i m p s).clc = s.clc ∧ (fileMeasurement i m p s).tsc = s.tsc ∧
    (fileMeasurement i m p s).bpm = s.bpm ∧ (fileMeasurement i m p s).rxa = s.rxa ∧
    (fileMeasurement i m p s).ptu = s.ptu ∧ (fileMeasurement i m p s).mgu = s.mgu ∧
    (fileMeasurement i m p s).suc = s.suc ∧ (fileMeasurement i m p s).pending = s.pending := by
  unfold fileMeasurement
  dsimp only
  repeat' split
  all_goals simp

@[simp] theorem queueCurrentSet_keeps (i : Nat) (s : State) :
    (queueCurrentSet i s).now = s.now ∧ (queueCurrentSet i s).nrstLow = s.nrstLow ∧
    (queueCurrentSet i s).lcu = s.lcu ∧ (queueCurrentSet i s).lae = s.lae ∧
    (queueCurrentSet i s).ptu = s.ptu ∧ (queueCurrentSet i s).mgu = s.mgu ∧
    (queueCurrentSet i s).suc = s.suc ∧ (queueCurrentSet i s).pending = s.pending := by
  unfold queueCurrentSet
  split <;> simp

@[simp] theorem noticeDecision_keeps (i : Nat) (s : State) :
    (noticeDecision i s).now = s.now ∧ (noticeDecision i s).nrstLow = s.nrstLow ∧
    (noticeDecision i s).lcu = s.lcu ∧ (noticeDecision i s).lae = s.lae ∧
    (noticeDecision i s).ptu = s.ptu ∧ (noticeDecision i s).mgu = s.mgu ∧
    (noticeDecision i s).suc = s.suc ∧ (noticeDecision i s).pending = s.pending := by
  unfold noticeDecision
  repeat' split
  all_goals simp

@[simp] theorem completeReview_keeps (i : Nat) (s : State) :
    (completeReview i s).now = s.now ∧ (completeReview i s).nrstLow = s.nrstLow ∧
    (completeReview i s).lcu = s.lcu ∧ (completeReview i s).ptu = s.ptu ∧
    (completeReview i s).mgu = s.mgu ∧ (completeReview i s).suc = s.suc ∧
    (completeReview i s).pending = s.pending := by
  unfold completeReview
  dsimp only
  repeat' split
  all_goals simp

@[simp] theorem recoverNotices_keeps (i : Nat) (h : Header) (t : MapTest) (s : State) :
    (recoverNotices i h t s).now = s.now ∧ (recoverNotices i h t s).nrstLow = s.nrstLow ∧
    (recoverNotices i h t s).lcu = s.lcu ∧ (recoverNotices i h t s).lae = s.lae ∧
    (recoverNotices i h t s).ptu = s.ptu ∧ (recoverNotices i h t s).mgu = s.mgu ∧
    (recoverNotices i h t s).suc = s.suc ∧ (recoverNotices i h t s).pending = s.pending := by
  unfold recoverNotices
  dsimp only
  repeat' split
  all_goals simp

@[simp] theorem egressChoice_keeps (s : State) :
    (egressChoice s).now = s.now ∧ (egressChoice s).nrstLow = s.nrstLow ∧
    (egressChoice s).lcu = s.lcu ∧ (egressChoice s).lmd = s.lmd ∧ (egressChoice s).clc = s.clc ∧
    (egressChoice s).peers = s.peers ∧ (egressChoice s).lae = s.lae ∧
    (egressChoice s).tsc = s.tsc ∧ (egressChoice s).bpm = s.bpm ∧ (egressChoice s).rxa = s.rxa ∧
    (egressChoice s).mgu = s.mgu ∧ (egressChoice s).suc = s.suc ∧
    (egressChoice s).pending = s.pending := by
  unfold egressChoice
  simp

@[simp] theorem egressGapEnd_keeps (s : State) :
    (egressGapEnd s).now = s.now ∧ (egressGapEnd s).nrstLow = s.nrstLow ∧
    (egressGapEnd s).lcu = s.lcu ∧ (egressGapEnd s).lmd = s.lmd ∧ (egressGapEnd s).clc = s.clc ∧
    (egressGapEnd s).peers = s.peers ∧ (egressGapEnd s).lae = s.lae ∧
    (egressGapEnd s).tsc = s.tsc ∧ (egressGapEnd s).bpm = s.bpm ∧ (egressGapEnd s).rxa = s.rxa ∧
    (egressGapEnd s).mgu = s.mgu ∧ (egressGapEnd s).suc = s.suc ∧
    (egressGapEnd s).pending = s.pending := by
  unfold egressGapEnd
  split <;> simp

@[simp] theorem pauseEnd_keeps (s : State) :
    (pauseEnd s).now = s.now ∧ (pauseEnd s).nrstLow = s.nrstLow ∧ (pauseEnd s).lcu = s.lcu ∧
    (pauseEnd s).lmd = s.lmd ∧ (pauseEnd s).clc = s.clc ∧ (pauseEnd s).peers = s.peers ∧
    (pauseEnd s).lae = s.lae ∧ (pauseEnd s).tsc = s.tsc ∧ (pauseEnd s).bpm = s.bpm ∧
    (pauseEnd s).rxa = s.rxa ∧ (pauseEnd s).mgu = s.mgu ∧ (pauseEnd s).suc = s.suc ∧
    (pauseEnd s).pending = s.pending := by
  unfold pauseEnd
  repeat' split
  all_goals simp

@[simp] theorem beginGap_keeps (s : State) :
    (beginGap s).now = s.now ∧ (beginGap s).nrstLow = s.nrstLow ∧ (beginGap s).lcu = s.lcu ∧
    (beginGap s).lmd = s.lmd ∧ (beginGap s).clc = s.clc ∧ (beginGap s).peers = s.peers ∧
    (beginGap s).lae = s.lae ∧ (beginGap s).tsc = s.tsc ∧ (beginGap s).bpm = s.bpm ∧
    (beginGap s).rxa = s.rxa ∧ (beginGap s).mgu = s.mgu ∧ (beginGap s).suc = s.suc ∧
    (beginGap s).pending = s.pending := by
  unfold beginGap
  simp

@[simp] theorem egressLastByte_keeps (s : State) :
    (egressLastByte s).now = s.now ∧ (egressLastByte s).nrstLow = s.nrstLow ∧
    (egressLastByte s).lcu = s.lcu ∧ (egressLastByte s).lmd = s.lmd ∧
    (egressLastByte s).clc = s.clc ∧ (egressLastByte s).peers = s.peers ∧
    (egressLastByte s).lae = s.lae ∧ (egressLastByte s).tsc = s.tsc ∧
    (egressLastByte s).rxa = s.rxa ∧ (egressLastByte s).suc = s.suc ∧
    (egressLastByte s).pending = s.pending := by
  unfold egressLastByte
  split <;> simp

@[simp] theorem learnAddress_keeps (a : Addr) (i : Nat) (s : State) :
    (learnAddress a i s).now = s.now ∧ (learnAddress a i s).nrstLow = s.nrstLow ∧
    (learnAddress a i s).lcu = s.lcu ∧ (learnAddress a i s).lmd = s.lmd ∧
    (learnAddress a i s).clc = s.clc ∧ (learnAddress a i s).peers = s.peers ∧
    (learnAddress a i s).lae = s.lae ∧ (learnAddress a i s).tsc = s.tsc ∧
    (learnAddress a i s).bpm = s.bpm ∧ (learnAddress a i s).rxa = s.rxa ∧
    (learnAddress a i s).suc = s.suc ∧ (learnAddress a i s).pending = s.pending := by
  unfold learnAddress
  repeat' split
  all_goals simp

@[simp] theorem forwardingAging_keeps (i : Nat) (s : State) :
    (forwardingAging i s).now = s.now ∧ (forwardingAging i s).nrstLow = s.nrstLow ∧
    (forwardingAging i s).lcu = s.lcu ∧ (forwardingAging i s).lmd = s.lmd ∧
    (forwardingAging i s).clc = s.clc ∧ (forwardingAging i s).peers = s.peers ∧
    (forwardingAging i s).lae = s.lae ∧ (forwardingAging i s).tsc = s.tsc ∧
    (forwardingAging i s).bpm = s.bpm ∧ (forwardingAging i s).rxa = s.rxa ∧
    (forwardingAging i s).mgu = s.mgu ∧ (forwardingAging i s).suc = s.suc ∧
    (forwardingAging i s).pending = s.pending := by
  unfold forwardingAging
  repeat' split
  all_goals simp

@[simp] theorem abandonAt_keeps (i : Nat) (s : State) :
    (abandonAt i s).now = s.now ∧ (abandonAt i s).nrstLow = s.nrstLow ∧
    (abandonAt i s).lcu = s.lcu ∧ (abandonAt i s).lmd = s.lmd ∧ (abandonAt i s).clc = s.clc ∧
    (abandonAt i s).peers = s.peers ∧ (abandonAt i s).lae = s.lae ∧
    (abandonAt i s).tsc = s.tsc ∧ (abandonAt i s).ptu = s.ptu ∧ (abandonAt i s).suc = s.suc ∧
    (abandonAt i s).pending = s.pending := by
  unfold abandonAt
  split <;> simp

@[simp] theorem mapReceipt_keeps (f : Receipt → Receipt) (s : State) :
    (mapReceipt f s).now = s.now ∧ (mapReceipt f s).nrstLow = s.nrstLow ∧
    (mapReceipt f s).lcu = s.lcu ∧ (mapReceipt f s).lmd = s.lmd ∧ (mapReceipt f s).clc = s.clc ∧
    (mapReceipt f s).peers = s.peers ∧ (mapReceipt f s).lae = s.lae ∧
    (mapReceipt f s).tsc = s.tsc ∧ (mapReceipt f s).bpm = s.bpm ∧ (mapReceipt f s).ptu = s.ptu ∧
    (mapReceipt f s).mgu = s.mgu ∧ (mapReceipt f s).suc = s.suc ∧
    (mapReceipt f s).pending = s.pending := by
  unfold mapReceipt
  simp

@[simp] theorem acceptBlock_keeps (v : Service) (i : Nat) (s : State) :
    (acceptBlock v i s).now = s.now ∧ (acceptBlock v i s).nrstLow = s.nrstLow ∧
    (acceptBlock v i s).lcu = s.lcu ∧ (acceptBlock v i s).lmd = s.lmd ∧
    (acceptBlock v i s).clc = s.clc ∧ (acceptBlock v i s).lae = s.lae ∧
    (acceptBlock v i s).tsc = s.tsc ∧ (acceptBlock v i s).bpm = s.bpm ∧
    (acceptBlock v i s).ptu = s.ptu ∧ (acceptBlock v i s).mgu = s.mgu ∧
    (acceptBlock v i s).suc = s.suc ∧ (acceptBlock v i s).pending = s.pending := by
  unfold acceptBlock
  simp

@[simp] theorem refuseForBuffer_keeps (s : State) :
    (refuseForBuffer s).now = s.now ∧ (refuseForBuffer s).nrstLow = s.nrstLow ∧
    (refuseForBuffer s).lcu = s.lcu ∧ (refuseForBuffer s).lmd = s.lmd ∧
    (refuseForBuffer s).clc = s.clc ∧ (refuseForBuffer s).peers = s.peers ∧
    (refuseForBuffer s).lae = s.lae ∧ (refuseForBuffer s).tsc = s.tsc ∧
    (refuseForBuffer s).bpm = s.bpm ∧ (refuseForBuffer s).ptu = s.ptu ∧
    (refuseForBuffer s).suc = s.suc ∧ (refuseForBuffer s).pending = s.pending := by
  unfold refuseForBuffer
  simp

@[simp] theorem takeNotice_keeps (i : Nat) (b : List Byte) (s : State) :
    (takeNotice i b s).now = s.now ∧ (takeNotice i b s).nrstLow = s.nrstLow ∧
    (takeNotice i b s).lcu = s.lcu ∧ (takeNotice i b s).lmd = s.lmd ∧
    (takeNotice i b s).clc = s.clc ∧ (takeNotice i b s).lae = s.lae ∧
    (takeNotice i b s).tsc = s.tsc ∧ (takeNotice i b s).bpm = s.bpm ∧
    (takeNotice i b s).rxa = s.rxa ∧ (takeNotice i b s).ptu = s.ptu ∧
    (takeNotice i b s).suc = s.suc ∧ (takeNotice i b s).pending = s.pending := by
  unfold takeNotice
  dsimp only
  split <;> simp

@[simp] theorem deliverData_keeps (e : Entry) (s : State) :
    (deliverData e s).now = s.now ∧ (deliverData e s).nrstLow = s.nrstLow ∧
    (deliverData e s).lcu = s.lcu ∧ (deliverData e s).lmd = s.lmd ∧
    (deliverData e s).clc = s.clc ∧ (deliverData e s).peers = s.peers ∧
    (deliverData e s).lae = s.lae ∧ (deliverData e s).tsc = s.tsc ∧
    (deliverData e s).rxa = s.rxa ∧ (deliverData e s).suc = s.suc ∧
    (deliverData e s).pending = s.pending := by
  unfold deliverData
  split <;> simp

@[simp] theorem deliverNotice_keeps (e : Entry) (s : State) :
    (deliverNotice e s).now = s.now ∧ (deliverNotice e s).nrstLow = s.nrstLow ∧
    (deliverNotice e s).lcu = s.lcu ∧ (deliverNotice e s).lmd = s.lmd ∧
    (deliverNotice e s).clc = s.clc ∧ (deliverNotice e s).lae = s.lae ∧
    (deliverNotice e s).tsc = s.tsc ∧ (deliverNotice e s).rxa = s.rxa ∧
    (deliverNotice e s).ptu = s.ptu ∧ (deliverNotice e s).suc = s.suc ∧
    (deliverNotice e s).pending = s.pending := by
  unfold deliverNotice
  simp

@[simp] theorem completeFrame_keeps (i : Nat) (e : Entry) (s : State) :
    (completeFrame i e s).now = s.now ∧ (completeFrame i e s).nrstLow = s.nrstLow ∧
    (completeFrame i e s).lcu = s.lcu ∧ (completeFrame i e s).lmd = s.lmd ∧
    (completeFrame i e s).clc = s.clc ∧ (completeFrame i e s).lae = s.lae ∧
    (completeFrame i e s).tsc = s.tsc ∧ (completeFrame i e s).suc = s.suc ∧
    (completeFrame i e s).pending = s.pending := by
  unfold completeFrame
  repeat' split
  all_goals simp

@[simp] theorem storeBlock_keeps (v : Service) (i j : Nat) (e : Entry) (s : State) :
    (storeBlock v i j e s).now = s.now ∧ (storeBlock v i j e s).nrstLow = s.nrstLow ∧
    (storeBlock v i j e s).lcu = s.lcu ∧ (storeBlock v i j e s).lmd = s.lmd ∧
    (storeBlock v i j e s).clc = s.clc ∧ (storeBlock v i j e s).lae = s.lae ∧
    (storeBlock v i j e s).tsc = s.tsc ∧ (storeBlock v i j e s).suc = s.suc ∧
    (storeBlock v i j e s).pending = s.pending := by
  unfold storeBlock
  split <;> simp

@[simp] theorem makeRoom_keeps (s : State) :
    (makeRoom s).now = s.now ∧ (makeRoom s).nrstLow = s.nrstLow ∧ (makeRoom s).lcu = s.lcu ∧
    (makeRoom s).lmd = s.lmd ∧ (makeRoom s).clc = s.clc ∧ (makeRoom s).peers = s.peers ∧
    (makeRoom s).lae = s.lae ∧ (makeRoom s).tsc = s.tsc ∧ (makeRoom s).ptu = s.ptu ∧
    (makeRoom s).suc = s.suc ∧ (makeRoom s).pending = s.pending := by
  unfold makeRoom
  repeat' split
  all_goals simp

@[simp] theorem openEntry_keeps (v : Service) (i : Nat) (h : BlockHeader) (b : List Byte) (s : State) :
    (openEntry v i h b s).now = s.now ∧ (openEntry v i h b s).nrstLow = s.nrstLow ∧
    (openEntry v i h b s).lcu = s.lcu ∧ (openEntry v i h b s).lmd = s.lmd ∧
    (openEntry v i h b s).clc = s.clc ∧ (openEntry v i h b s).lae = s.lae ∧
    (openEntry v i h b s).tsc = s.tsc ∧ (openEntry v i h b s).suc = s.suc ∧
    (openEntry v i h b s).pending = s.pending := by
  unfold openEntry
  dsimp only
  repeat' split
  all_goals simp

@[simp] theorem decideBlock_keeps (v : Service) (i : Nat) (h : BlockHeader) (b : List Byte) (s : State) :
    (decideBlock v i h b s).now = s.now ∧ (decideBlock v i h b s).nrstLow = s.nrstLow ∧
    (decideBlock v i h b s).lcu = s.lcu ∧ (decideBlock v i h b s).lmd = s.lmd ∧
    (decideBlock v i h b s).clc = s.clc ∧ (decideBlock v i h b s).lae = s.lae ∧
    (decideBlock v i h b s).tsc = s.tsc ∧ (decideBlock v i h b s).suc = s.suc ∧
    (decideBlock v i h b s).pending = s.pending := by
  unfold decideBlock
  repeat' split
  all_goals simp

@[simp] theorem takeBlock_keeps (i : Nat) (b : List Byte) (x : Bool) (s : State) :
    (takeBlock i b x s).now = s.now ∧ (takeBlock i b x s).nrstLow = s.nrstLow ∧
    (takeBlock i b x s).lcu = s.lcu ∧ (takeBlock i b x s).lmd = s.lmd ∧
    (takeBlock i b x s).clc = s.clc ∧ (takeBlock i b x s).lae = s.lae ∧
    (takeBlock i b x s).tsc = s.tsc ∧ (takeBlock i b x s).suc = s.suc ∧
    (takeBlock i b x s).pending = s.pending := by
  unfold takeBlock
  dsimp only
  repeat' split
  all_goals simp

@[simp] theorem reassemblyTimeout_keeps (i : Nat) (s : State) :
    (reassemblyTimeout i s).now = s.now ∧ (reassemblyTimeout i s).nrstLow = s.nrstLow ∧
    (reassemblyTimeout i s).lcu = s.lcu ∧ (reassemblyTimeout i s).lmd = s.lmd ∧
    (reassemblyTimeout i s).clc = s.clc ∧ (reassemblyTimeout i s).peers = s.peers ∧
    (reassemblyTimeout i s).lae = s.lae ∧ (reassemblyTimeout i s).tsc = s.tsc ∧
    (reassemblyTimeout i s).ptu = s.ptu ∧ (reassemblyTimeout i s).suc = s.suc ∧
    (reassemblyTimeout i s).pending = s.pending := by
  unfold reassemblyTimeout
  repeat' split
  all_goals simp

@[simp] theorem burstDetected_keeps (t : Time) (a b : Bool) (x y : List Int) (s : State) :
    (burstDetected t a b x y s).now = s.now ∧ (burstDetected t a b x y s).nrstLow = s.nrstLow ∧
    (burstDetected t a b x y s).lcu = s.lcu ∧ (burstDetected t a b x y s).clc = s.clc ∧
    (burstDetected t a b x y s).peers = s.peers ∧ (burstDetected t a b x y s).lae = s.lae ∧
    (burstDetected t a b x y s).tsc = s.tsc ∧ (burstDetected t a b x y s).bpm = s.bpm ∧
    (burstDetected t a b x y s).rxa = s.rxa ∧ (burstDetected t a b x y s).ptu = s.ptu ∧
    (burstDetected t a b x y s).mgu = s.mgu ∧ (burstDetected t a b x y s).suc = s.suc ∧
    (burstDetected t a b x y s).pending = s.pending := by
  unfold burstDetected
  split <;> simp

@[simp] theorem endReception_keeps (s : State) :
    (endReception s).now = s.now ∧ (endReception s).nrstLow = s.nrstLow ∧
    (endReception s).lcu = s.lcu ∧ (endReception s).clc = s.clc ∧
    (endReception s).peers = s.peers ∧ (endReception s).lae = s.lae ∧
    (endReception s).tsc = s.tsc ∧ (endReception s).bpm = s.bpm ∧ (endReception s).rxa = s.rxa ∧
    (endReception s).ptu = s.ptu ∧ (endReception s).mgu = s.mgu ∧ (endReception s).suc = s.suc ∧
    (endReception s).pending = s.pending := by
  unfold endReception
  simp

@[simp] theorem goOnReceiving_keeps (h : Header) (g : RxStage) (x : PayloadMap) (d : Nat) (s : State) :
    (goOnReceiving h g x d s).now = s.now ∧ (goOnReceiving h g x d s).nrstLow = s.nrstLow ∧
    (goOnReceiving h g x d s).lcu = s.lcu ∧ (goOnReceiving h g x d s).clc = s.clc ∧
    (goOnReceiving h g x d s).peers = s.peers ∧ (goOnReceiving h g x d s).lae = s.lae ∧
    (goOnReceiving h g x d s).tsc = s.tsc ∧ (goOnReceiving h g x d s).bpm = s.bpm ∧
    (goOnReceiving h g x d s).rxa = s.rxa ∧ (goOnReceiving h g x d s).ptu = s.ptu ∧
    (goOnReceiving h g x d s).mgu = s.mgu ∧ (goOnReceiving h g x d s).suc = s.suc ∧
    (goOnReceiving h g x d s).pending = s.pending := by
  unfold goOnReceiving
  simp

@[simp] theorem openService_keeps (i : Nat) (h : Header) (x : Bool) (t : MapTest) (s : State) :
    (openService i h x t s).now = s.now ∧ (openService i h x t s).nrstLow = s.nrstLow ∧
    (openService i h x t s).lcu = s.lcu ∧ (openService i h x t s).lmd = s.lmd ∧
    (openService i h x t s).clc = s.clc ∧ (openService i h x t s).lae = s.lae ∧
    (openService i h x t s).tsc = s.tsc ∧ (openService i h x t s).bpm = s.bpm ∧
    (openService i h x t s).ptu = s.ptu ∧ (openService i h x t s).mgu = s.mgu ∧
    (openService i h x t s).suc = s.suc ∧ (openService i h x t s).pending = s.pending := by
  unfold openService
  split <;> simp

@[simp] theorem afterMapTest_keeps (h : Header) (x : Bool) (t : MapTest) (s : State) :
    (afterMapTest h x t s).now = s.now ∧ (afterMapTest h x t s).nrstLow = s.nrstLow ∧
    (afterMapTest h x t s).lcu = s.lcu ∧ (afterMapTest h x t s).clc = s.clc ∧
    (afterMapTest h x t s).peers = s.peers ∧ (afterMapTest h x t s).lae = s.lae ∧
    (afterMapTest h x t s).tsc = s.tsc ∧ (afterMapTest h x t s).bpm = s.bpm ∧
    (afterMapTest h x t s).rxa = s.rxa ∧ (afterMapTest h x t s).ptu = s.ptu ∧
    (afterMapTest h x t s).mgu = s.mgu ∧ (afterMapTest h x t s).suc = s.suc ∧
    (afterMapTest h x t s).pending = s.pending := by
  unfold afterMapTest
  split <;> simp

@[simp] theorem serveHeader_keeps (i : Nat) (h : Header) (x : Bool) (s : State) :
    (serveHeader i h x s).now = s.now ∧ (serveHeader i h x s).nrstLow = s.nrstLow ∧
    (serveHeader i h x s).lcu = s.lcu ∧ (serveHeader i h x s).lae = s.lae ∧
    (serveHeader i h x s).ptu = s.ptu ∧ (serveHeader i h x s).mgu = s.mgu ∧
    (serveHeader i h x s).suc = s.suc ∧ (serveHeader i h x s).pending = s.pending := by
  unfold serveHeader
  repeat' split
  all_goals simp

@[simp] theorem ownLabel_keeps (h0 : Header) (m : List Nat) (s : State) :
    (ownLabel h0 m s).now = s.now ∧ (ownLabel h0 m s).nrstLow = s.nrstLow ∧
    (ownLabel h0 m s).lcu = s.lcu ∧ (ownLabel h0 m s).suc = s.suc ∧
    (ownLabel h0 m s).pending = s.pending := by
  unfold ownLabel
  have h := learnSender_keeps h0.sender (addressedHere s h0) s
  dsimp only
  revert h
  generalize learnSender h0.sender (addressedHere s h0) s = q
  obtain ⟨s', _ | i⟩ := q
  · intro h
    simpa using h
  · intro h
    dsimp only
    split <;> simp_all

@[simp] theorem takeHeader_keeps (b : BurstInHand) (d : Option Header) (s : State) :
    (takeHeader b d s).now = s.now ∧ (takeHeader b d s).nrstLow = s.nrstLow ∧
    (takeHeader b d s).lcu = s.lcu ∧ (takeHeader b d s).suc = s.suc ∧
    (takeHeader b d s).pending = s.pending := by
  unfold takeHeader
  repeat' split
  all_goals simp

@[simp] theorem headerOutcome_keeps (b : HeaderHeard) (s : State) :
    (headerOutcome b s).now = s.now ∧ (headerOutcome b s).nrstLow = s.nrstLow ∧
    (headerOutcome b s).lcu = s.lcu ∧ (headerOutcome b s).suc = s.suc ∧
    (headerOutcome b s).pending = s.pending := by
  unfold headerOutcome
  repeat' split
  all_goals simp

@[simp] theorem blockHanded_keeps (b : SymbolsHeard) (s : State) :
    (blockHanded b s).now = s.now ∧ (blockHanded b s).nrstLow = s.nrstLow ∧
    (blockHanded b s).lcu = s.lcu ∧ (blockHanded b s).clc = s.clc ∧
    (blockHanded b s).lae = s.lae ∧ (blockHanded b s).tsc = s.tsc ∧
    (blockHanded b s).suc = s.suc ∧ (blockHanded b s).pending = s.pending := by
  unfold blockHanded
  repeat' split
  all_goals simp

@[simp] theorem rxPayloadEnd_keeps (s : State) :
    (rxPayloadEnd s).now = s.now ∧ (rxPayloadEnd s).nrstLow = s.nrstLow ∧
    (rxPayloadEnd s).lcu = s.lcu ∧ (rxPayloadEnd s).clc = s.clc ∧
    (rxPayloadEnd s).peers = s.peers ∧ (rxPayloadEnd s).lae = s.lae ∧
    (rxPayloadEnd s).tsc = s.tsc ∧ (rxPayloadEnd s).bpm = s.bpm ∧ (rxPayloadEnd s).ptu = s.ptu ∧
    (rxPayloadEnd s).mgu = s.mgu ∧ (rxPayloadEnd s).suc = s.suc ∧
    (rxPayloadEnd s).pending = s.pending := by
  unfold rxPayloadEnd
  repeat' split
  all_goals simp

@[simp] theorem startReceipt_keeps (t : Time) (r : Receipt) (s : State) :
    (startReceipt t r s).now = s.now ∧ (startReceipt t r s).nrstLow = s.nrstLow ∧
    (startReceipt t r s).lcu = s.lcu ∧ (startReceipt t r s).clc = s.clc ∧
    (startReceipt t r s).peers = s.peers ∧ (startReceipt t r s).lae = s.lae ∧
    (startReceipt t r s).tsc = s.tsc ∧ (startReceipt t r s).bpm = s.bpm ∧
    (startReceipt t r s).ptu = s.ptu ∧ (startReceipt t r s).mgu = s.mgu ∧
    (startReceipt t r s).suc = s.suc ∧ (startReceipt t r s).pending = s.pending := by
  unfold startReceipt
  simp

@[simp] theorem sendReceipt_keeps (s : State) :
    (sendReceipt s).now = s.now ∧ (sendReceipt s).nrstLow = s.nrstLow ∧
    (sendReceipt s).lcu = s.lcu ∧ (sendReceipt s).clc = s.clc ∧
    (sendReceipt s).peers = s.peers ∧ (sendReceipt s).lae = s.lae ∧
    (sendReceipt s).tsc = s.tsc ∧ (sendReceipt s).bpm = s.bpm ∧ (sendReceipt s).ptu = s.ptu ∧
    (sendReceipt s).mgu = s.mgu ∧ (sendReceipt s).suc = s.suc ∧
    (sendReceipt s).pending = s.pending := by
  unfold sendReceipt
  dsimp only
  repeat' split
  all_goals simp

@[simp] theorem receiptEnd_keeps (s : State) :
    (receiptEnd s).now = s.now ∧ (receiptEnd s).nrstLow = s.nrstLow ∧
    (receiptEnd s).lcu = s.lcu ∧ (receiptEnd s).clc = s.clc ∧ (receiptEnd s).peers = s.peers ∧
    (receiptEnd s).lae = s.lae ∧ (receiptEnd s).tsc = s.tsc ∧ (receiptEnd s).bpm = s.bpm ∧
    (receiptEnd s).rxa = s.rxa ∧ (receiptEnd s).ptu = s.ptu ∧ (receiptEnd s).mgu = s.mgu ∧
    (receiptEnd s).suc = s.suc ∧ (receiptEnd s).pending = s.pending := by
  unfold receiptEnd
  split <;> simp

@[simp] theorem settleWin_keeps (s : State) :
    (settleWin s).now = s.now ∧ (settleWin s).nrstLow = s.nrstLow ∧ (settleWin s).lcu = s.lcu ∧
    (settleWin s).peers = s.peers ∧ (settleWin s).lae = s.lae ∧ (settleWin s).tsc = s.tsc ∧
    (settleWin s).bpm = s.bpm ∧ (settleWin s).ptu = s.ptu ∧ (settleWin s).mgu = s.mgu ∧
    (settleWin s).suc = s.suc ∧ (settleWin s).pending = s.pending := by
  unfold settleWin
  split <;> simp

@[simp] theorem winPeriod_keeps (m : Time) (s : State) :
    (winPeriod m s).now = s.now ∧ (winPeriod m s).nrstLow = s.nrstLow ∧
    (winPeriod m s).lae = s.lae ∧ (winPeriod m s).bpm = s.bpm ∧ (winPeriod m s).ptu = s.ptu ∧
    (winPeriod m s).suc = s.suc ∧ (winPeriod m s).pending = s.pending := by
  unfold winPeriod
  simp

@[simp] theorem claimPeriodEnd_keeps (s : State) :
    (claimPeriodEnd s).now = s.now ∧ (claimPeriodEnd s).nrstLow = s.nrstLow ∧
    (claimPeriodEnd s).lae = s.lae ∧ (claimPeriodEnd s).bpm = s.bpm ∧
    (claimPeriodEnd s).ptu = s.ptu ∧ (claimPeriodEnd s).suc = s.suc ∧
    (claimPeriodEnd s).pending = s.pending := by
  unfold claimPeriodEnd
  dsimp only
  repeat' split
  all_goals simp

@[simp] theorem burstStart_keeps (s : State) :
    (burstStart s).now = s.now ∧ (burstStart s).nrstLow = s.nrstLow ∧
    (burstStart s).lcu = s.lcu ∧ (burstStart s).clc = s.clc ∧ (burstStart s).peers = s.peers ∧
    (burstStart s).lae = s.lae ∧ (burstStart s).tsc = s.tsc ∧ (burstStart s).bpm = s.bpm ∧
    (burstStart s).ptu = s.ptu ∧ (burstStart s).mgu = s.mgu ∧ (burstStart s).suc = s.suc ∧
    (burstStart s).pending = s.pending := by
  unfold burstStart
  repeat' split
  all_goals simp

@[simp] theorem endOwnPayload_keeps (b : BurstOnLine) (t : Time) (s : State) :
    (endOwnPayload b t s).now = s.now ∧ (endOwnPayload b t s).nrstLow = s.nrstLow ∧
    (endOwnPayload b t s).lcu = s.lcu ∧ (endOwnPayload b t s).lae = s.lae ∧
    (endOwnPayload b t s).ptu = s.ptu ∧ (endOwnPayload b t s).suc = s.suc ∧
    (endOwnPayload b t s).pending = s.pending := by
  unfold endOwnPayload
  split <;> simp

@[simp] theorem ownPayloadEnd_keeps (s : State) :
    (ownPayloadEnd s).now = s.now ∧ (ownPayloadEnd s).nrstLow = s.nrstLow ∧
    (ownPayloadEnd s).lcu = s.lcu ∧ (ownPayloadEnd s).lae = s.lae ∧
    (ownPayloadEnd s).ptu = s.ptu ∧ (ownPayloadEnd s).suc = s.suc ∧
    (ownPayloadEnd s).pending = s.pending := by
  unfold ownPayloadEnd
  dsimp only
  repeat' split
  all_goals simp

@[simp] theorem applyReceipt_keeps (i : Nat) (b : BurstOnLine) (r : Option Receipt) (s : State) :
    (applyReceipt i b r s).now = s.now ∧ (applyReceipt i b r s).nrstLow = s.nrstLow ∧
    (applyReceipt i b r s).lcu = s.lcu ∧ (applyReceipt i b r s).lae = s.lae ∧
    (applyReceipt i b r s).ptu = s.ptu ∧ (applyReceipt i b r s).suc = s.suc ∧
    (applyReceipt i b r s).pending = s.pending := by
  unfold applyReceipt
  repeat' split
  all_goals simp

@[simp] theorem endReceiptSlot_keeps (i : Nat) (b : BurstOnLine) (x : ReceiptExpect)
    (h : Option ReceiptHeard) (t : Time) (s : State) :
    (endReceiptSlot i b x h t s).now = s.now ∧
    (endReceiptSlot i b x h t s).nrstLow = s.nrstLow ∧
    (endReceiptSlot i b x h t s).lcu = s.lcu ∧ (endReceiptSlot i b x h t s).suc = s.suc ∧
    (endReceiptSlot i b x h t s).pending = s.pending := by
  unfold endReceiptSlot
  simp

@[simp] theorem receiptSlotEnd_keeps (h : Option ReceiptHeard) (s : State) :
    (receiptSlotEnd h s).now = s.now ∧ (receiptSlotEnd h s).nrstLow = s.nrstLow ∧
    (receiptSlotEnd h s).lcu = s.lcu ∧ (receiptSlotEnd h s).suc = s.suc ∧
    (receiptSlotEnd h s).pending = s.pending := by
  unfold receiptSlotEnd
  dsimp only
  repeat' split
  all_goals simp

@[simp] theorem arrive_keeps (b : List Byte) (x : Bool) (s : State) :
    (arrive b x s).now = s.now ∧ (arrive b x s).nrstLow = s.nrstLow ∧
    (arrive b x s).lcu = s.lcu ∧ (arrive b x s).lmd = s.lmd ∧ (arrive b x s).clc = s.clc ∧
    (arrive b x s).peers = s.peers ∧ (arrive b x s).lae = s.lae ∧ (arrive b x s).tsc = s.tsc ∧
    (arrive b x s).rxa = s.rxa ∧ (arrive b x s).mgu = s.mgu ∧ (arrive b x s).suc = s.suc ∧
    (arrive b x s).pending = s.pending := by
  unfold arrive
  dsimp only
  split <;> simp

@[simp] theorem discardIngress_keeps (g : Ingress) (s : State) :
    (discardIngress g s).now = s.now ∧ (discardIngress g s).nrstLow = s.nrstLow ∧
    (discardIngress g s).lcu = s.lcu ∧ (discardIngress g s).lmd = s.lmd ∧
    (discardIngress g s).clc = s.clc ∧ (discardIngress g s).peers = s.peers ∧
    (discardIngress g s).lae = s.lae ∧ (discardIngress g s).tsc = s.tsc ∧
    (discardIngress g s).rxa = s.rxa ∧ (discardIngress g s).ptu = s.ptu ∧
    (discardIngress g s).mgu = s.mgu ∧ (discardIngress g s).suc = s.suc ∧
    (discardIngress g s).pending = s.pending := by
  unfold discardIngress
  simp

@[simp] theorem queueRequest_keeps (r : Request) (s : State) :
    (queueRequest r s).now = s.now ∧ (queueRequest r s).nrstLow = s.nrstLow ∧
    (queueRequest r s).lcu = s.lcu ∧ (queueRequest r s).lmd = s.lmd ∧
    (queueRequest r s).clc = s.clc ∧ (queueRequest r s).peers = s.peers ∧
    (queueRequest r s).lae = s.lae ∧ (queueRequest r s).tsc = s.tsc ∧
    (queueRequest r s).bpm = s.bpm ∧ (queueRequest r s).rxa = s.rxa ∧
    (queueRequest r s).ptu = s.ptu ∧ (queueRequest r s).suc = s.suc ∧
    (queueRequest r s).pending = s.pending := by
  unfold queueRequest
  split <;> simp

@[simp] theorem divertFrame_keeps (g : Ingress) (s : State) :
    (divertFrame g s).now = s.now ∧ (divertFrame g s).nrstLow = s.nrstLow ∧
    (divertFrame g s).lcu = s.lcu ∧ (divertFrame g s).lmd = s.lmd ∧
    (divertFrame g s).clc = s.clc ∧ (divertFrame g s).peers = s.peers ∧
    (divertFrame g s).lae = s.lae ∧ (divertFrame g s).tsc = s.tsc ∧
    (divertFrame g s).rxa = s.rxa ∧ (divertFrame g s).ptu = s.ptu ∧
    (divertFrame g s).suc = s.suc ∧ (divertFrame g s).pending = s.pending := by
  unfold divertFrame
  split <;> simp

@[simp] theorem controlFrame_keeps (f : List Byte) (s : State) :
    (controlFrame f s).now = s.now ∧ (controlFrame f s).nrstLow = s.nrstLow ∧
    (controlFrame f s).lcu = s.lcu ∧ (controlFrame f s).lmd = s.lmd ∧
    (controlFrame f s).clc = s.clc ∧ (controlFrame f s).peers = s.peers ∧
    (controlFrame f s).lae = s.lae ∧ (controlFrame f s).tsc = s.tsc ∧
    (controlFrame f s).bpm = s.bpm ∧ (controlFrame f s).rxa = s.rxa ∧
    (controlFrame f s).mgu = s.mgu ∧ (controlFrame f s).suc = s.suc ∧
    (controlFrame f s).pending = s.pending := by
  unfold controlFrame
  dsimp only
  repeat' split
  all_goals simp

@[simp] theorem classify_keeps (g : Ingress) (s : State) :
    (classify g s).now = s.now ∧ (classify g s).nrstLow = s.nrstLow ∧
    (classify g s).lcu = s.lcu ∧ (classify g s).lae = s.lae ∧ (classify g s).suc = s.suc ∧
    (classify g s).pending = s.pending := by
  unfold classify
  repeat' split
  all_goals simp

@[simp] theorem portFrameReceived_keeps (b : List Byte) (x : Bool) (s : State) :
    (portFrameReceived b x s).now = s.now ∧ (portFrameReceived b x s).nrstLow = s.nrstLow ∧
    (portFrameReceived b x s).lcu = s.lcu ∧ (portFrameReceived b x s).lae = s.lae ∧
    (portFrameReceived b x s).suc = s.suc ∧ (portFrameReceived b x s).pending = s.pending := by
  unfold portFrameReceived
  dsimp only
  split <;> simp

@[simp] theorem restartTaken_keeps (s : State) :
    (restartTaken s).now = s.now ∧ (restartTaken s).lcu = s.lcu ∧
    (restartTaken s).pending = s.pending := by
  unfold restartTaken
  split <;> simp [resetState]

@[simp] theorem applyConfig_keeps (c : ConfigImage) (s : State) :
    (applyConfig c s).now = s.now ∧ (applyConfig c s).nrstLow = s.nrstLow ∧
    (applyConfig c s).bpm = s.bpm ∧ (applyConfig c s).pending = s.pending := by
  unfold applyConfig
  simp

@[simp] theorem flashReadStart_keeps (s : State) :
    (flashReadStart s).now = s.now ∧ (flashReadStart s).nrstLow = s.nrstLow ∧
    (flashReadStart s).lcu = s.lcu ∧ (flashReadStart s).lmd = s.lmd ∧
    (flashReadStart s).clc = s.clc ∧ (flashReadStart s).peers = s.peers ∧
    (flashReadStart s).lae = s.lae ∧ (flashReadStart s).tsc = s.tsc ∧
    (flashReadStart s).bpm = s.bpm ∧ (flashReadStart s).rxa = s.rxa ∧
    (flashReadStart s).ptu = s.ptu ∧ (flashReadStart s).mgu = s.mgu ∧
    (flashReadStart s).pending = s.pending := by
  unfold flashReadStart
  repeat' split
  all_goals simp

@[simp] theorem flashReadEnd_keeps (b : List Byte) (s : State) :
    (flashReadEnd b s).now = s.now ∧ (flashReadEnd b s).nrstLow = s.nrstLow ∧
    (flashReadEnd b s).bpm = s.bpm ∧ (flashReadEnd b s).pending = s.pending := by
  unfold flashReadEnd
  dsimp only
  repeat' split
  all_goals simp

@[simp] theorem placeReply_keeps (r : Reply) (s : State) :
    (placeReply r s).now = s.now ∧ (placeReply r s).nrstLow = s.nrstLow ∧
    (placeReply r s).lcu = s.lcu ∧ (placeReply r s).lmd = s.lmd ∧ (placeReply r s).clc = s.clc ∧
    (placeReply r s).peers = s.peers ∧ (placeReply r s).lae = s.lae ∧
    (placeReply r s).tsc = s.tsc ∧ (placeReply r s).bpm = s.bpm ∧ (placeReply r s).rxa = s.rxa ∧
    (placeReply r s).mgu = s.mgu ∧ (placeReply r s).suc = s.suc ∧
    (placeReply r s).pending = s.pending := by
  unfold placeReply
  simp

@[simp] theorem offerReply_keeps (r : Reply) (s : State) :
    (offerReply r s).now = s.now ∧ (offerReply r s).nrstLow = s.nrstLow ∧
    (offerReply r s).lcu = s.lcu ∧ (offerReply r s).lmd = s.lmd ∧ (offerReply r s).clc = s.clc ∧
    (offerReply r s).peers = s.peers ∧ (offerReply r s).lae = s.lae ∧
    (offerReply r s).tsc = s.tsc ∧ (offerReply r s).bpm = s.bpm ∧ (offerReply r s).rxa = s.rxa ∧
    (offerReply r s).suc = s.suc ∧ (offerReply r s).pending = s.pending := by
  unfold offerReply
  split <;> simp

@[simp] theorem answer_keeps (r : Request) (c : ResultCode) (b : List Byte) (s : State) :
    (answer r c b s).now = s.now ∧ (answer r c b s).nrstLow = s.nrstLow ∧
    (answer r c b s).lcu = s.lcu ∧ (answer r c b s).lmd = s.lmd ∧ (answer r c b s).clc = s.clc ∧
    (answer r c b s).peers = s.peers ∧ (answer r c b s).lae = s.lae ∧
    (answer r c b s).tsc = s.tsc ∧ (answer r c b s).bpm = s.bpm ∧ (answer r c b s).rxa = s.rxa ∧
    (answer r c b s).suc = s.suc ∧ (answer r c b s).pending = s.pending := by
  unfold answer
  simp

@[simp] theorem replyPlaced_keeps (s : State) :
    (replyPlaced s).now = s.now ∧ (replyPlaced s).nrstLow = s.nrstLow ∧
    (replyPlaced s).lcu = s.lcu ∧ (replyPlaced s).lmd = s.lmd ∧ (replyPlaced s).clc = s.clc ∧
    (replyPlaced s).peers = s.peers ∧ (replyPlaced s).lae = s.lae ∧
    (replyPlaced s).tsc = s.tsc ∧ (replyPlaced s).bpm = s.bpm ∧ (replyPlaced s).rxa = s.rxa ∧
    (replyPlaced s).suc = s.suc ∧ (replyPlaced s).pending = s.pending := by
  unfold replyPlaced
  repeat' split
  all_goals simp

@[simp] theorem clearReported_keeps (s : State) :
    (clearReported s).now = s.now ∧ (clearReported s).nrstLow = s.nrstLow ∧
    (clearReported s).lcu = s.lcu ∧ (clearReported s).lmd = s.lmd ∧
    (clearReported s).clc = s.clc ∧ (clearReported s).peers = s.peers ∧
    (clearReported s).lae = s.lae ∧ (clearReported s).tsc = s.tsc ∧
    (clearReported s).bpm = s.bpm ∧ (clearReported s).rxa = s.rxa ∧
    (clearReported s).ptu = s.ptu ∧ (clearReported s).suc = s.suc ∧
    (clearReported s).pending = s.pending := by
  unfold clearReported
  simp

@[simp] theorem setMask_keeps (m : BitVec 14) (s : State) :
    (setMask m s).now = s.now ∧ (setMask m s).nrstLow = s.nrstLow ∧ (setMask m s).lcu = s.lcu ∧
    (setMask m s).lmd = s.lmd ∧ (setMask m s).clc = s.clc ∧ (setMask m s).peers = s.peers ∧
    (setMask m s).lae = s.lae ∧ (setMask m s).tsc = s.tsc ∧ (setMask m s).bpm = s.bpm ∧
    (setMask m s).rxa = s.rxa ∧ (setMask m s).ptu = s.ptu ∧ (setMask m s).suc = s.suc ∧
    (setMask m s).pending = s.pending := by
  unfold setMask
  simp

end Sys2Proof.Machine
end

