-- ==== Sys2Proof/Laws/Ops.lean ====
section
/-! SUPPORT. What the shared operations can do, said once each. -/

namespace Sys2Proof.Machine

/-! ### Taking a command -/

/-- Outside a held NRST, a command has its effect at its instant. -/
theorem taking_live {s : State} (h : s.nrstLow = false) (t : Time) (f : State → State) :
    taking t f s = .next (f { s with now := t }) := by
  simp [taking, h]

/-- While NRST is held low, a command moves the time base and nothing else. -/
theorem taking_held {s : State} (h : s.nrstLow = true) (t : Time) (f : State → State) :
    taking t f s = .next { s with now := t } := by
  simp [taking, h]

/-- A taking answers a next state: the state with the time base moved, or the effect of that. -/
theorem taking_cases {t : Time} {f : State → State} {s s' : State} (h : taking t f s = .next s') :
    (s.nrstLow = true ∧ s' = { s with now := t }) ∨
    (s.nrstLow = false ∧ s' = f { s with now := t }) := by
  unfold taking at h
  cases h
  cases hn : s.nrstLow <;> simp

/-- What a taking keeps, when its effect keeps it and the time base has no part in it. -/
theorem taking_keeps {β : Type} (part : State → β) {t : Time} {f : State → State} {s s' : State}
    (h : taking t f s = .next s') (hn : part { s with now := t } = part s)
    (hf : ∀ s, part (f s) = part s) : part s' = part s := by
  rcases taking_cases h with ⟨-, rfl⟩ | ⟨-, rfl⟩
  · exact hn
  · rw [hf, hn]

/-- An invariant that the time base has no part in is kept by a taking whose effect keeps it. -/
theorem taking_invariant {P : State → Prop} {t : Time} {f : State → State} {s s' : State}
    (h : taking t f s = .next s') (hs : P s) (hn : P s → P { s with now := t })
    (hf : s.nrstLow = false → P { s with now := t } → P (f { s with now := t })) : P s' := by
  rcases taking_cases h with ⟨-, rfl⟩ | ⟨hl, rfl⟩
  · exact hn hs
  · exact hf hl (hn hs)

/-- What a command of the port's receive side can do: with NRST low, to follow the receive data; otherwise
its effect. -/
theorem receiveData_cases {t : Time} {u : Bool} {f : State → State} {s s' : State}
    (h : receiveData t u f s = .next s') :
    (s.nrstLow = true ∧ s' = { s with now := t, ptu := s.ptu.withReceiving u }) ∨
    (s.nrstLow = false ∧ s' = f { s with now := t }) := by
  unfold receiveData at h
  cases h
  cases hn : s.nrstLow <;> simp

/-- The frame that bytes belong to: the one in ingress, one that they open, or none (R144, R157). -/
theorem frameTaking_cases (bytes : List Byte) (p : Ptu) :
    (∃ g, p.ingress = some g ∧ frameTaking bytes p = some g) ∨
    (p.ingress = none ∧ bytes ≠ [] ∧ p.receiving = false ∧
      frameTaking bytes p = some emptyIngress) ∨
    (p.ingress = none ∧ (bytes = [] ∨ p.receiving = true) ∧ frameTaking bytes p = none) := by
  unfold frameTaking
  cases hi : p.ingress with
  | some g => exact .inl ⟨g, rfl, rfl⟩
  | none =>
    by_cases h : bytes = [] ∨ p.receiving = true
    · exact .inr (.inr ⟨rfl, h, if_pos h⟩)
    · refine .inr (.inl ⟨rfl, fun e => h (.inl e), ?_, if_neg h⟩)
      cases hr : p.receiving with
      | false => rfl
      | true => exact absurd (.inr hr) h

/-! ### Time -/

@[simp] theorem elapsed_self (t : Time) : elapsed t t = 0 := by simp [elapsed]

@[simp] theorem reached_self (t : Time) : reached t t = true := by simp [reached]

/-- An interval shorter than the time base is measured back whole. -/
theorem elapsed_after (t : Time) {n : Nat} (h : n < 2 ^ 32) : elapsed t (after t n) = n := by
  unfold elapsed after
  rw [BitVec.add_comm, BitVec.add_sub_cancel, BitVec.toNat_ofNat, Nat.mod_eq_of_lt h]

/-- An instant is reached from itself on for half the time base. -/
theorem reached_after (t : Time) {n : Nat} (h : n < 2147483648) : reached (after t n) t = true := by
  unfold reached
  rw [elapsed_after t (by omega)]
  simp [h]

/-! ### Events and counters -/

/-- R166: an event latches its flag, keeps the others, and judges ATTN. -/
@[simp] theorem raise_mgu (e : Event) (s : State) :
    (raise e s).mgu = judgeAttn { s.mgu with flags := s.mgu.flags ||| e.bit } := rfl

@[simp] theorem count_mgu (f : Counters → Counters) (s : State) :
    (count f s).mgu = { s.mgu with counters := f s.mgu.counters } := rfl

@[simp] theorem countLevel_mgu (l : Nat) (f : LevelCounters → LevelCounters) (s : State) :
    (countLevel l f s).mgu = { s.mgu with counters :=
      { s.mgu.counters with levels := updAt s.mgu.counters.levels l f } } := rfl

@[simp] theorem judgeAttn_flags (m : Mgu) : (judgeAttn m).flags = m.flags := rfl
@[simp] theorem judgeAttn_mask (m : Mgu) : (judgeAttn m).mask = m.mask := rfl
@[simp] theorem judgeAttn_counters (m : Mgu) : (judgeAttn m).counters = m.counters := rfl
@[simp] theorem judgeAttn_queue (m : Mgu) : (judgeAttn m).queue = m.queue := rfl
@[simp] theorem judgeAttn_service (m : Mgu) : (judgeAttn m).service = m.service := rfl
@[simp] theorem judgeAttn_restart (m : Mgu) : (judgeAttn m).restart = m.restart := rfl
@[simp] theorem judgeAttn_attn (m : Mgu) : (judgeAttn m).attn = attnOf m.flags m.mask := rfl

/-- A saturating counter stays in its 32 bits. -/
theorem satAdd_le (n k : Nat) : satAdd n k ≤ counterMax := Nat.min_le_left _ _

theorem satInc_le (k : Nat) : satInc k ≤ counterMax := satAdd_le 1 k

/-- Below its largest value a counter increases by 1. -/
theorem satInc_of_lt {k : Nat} (h : k < counterMax) : satInc k = k + 1 := by
  simp [satInc, satAdd]; omega

/-! ### Tables and records -/

@[simp] theorem tableSet_length {α : Type} (l : List (Option α)) (i : Nat) (x : Option α) :
    (tableSet l i x).length = l.length := by
  cases i <;> simp [tableSet]

@[simp] theorem updAt_length {α : Type} (l : List α) (i : Nat) (f : α → α) :
    (updAt l i f).length = l.length := by
  unfold updAt; split <;> simp

@[simp] theorem vacate_length {α : Type} (p : α → Bool) (l : List (Option α)) :
    (vacate p l).length = l.length := by
  simp [vacate]

/-- What is set at a position of a table stands there. -/
theorem tableGet_tableSet_same {α : Type} {l : List (Option α)} {i : Nat} (x : Option α)
    (h1 : 1 ≤ i) (h2 : i ≤ l.length) : tableGet (tableSet l i x) i = x := by
  obtain ⟨k, rfl⟩ : ∃ k, i = k + 1 := ⟨i - 1, by omega⟩
  simp [tableGet, tableSet, show k < l.length by omega]

/-- The other positions stand as they were. -/
theorem tableGet_tableSet_other {α : Type} (l : List (Option α)) {i j : Nat} (x : Option α)
    (h : i ≠ j) : tableGet (tableSet l i x) j = tableGet l j := by
  cases i with
  | zero => rfl
  | succ i => cases j with
    | zero => rfl
    | succ j =>
      have : i ≠ j := by omega
      simp [tableGet, tableSet, this]

/-- Where an entry stands, its position is one of the table's. -/
theorem tableGet_range {α : Type} {l : List (Option α)} {i : Nat} {x : α}
    (h : tableGet l i = some x) : 1 ≤ i ∧ i ≤ l.length := by
  cases i with
  | zero => simp [tableGet] at h
  | succ k =>
    by_cases hk : k < l.length
    · omega
    · simp [tableGet, List.getElem?_eq_none (by omega : l.length ≤ k)] at h

/-- A change of an ACTIVE record is found there. -/
theorem State.mapPeer_peer_same (i : Nat) (f : Peer → Peer) (s : State) :
    (s.mapPeer i f).peer i = (s.peer i).map f := by
  unfold State.mapPeer
  cases h : s.peer i with
  | none => simp [h]
  | some p =>
    have hr := tableGet_range h
    simp [State.peer, State.mapPeers, tableGet_tableSet_same _ hr.1 hr.2]

/-- The other records stand as they were. -/
theorem State.mapPeer_peer_other {i j : Nat} (f : Peer → Peer) (s : State) (h : i ≠ j) :
    (s.mapPeer i f).peer j = s.peer j := by
  unfold State.mapPeer
  split
  · exact tableGet_tableSet_other _ _ h
  · rfl

@[simp] theorem State.mapPeer_peers_length (i : Nat) (f : Peer → Peer) (s : State) :
    (s.mapPeer i f).peers.length = s.peers.length := by
  unfold State.mapPeer; split <;> simp

/-! ### Claim decisions (R113, R114) -/

/-- R114: a claim decision answers the prospective claim level. -/
theorem claimDecision_level (s : State) : (claimDecision s).2 = prospectiveLevel s.tsc := rfl

/-- R113: after a claim decision the level reported is the one the next decision would give. -/
theorem claimDecision_fresh (s : State) :
    (claimDecision s).1.tsc.prospective = prospectiveLevel (claimDecision s).1.tsc := rfl

/-- What a report of the prospective claim level can do: nothing, the report alone, or the opening of
a claim period (R40, R113). -/
theorem recompute_cases (s : State) :
    (prospectiveLevel s.tsc = s.tsc.prospective ∧ recompute s = s) ∨
    (prospectiveLevel s.tsc ≠ s.tsc.prospective ∧
      ((recompute s = s.mapTsc fun t => { t with prospective := prospectiveLevel s.tsc }) ∨
       (s.clc.medium = .idle ∧ s.clc.quietFlag = true ∧ s.isOnline = true ∧
        recompute s = openClaim s.now
          (s.mapTsc fun t => { t with prospective := prospectiveLevel s.tsc })))) := by
  by_cases h : prospectiveLevel s.tsc = s.tsc.prospective
  · exact .inl ⟨h, by simp [recompute, h]⟩
  · refine .inr ⟨h, ?_⟩
    unfold recompute
    rw [if_neg h]
    dsimp only
    split
    · exact .inl rfl
    · split
      · rename_i hc
        exact .inr ⟨hc.1, hc.2.1, hc.2.2, rfl⟩
      · exact .inl rfl

/-- R40: a report opens no claim period outside IDLE, with the quiet flag clear, or at a station that is not
ONLINE. -/
theorem recompute_of_noClaim {s : State} (h : NoClaimOpens s) :
    recompute s = s.mapTsc fun t => { t with prospective := prospectiveLevel s.tsc } := by
  rcases recompute_cases s with ⟨he, hr⟩ | ⟨-, hr | ⟨hm, hq, ho, -⟩⟩
  · rw [hr, he]; rfl
  · exact hr
  · rcases h with h | h | h
    · exact absurd hm h
    · simp [hq] at h
    · exact absurd (of_decide_eq_true ho) h

/-- R40: outside IDLE a report opens no claim period. -/
theorem recompute_of_not_idle {s : State} (h : s.clc.medium ≠ .idle) :
    recompute s = s.mapTsc fun t => { t with prospective := prospectiveLevel s.tsc } :=
  recompute_of_noClaim (.inl h)

/-- R40: in IDLE with the quiet flag set, a new level reported at a station ONLINE is claimed for at
once. -/
theorem recompute_of_claim {s : State} {l : Nat} (hm : s.clc.medium = .idle) (hq : s.clc.quietFlag = true)
    (ho : s.suc.station = .online) (hp : prospectiveLevel s.tsc = some l)
    (hn : s.tsc.prospective ≠ some l) :
    recompute s = startMark s.now l
      (claimDecision (s.mapTsc fun t => { t with prospective := some l })).1 := by
  have hd : claimDecision (s.mapTsc fun t => { t with prospective := some l }) =
      ((claimDecision (s.mapTsc fun t => { t with prospective := some l })).1, some l) := Prod.ext rfl hp
  simp only [recompute, hp]
  rw [if_neg fun h => hn h.symm, if_pos ⟨hm, hq, decide_eq_true ho⟩, openClaim, hd]
  rfl

/-! ### Tables -/

/-- What `vacate` leaves of a table: the entries that do not satisfy `p`, where they stand. -/
theorem vacate_eq_filter {α : Type} (p : α → Bool) (l : List (Option α)) :
    vacate p l = l.map fun e => e.filter fun e => !p e := by
  unfold vacate
  congr
  funext e
  cases e with
  | none => rfl
  | some e => cases h : p e <;> simp [Option.filter, h]

/-! ### Energy in progress (R39, R43) -/

/-- `listensIn` is the rule's listening interval. -/
theorem listensIn_iff (m u : Time) (w : BitVec 8) :
    listensIn w (slotOf m u) = true ↔ ListensAt m u w := by
  unfold listensIn
  simp only [and_assoc, Bool.and_eq_true, decide_eq_true_eq, Bool.not_eq_true']
  exact Iff.rfl

/-- The mark slot has no part in a claim period. -/
theorem markHeard_claiming {c : Clc} (h : c.medium = .claiming) (n : Nat) (t : Time) :
    markHeard n t c = c := if_neg fun e => absurd (h.symm.trans e.1) (by decide)

/-- A station that energy in progress has put OUT is OUT. -/
theorem lapse_caught {s : State} (h : Caught s.now s) :
    lapse s = s.mapClc fun c => { c with claim := .out } := by
  obtain ⟨hm, hc, e, m, w, he, hne, hs, hw, hl⟩ := h
  have hh : heardAt (s.now - 1) s.clc = { s.clc with claim := .out } := by
    simp only [heardAt, hm, hc, hs, hw]
    rw [if_pos ((listensIn_iff m _ w).2 hl)]
  simp only [lapse, he, if_neg hne, State.mapClc, hh]
  rw [markHeard_claiming (by exact hm)]

/-- In a claim period energy in progress changes nothing else. -/
theorem lapse_uncaught {s : State} (hm : s.clc.medium = .claiming) (h : ¬Caught s.now s) :
    lapse s = s := by
  unfold lapse
  split
  · rename_i e he
    split
    · rfl
    · rename_i hne
      suffices heardAt (s.now - 1) s.clc = s.clc by
        simp only [State.mapClc, this, markHeard_claiming hm]
      unfold heardAt
      split
      · rename_i m w _ hc hs hw
        rw [if_neg fun hl => h ⟨hm, hc, e, m, w, he, hne, hs, hw, (listensIn_iff m _ w).1 hl⟩]
      · rfl
  · rfl

/-- In a claim period `outByEnergy` says that energy in progress has put the station OUT. -/
theorem outByEnergy_iff {s : State} (hm : s.clc.medium = .claiming) :
    outByEnergy s = true ↔ Caught s.now s := by
  by_cases h : Caught s.now s
  · simp [outByEnergy, lapse_caught h, h, State.mapClc, h.2.1]
  · simp [outByEnergy, lapse_uncaught hm h, h]

/-- R32, R43: a station that sends keeps a report back, unless energy in progress has put it OUT. -/
theorem energyReport_sending {s : State} (a b : Bool) (h : sendsAt s.clc s.now = true)
    (hc : ¬Caught s.now s) : energyReport a b s = s := by
  have hm : s.clc.medium = .claiming := by
    unfold sendsAt at h
    split at h
    · assumption
    · exact absurd h (by simp)
  unfold energyReport
  split
  · rfl
  · simp only [lapse_uncaught hm hc]
    rw [if_pos h]

/-! ### Egress (R155) -/

/-- A choice starts a frame from IDLE, outside a pause, or nothing. -/
theorem egressChoice_cases (s : State) :
    egressChoice s = s ∨
    (s.ptu.egress = .idle ∧ pauseHolds s.now s.ptu = false ∧
      egressChoice s = s.mapPtu startNext) := by
  by_cases h : s.ptu.egress = .idle ∧ pauseHolds s.now s.ptu = false
  · exact .inr ⟨h.1, h.2, by simp [egressChoice, State.mapPtu, h]⟩
  · refine .inl ?_
    simp only [egressChoice, State.mapPtu, if_neg h]

/-! ### Requests (R164) -/

/-- A request is taken only from the head of the queue, with no request in service and no RESTART
outstanding; otherwise nothing happens. -/
theorem takeRequest_cases (kind : Byte → Bool) (act : Request → State → State) (s : State) :
    takeRequest kind act s = s ∨
    ∃ r rest, s.mgu.queue = r :: rest ∧ kind r.code = true ∧ s.mgu.service = none ∧
      s.mgu.restart = .none ∧
      takeRequest kind act s = act r (s.mapMgu fun m => { m with queue := rest }) := by
  unfold takeRequest
  split
  · exact .inl rfl
  · rename_i r rest hq
    split
    · rename_i h
      exact .inr ⟨r, rest, hq, h.1, h.2.1, h.2.2, rfl⟩
    · exact .inl rfl

end Sys2Proof.Machine
end

