-- ==== Sys2Proof/Laws/PerInstr.lean ====
section
/-! SUPPORT. The family Timed: when a command is taken has no part in whether its operands are within
their ranges. -/

namespace Sys2Proof.Laws.Timed

/-- The same command, taken at `t`. -/
def withTime (t : Time) : Instr → Instr
  | .qualifiedCrossing _ => .qualifiedCrossing t
  | .acquiringTimeout _ => .acquiringTimeout t
  | .holdoverInstant _ => .holdoverInstant t
  | .lossInstant _ => .lossInstant t
  | .energyReport _ onA onB => .energyReport t onA onB
  | .quietReport _ => .quietReport t
  | .gapTailCheck _ => .gapTailCheck t
  | .openingInstant _ => .openingInstant t
  | .markSlotListenEnd _ => .markSlotListenEnd t
  | .claimBitSlot _ => .claimBitSlot t
  | .claimPeriodEnd _ => .claimPeriodEnd t
  | .burstStart _ => .burstStart t
  | .hiddenWinnerDeadline _ => .hiddenWinnerDeadline t
  | .occupancyEnd _ => .occupancyEnd t
  | .burstDetected _ start onA onB snrA snrB => .burstDetected t start onA onB snrA snrB
  | .headerOutcome _ heard => .headerOutcome t heard
  | .reviewComplete _ idx => .reviewComplete t idx
  | .blockHanded _ heard => .blockHanded t heard
  | .rxPayloadEnd _ => .rxPayloadEnd t
  | .sendReceipt _ => .sendReceipt t
  | .receiptEnd _ => .receiptEnd t
  | .ownPayloadEnd _ => .ownPayloadEnd t
  | .receiptSlotEnd _ heard => .receiptSlotEnd t heard
  | .silenceInstant _ idx => .silenceInstant t idx
  | .mapSetLifetime _ idx => .mapSetLifetime t idx
  | .lastUnicastExpiry _ idx => .lastUnicastExpiry t idx
  | .lastNoticeExpiry _ idx => .lastNoticeExpiry t idx
  | .robustResendExpiry _ idx => .robustResendExpiry t idx
  | .frameExpiry _ kind desc => .frameExpiry t kind desc
  | .reassemblyTimeout _ pos => .reassemblyTimeout t pos
  | .portFrameReceived _ bytes rxError => .portFrameReceived t bytes rxError
  | .pauseEnd _ => .pauseEnd t
  | .forwardingAging _ pos => .forwardingAging t pos
  | .egressLastByte _ => .egressLastByte t
  | .egressGapEnd _ => .egressGapEnd t
  | .replyPlaced _ => .replyPlaced t
  | .nrstAssert _ => .nrstAssert t
  | .hardwareReset _ strap => .hardwareReset t strap
  | .flashReadStart _ => .flashReadStart t
  | .flashReadEnd _ bytes => .flashReadEnd t bytes
  | .identify _ => .identify t
  | .status _ => .status t
  | .eventMask _ => .eventMask t
  | .floor _ => .floor t
  | .peerList _ => .peerList t
  | .peerDetail _ => .peerDetail t
  | .configLoad _ => .configLoad t
  | .restart _ => .restart t
  | .unknownRequest _ => .unknownRequest t
  | .restartTaken _ => .restartTaken t
  | .zcSample _ level => .zcSample t level
  | .ingressBlockDraw _ stretch rxError => .ingressBlockDraw t stretch rxError

/-- The instant is one operand apart from the others. -/
def Statement (i : Instr) : Prop :=
  ∀ t, (withTime t i).time = t ∧ (withTime t i).wellFormed = i.wellFormed ∧ withTime i.time i = i

theorem qualifiedCrossing (t : Time) : Statement (.qualifiedCrossing t) := fun _ => ⟨rfl, rfl, rfl⟩
theorem acquiringTimeout (t : Time) : Statement (.acquiringTimeout t) := fun _ => ⟨rfl, rfl, rfl⟩
theorem holdoverInstant (t : Time) : Statement (.holdoverInstant t) := fun _ => ⟨rfl, rfl, rfl⟩
theorem lossInstant (t : Time) : Statement (.lossInstant t) := fun _ => ⟨rfl, rfl, rfl⟩
theorem energyReport (t : Time) (onA onB : Bool) :
    Statement (.energyReport t onA onB) := fun _ => ⟨rfl, rfl, rfl⟩
theorem quietReport (t : Time) : Statement (.quietReport t) := fun _ => ⟨rfl, rfl, rfl⟩
theorem gapTailCheck (t : Time) : Statement (.gapTailCheck t) := fun _ => ⟨rfl, rfl, rfl⟩
theorem openingInstant (t : Time) : Statement (.openingInstant t) := fun _ => ⟨rfl, rfl, rfl⟩
theorem markSlotListenEnd (t : Time) : Statement (.markSlotListenEnd t) := fun _ => ⟨rfl, rfl, rfl⟩
theorem claimBitSlot (t : Time) : Statement (.claimBitSlot t) := fun _ => ⟨rfl, rfl, rfl⟩
theorem claimPeriodEnd (t : Time) : Statement (.claimPeriodEnd t) := fun _ => ⟨rfl, rfl, rfl⟩
theorem burstStart (t : Time) : Statement (.burstStart t) := fun _ => ⟨rfl, rfl, rfl⟩
theorem hiddenWinnerDeadline (t : Time) :
    Statement (.hiddenWinnerDeadline t) := fun _ => ⟨rfl, rfl, rfl⟩
theorem occupancyEnd (t : Time) : Statement (.occupancyEnd t) := fun _ => ⟨rfl, rfl, rfl⟩
theorem burstDetected (t start : Time) (onA onB : Bool) (snrA snrB : List Int) :
    Statement (.burstDetected t start onA onB snrA snrB) := fun _ => ⟨rfl, rfl, rfl⟩
theorem headerOutcome (t : Time) (heard : HeaderHeard) :
    Statement (.headerOutcome t heard) := fun _ => ⟨rfl, rfl, rfl⟩
theorem reviewComplete (t : Time) (idx : Nat) :
    Statement (.reviewComplete t idx) := fun _ => ⟨rfl, rfl, rfl⟩
theorem blockHanded (t : Time) (heard : SymbolsHeard) :
    Statement (.blockHanded t heard) := fun _ => ⟨rfl, rfl, rfl⟩
theorem rxPayloadEnd (t : Time) : Statement (.rxPayloadEnd t) := fun _ => ⟨rfl, rfl, rfl⟩
theorem sendReceipt (t : Time) : Statement (.sendReceipt t) := fun _ => ⟨rfl, rfl, rfl⟩
theorem receiptEnd (t : Time) : Statement (.receiptEnd t) := fun _ => ⟨rfl, rfl, rfl⟩
theorem ownPayloadEnd (t : Time) : Statement (.ownPayloadEnd t) := fun _ => ⟨rfl, rfl, rfl⟩
theorem receiptSlotEnd (t : Time) (heard : Option ReceiptHeard) :
    Statement (.receiptSlotEnd t heard) := fun _ => ⟨rfl, rfl, rfl⟩
theorem silenceInstant (t : Time) (idx : Nat) :
    Statement (.silenceInstant t idx) := fun _ => ⟨rfl, rfl, rfl⟩
theorem mapSetLifetime (t : Time) (idx : Nat) :
    Statement (.mapSetLifetime t idx) := fun _ => ⟨rfl, rfl, rfl⟩
theorem lastUnicastExpiry (t : Time) (idx : Nat) :
    Statement (.lastUnicastExpiry t idx) := fun _ => ⟨rfl, rfl, rfl⟩
theorem lastNoticeExpiry (t : Time) (idx : Nat) :
    Statement (.lastNoticeExpiry t idx) := fun _ => ⟨rfl, rfl, rfl⟩
theorem robustResendExpiry (t : Time) (idx : Nat) :
    Statement (.robustResendExpiry t idx) := fun _ => ⟨rfl, rfl, rfl⟩
theorem frameExpiry (t : Time) (kind : FrameKind) (desc : Nat) :
    Statement (.frameExpiry t kind desc) := fun _ => ⟨rfl, rfl, rfl⟩
theorem reassemblyTimeout (t : Time) (pos : Nat) :
    Statement (.reassemblyTimeout t pos) := fun _ => ⟨rfl, rfl, rfl⟩
theorem portFrameReceived (t : Time) (bytes : List Byte) (rxError : Bool) :
    Statement (.portFrameReceived t bytes rxError) := fun _ => ⟨rfl, rfl, rfl⟩
theorem pauseEnd (t : Time) : Statement (.pauseEnd t) := fun _ => ⟨rfl, rfl, rfl⟩
theorem forwardingAging (t : Time) (pos : Nat) :
    Statement (.forwardingAging t pos) := fun _ => ⟨rfl, rfl, rfl⟩
theorem egressLastByte (t : Time) : Statement (.egressLastByte t) := fun _ => ⟨rfl, rfl, rfl⟩
theorem egressGapEnd (t : Time) : Statement (.egressGapEnd t) := fun _ => ⟨rfl, rfl, rfl⟩
theorem replyPlaced (t : Time) : Statement (.replyPlaced t) := fun _ => ⟨rfl, rfl, rfl⟩
theorem nrstAssert (t : Time) : Statement (.nrstAssert t) := fun _ => ⟨rfl, rfl, rfl⟩
theorem hardwareReset (t : Time) (strap : Strap) :
    Statement (.hardwareReset t strap) := fun _ => ⟨rfl, rfl, rfl⟩
theorem flashReadStart (t : Time) : Statement (.flashReadStart t) := fun _ => ⟨rfl, rfl, rfl⟩
theorem flashReadEnd (t : Time) (bytes : List Byte) :
    Statement (.flashReadEnd t bytes) := fun _ => ⟨rfl, rfl, rfl⟩
theorem identify (t : Time) : Statement (.identify t) := fun _ => ⟨rfl, rfl, rfl⟩
theorem status (t : Time) : Statement (.status t) := fun _ => ⟨rfl, rfl, rfl⟩
theorem eventMask (t : Time) : Statement (.eventMask t) := fun _ => ⟨rfl, rfl, rfl⟩
theorem floor (t : Time) : Statement (.floor t) := fun _ => ⟨rfl, rfl, rfl⟩
theorem peerList (t : Time) : Statement (.peerList t) := fun _ => ⟨rfl, rfl, rfl⟩
theorem peerDetail (t : Time) : Statement (.peerDetail t) := fun _ => ⟨rfl, rfl, rfl⟩
theorem configLoad (t : Time) : Statement (.configLoad t) := fun _ => ⟨rfl, rfl, rfl⟩
theorem restart (t : Time) : Statement (.restart t) := fun _ => ⟨rfl, rfl, rfl⟩
theorem unknownRequest (t : Time) : Statement (.unknownRequest t) := fun _ => ⟨rfl, rfl, rfl⟩
theorem restartTaken (t : Time) : Statement (.restartTaken t) := fun _ => ⟨rfl, rfl, rfl⟩
theorem zcSample (t : Time) (level : ZcLevel) :
    Statement (.zcSample t level) := fun _ => ⟨rfl, rfl, rfl⟩
theorem ingressBlockDraw (t : Time) (stretch : List Byte) (rxError : Bool) :
    Statement (.ingressBlockDraw t stretch rxError) := fun _ => ⟨rfl, rfl, rfl⟩

end Sys2Proof.Laws.Timed
end

