-- ==== Sys2Proof/Laws/Signals.lean ====
section
/-! SUPPORT. Symbols are read back as they were sent, when nothing disturbs them on the chosen paths and
the receiver has the sender's notch mask. -/

namespace Sys2Proof.Machine

/-! ### Numbers and bits -/

theorem foldl_bits (n : Nat) (b : List Bool) :
    b.foldl (fun a b => 2 * a + b.toNat) n = n * 2 ^ b.length + bitsNat b := by
  induction b generalizing n with
  | nil => simp [bitsNat]
  | cons x xs ih =>
    rw [bitsNat, List.foldl_cons, List.foldl_cons, ih, ih (2 * 0 + x.toNat), List.length_cons]
    ring

theorem bitsNat_append (a b : List Bool) : bitsNat (a ++ b) = bitsNat a * 2 ^ b.length + bitsNat b := by
  rw [bitsNat, List.foldl_append, foldl_bits]
  rfl

theorem bitsNat_lt (bs : List Bool) : bitsNat bs < 2 ^ bs.length := by
  induction bs using List.reverseRecOn with
  | nil => simp [bitsNat]
  | append_singleton xs x ih =>
    rw [bitsNat_append]
    simp only [bitsNat, List.foldl_cons, List.foldl_nil, List.length_append, List.length_cons,
      List.length_nil] at *
    cases x <;> simp <;> omega

/-- The bits of the number that bits spell are those bits. -/
theorem natBits_bitsNat (bs : List Bool) : natBits bs.length (bitsNat bs) = bs := by
  induction bs with
  | nil => rfl
  | cons x xs ih =>
    have hx := bitsNat_lt xs
    have hc : bitsNat (x :: xs) = x.toNat * 2 ^ xs.length + bitsNat xs := by
      rw [show x :: xs = [x] ++ xs from rfl, bitsNat_append]
      simp [bitsNat]
    have hx' := hx
    simp only [natBits] at ih
    simp only [natBits, List.length_cons, List.range_succ_eq_map, List.map_cons, List.map_map,
      Nat.add_sub_cancel, Nat.sub_zero]
    congr 1
    · rw [hc, Nat.testBit_eq_decide_div_mod_eq, Nat.add_comm, Nat.add_mul_div_right _ _ (by positivity),
        Nat.div_eq_of_lt hx]
      cases x <;> rfl
    · rw [← ih]
      simp only [List.length_map, List.length_range]
      apply List.map_congr_left
      intro i hi
      have hi : i < xs.length := List.mem_range.1 hi
      simp only [Function.comp_apply]
      rw [ih, hc, show xs.length - (i + 1) = xs.length - 1 - i by omega, Nat.add_comm,
        Nat.mul_comm, Nat.add_comm]
      exact Nat.testBit_two_pow_mul_add _ hx' _ |>.trans (by simp; omega)

theorem natBits_length (w n : Nat) : (natBits w n).length = w := by simp [natBits]

/-- The number that a number's bits spell is that number. -/
theorem bitsNat_natBits {w n : Nat} (h : n < 2 ^ w) : bitsNat (natBits w n) = n := by
  apply Nat.eq_of_testBit_eq
  intro i
  have hl := natBits_length w n
  have he := natBits_bitsNat (natBits w n)
  rw [hl] at he
  by_cases hi : i < w
  · have h1 := congrArg (fun l => l[w - 1 - i]?) he
    simp only [natBits, List.getElem?_map] at h1
    rw [List.getElem?_range (by omega)] at h1
    simp only [Option.map_some, Option.some.injEq] at h1
    rw [show w - 1 - (w - 1 - i) = i by omega] at h1
    exact h1
  · have hb : bitsNat (natBits w n) < 2 ^ w := by
      have := bitsNat_lt (natBits w n); rwa [hl] at this
    have hw : 2 ^ w ≤ 2 ^ i := Nat.pow_le_pow_right (by omega) (by omega)
    rw [Nat.testBit_lt_two_pow (by omega), Nat.testBit_lt_two_pow (by omega)]

/-! ### The codes -/

theorem fitTo_length {α : Type} (n : Nat) (x : α) (l : List α) : (fitTo n x l).length = n := by
  simp [fitTo]

theorem codeWord_length (code : (n : Nat) → Equiv.Perm (BitVec n)) (n : Nat) (data : List Bool) :
    (codeWord code n data).length = n := natBits_length _ _

/-- Whatever the code is, data bits are decoded from their own codeword. -/
theorem decodeWord_codeWord (code : (n : Nat) → Equiv.Perm (BitVec n))
    (guess : List Bool → Nat → Bool) {n k : Nat} {data : List Bool} (hk : data.length = k)
    (hn : k ≤ n) : decodeWord code guess n k (codeWord code n data) = data := by
  have hf := fitTo_length n false data
  have hlt : bitsNat (fitTo n false data) < 2 ^ n := by
    have := bitsNat_lt (fitTo n false data); rwa [hf] at this
  have hfit : fitTo n false data = data ++ List.replicate (n - k) false := by
    simp [fitTo, List.take_append, hk, List.take_of_length_le (by omega : data.length ≤ n)]
  have hd : natBits n ((code n).symm (BitVec.ofNat n (bitsNat (codeWord code n data)))).toNat =
      data ++ List.replicate (n - k) false := by
    rw [codeWord, bitsNat_natBits (BitVec.isLt _), BitVec.ofNat_toNat, BitVec.setWidth_eq,
      Equiv.symm_apply_apply, BitVec.toNat_ofNat, Nat.mod_eq_of_lt hlt, ← hfit]
    have := natBits_bitsNat (fitTo n false data)
    rwa [hf] at this
  unfold decodeWord
  rw [hd]
  simp [← hk]

/-! ### The robust map -/

theorem combineFour_repeat (b : Bool) : combineFour [[b], [b], [b], [b]] = b := by
  cases b <;> simp [combineFour, List.replicate]

/-- Four coded bits are read back from their group. -/
theorem groupCoded_repeatFour (a b c d : Bool) :
    groupCoded (repeatFour [a, b, c, d]) = [a, b, c, d] := by
  simp [groupCoded, repeatFour, List.range_succ, combineFour_repeat]

theorem groupsOn_cons (n : Bool) (notch : List Bool) :
    groupsOn (n :: notch) = (if n then 0 else 1) + groupsOn notch := by
  cases n <;> simp [groupsOn, Nat.add_comm]

theorem asHeard_cons (g : GroupSignal) (s : Symbol) : asHeard (g :: s) = g.carrierBits :: asHeard s := rfl

/-- Coded bits are read back from the groups that are not notched. -/
theorem gatherRobust_placeRobust (notch coded : List Bool) (h : coded.length = 4 * groupsOn notch) :
    gatherRobust notch (asHeard (placeRobust notch coded)) = coded := by
  induction notch generalizing coded with
  | nil => simpa [groupsOn, gatherRobust, eq_comm] using h
  | cons n notch ih =>
    rw [groupsOn_cons] at h
    cases n with
    | true => simpa [placeRobust, gatherRobust, asHeard_cons] using ih coded (by simpa using h)
    | false =>
      match coded, h with
      | a :: b :: c :: d :: rest, h =>
        have := ih rest (by simp at h; omega)
        simp [placeRobust, gatherRobust, asHeard_cons, GroupSignal.carrierBits,
          groupCoded_repeatFour, this]
      | [], h | [_], h | [_, _], h | [_, _, _], h => simp at h <;> omega

/-! ### Window maps -/

/-- What is written in pieces of one length is read back. -/
theorem pieces_append {α : Type} (b n : Nat) (x : α) (l : List α) (h : n * b ≤ l.length) :
    ((List.range n).flatMap fun k => fitTo b x ((l.drop (b * k)).take b)) = l.take (b * n) := by
  induction n with
  | zero => simp
  | succ n ih =>
    rw [Nat.succ_mul] at h
    have hb : b * n ≤ l.length := by rw [Nat.mul_comm]; omega
    have hp : fitTo b x ((l.drop (b * n)).take b) = (l.drop (b * n)).take b := by
      have : ((l.drop (b * n)).take b).length = b := by
        rw [List.length_take, List.length_drop, Nat.mul_comm b n]; omega
      simp [fitTo, this]
    rw [List.range_succ, List.flatMap_append, ih (by omega), List.flatMap_singleton, hp,
      Nat.mul_succ, List.take_add]

/-- Coded bits are read back from the groups with a loading. -/
theorem gatherLoads_placeLoads (loads : List Nat) (coded : List Bool)
    (h : coded.length = rawBits loads) : gatherLoads loads (asHeard (placeLoads loads coded)) = coded := by
  induction loads generalizing coded with
  | nil => simpa [rawBits, gatherLoads, eq_comm] using h
  | cons b loads ih =>
    cases b with
    | zero => simpa [placeLoads, gatherLoads, asHeard_cons] using ih coded (by simpa [rawBits] using h)
    | succ b =>
      have hl : coded.length = 16 * (b + 1) + rawBits loads := by
        simpa [rawBits, Nat.mul_add] using h
      have hr := ih (coded.drop (16 * (b + 1))) (by rw [List.length_drop]; omega)
      have hp := pieces_append (b + 1) 16 false coded (by omega)
      simp only [placeLoads, gatherLoads, asHeard_cons, GroupSignal.carrierBits, List.tail_cons,
        List.headD_cons, hr]
      have he : ∀ k ∈ List.range 16, carrierCoded (b + 1) (((List.range 16).map fun k =>
          (coded.drop ((b + 1) * k)).take (b + 1)).getD k []) =
          fitTo (b + 1) false ((coded.drop ((b + 1) * k)).take (b + 1)) := by
        intro k hk
        have hk := List.mem_range.1 hk
        have hw : ((coded.drop ((b + 1) * k)).take (b + 1)).length = b + 1 := by
          have := Nat.mul_le_mul_left (b + 1) (show k + 1 ≤ 16 from hk)
          rw [List.length_take, List.length_drop]
          rw [Nat.mul_succ] at this
          omega
        simp [List.getD_eq_getElem?_getD, hk, carrierCoded, fitTo, hw]
      rw [List.flatMap_congr he, hp, Nat.mul_comm (b + 1) 16, List.take_append_drop]

/-- The loadings of a map that notches nothing it loads. -/
theorem maskLoads_eq {notch : List Bool} {loads : List Nat} (hl : loads.length = notch.length)
    (h : ∀ g, notch.getD g false = true → loads.getD g 0 = 0) : maskLoads notch loads = loads := by
  induction notch generalizing loads with
  | nil => cases loads <;> simp_all [maskLoads]
  | cons n notch ih =>
    match loads, hl with
    | b :: loads, hl =>
      have h0 := h 0
      have hr := ih (loads := loads) (by simpa using hl) fun g hg => by
        have := h (g + 1)
        simp only [List.getD_cons_succ] at this
        exact this hg
      simp only [maskLoads] at hr ⊢
      cases n <;> simp_all

/-! ### Symbols on a map -/

/-- A symbol is read back. -/
theorem readSymbol_mapSymbol {notch : List Bool} {map : PayloadMap} (hm : map.fits notch)
    {data : List Bool} (hd : data.length = map.bits (groupsOn notch)) :
    readSymbol notch map (asHeard (mapSymbol notch map data)) = data := by
  cases map with
  | robust =>
    simp only [readSymbol, readRobust, mapSymbol, robustSymbol]
    rw [gatherRobust_placeRobust _ _ (codeWord_length _ _ _)]
    exact decodeWord_codeWord _ _ hd (by simp only [robustBits]; omega)
  | window loads =>
    simp only [readSymbol, readWindow, mapSymbol, windowSymbol]
    rw [maskLoads_eq hm.1 hm.2, gatherLoads_placeLoads _ _ (codeWord_length _ _ _)]
    exact decodeWord_codeWord _ _ hd (by simp only [dataBits]; omega)

theorem placeRobust_length (notch coded : List Bool) :
    (placeRobust notch coded).length = notch.length := by
  induction notch generalizing coded with
  | nil => rfl
  | cons n notch ih => cases n <;> simp [placeRobust, ih]

theorem placeLoads_length (loads : List Nat) (coded : List Bool) :
    (placeLoads loads coded).length = loads.length := by
  induction loads generalizing coded with
  | nil => rfl
  | cons b loads ih => cases b <;> simp [placeLoads, ih]

theorem mapSymbol_length {notch : List Bool} {map : PayloadMap} (hm : map.fits notch)
    (data : List Bool) : (mapSymbol notch map data).length = notch.length := by
  cases map with
  | robust => exact placeRobust_length _ _
  | window loads =>
    simp only [mapSymbol, windowSymbol, placeLoads_length, maskLoads_eq hm.1 hm.2, hm.1]

/-- R23: a symbol that the chosen path of each group gives undisturbed is taken whole, whatever the other
path gives. -/
theorem fromPaths_eq {choice : List RxPath} {onA onB symbol : HeardSymbol}
    (hl : symbol.length = groupCount)
    (h : ∀ g, g < groupCount → (match choice.getD g .a with | .a => onA | .b => onB).getD g [] =
      symbol.getD g []) : fromPaths choice onA onB = symbol := by
  apply List.ext_getElem
  · simp [fromPaths, hl]
  · intro g hg hg'
    have hg : g < groupCount := by simpa [fromPaths] using hg
    have := h g hg
    simp only [fromPaths, List.getElem_map, List.getElem_range]
    rw [List.getD_eq_getElem _ _ hg'] at this
    rw [← this]
    split <;> simp_all

/-- What a path gives of a group is what the symbol taken from the paths has there. -/
theorem fromPaths_getD (choice : List RxPath) (onA onB : HeardSymbol) {g : Nat} (hg : g < groupCount) :
    (fromPaths choice onA onB).getD g [] =
      (match choice.getD g .a with | .a => onA | .b => onB).getD g [] := by
  simp only [fromPaths, List.getD_eq_getElem?_getD, List.getElem?_map, List.getElem?_range hg,
    Option.map_some, Option.getD_some]
  cases choice[g]?.getD .a <;> rfl

/-- A symbol that is heard on the chosen paths is taken as it was sent. -/
theorem chosenSymbol_heardOn {choice : List RxPath} {symbols : List Symbol} {heard : SymbolsHeard}
    (hh : HeardOn choice symbols heard) {i : Nat} (hi : i < symbols.length)
    (hl : (symbols.getD i []).length = groupCount) :
    chosenSymbol choice heard i = asHeard (symbols.getD i []) := by
  refine fromPaths_eq (by simpa [asHeard] using hl) fun g hg => ?_
  rw [← hh i g hi hg]
  cases choice.getD g .a <;> rfl

/-! ### Silence (R128) -/

/-- A group that is not notched carries something on the robust map. -/
theorem placeRobust_used {notch coded : List Bool} (h : coded.length = 4 * groupsOn notch) {g : Nat}
    (hg : notch[g]? = some false) : ∃ c ∈ (asHeard (placeRobust notch coded)).getD g [], c ≠ [] := by
  induction notch generalizing coded g with
  | nil => simp at hg
  | cons n notch ih =>
    rw [groupsOn_cons] at h
    cases n with
    | true => cases g with
      | zero => simp at hg
      | succ g => simpa [placeRobust, asHeard_cons] using ih (by simpa using h) (by simpa using hg)
    | false => cases g with
      | zero => match coded, h with
        | b :: rest, _ => exact ⟨[b], by
            simp [placeRobust, asHeard_cons, GroupSignal.carrierBits, repeatFour], by simp⟩
        | [], h => simp at h
      | succ g =>
        have := ih (coded := coded.drop 4) (by rw [List.length_drop]; simp at h; omega)
          (by simpa using hg)
        simpa [placeRobust, asHeard_cons] using this

/-- A group with a loading carries something on a window map. -/
theorem placeLoads_used {loads : List Nat} {coded : List Bool} (h : coded.length = rawBits loads)
    {g b : Nat} (hg : loads[g]? = some (b + 1)) :
    ∃ c ∈ (asHeard (placeLoads loads coded)).getD g [], c ≠ [] := by
  induction loads generalizing coded g with
  | nil => simp at hg
  | cons l loads ih =>
    cases l with
    | zero => cases g with
      | zero => simp at hg
      | succ g => simpa [placeLoads, asHeard_cons] using ih (by simpa [rawBits] using h) (by simpa using hg)
    | succ l =>
      have hl : coded.length = 16 * (l + 1) + rawBits loads := by
        simpa [rawBits, Nat.mul_add] using h
      cases g with
      | zero =>
        refine ⟨coded.take (l + 1), ?_, ?_⟩
        · simp only [placeLoads, asHeard_cons, GroupSignal.carrierBits, List.getD_cons_zero,
            List.mem_map, List.mem_range]
          exact ⟨0, by omega, by simp⟩
        · intro e
          have := congrArg List.length e
          rw [List.length_take, List.length_nil] at this
          omega
      | succ g =>
        have := ih (coded := coded.drop (16 * (l + 1))) (by rw [List.length_drop]; omega)
          (by simpa using hg)
        simpa [placeLoads, asHeard_cons] using this

/-- A symbol that carries data bits is not silent. -/
theorem symbolSilent_mapSymbol {notch : List Bool} {map : PayloadMap} (hm : map.fits notch)
    (hn : notch.length = groupCount) (hb : 1 ≤ map.bits (groupsOn notch)) (data : List Bool) :
    symbolSilent notch map (asHeard (mapSymbol notch map data)) = false := by
  rw [symbolSilent, List.all_eq_false]
  cases map with
  | robust =>
    have hp : 0 < groupsOn notch := by simp [PayloadMap.bits, robustBits] at hb; omega
    obtain ⟨x, hx⟩ := List.length_pos_iff_exists_mem.1 hp
    obtain ⟨hx, hf⟩ := List.mem_filter.1 hx
    obtain ⟨g, hg, rfl⟩ := List.getElem_of_mem hx
    have hg' : notch[g]? = some false := by
      rw [List.getElem?_eq_getElem hg]; simpa using hf
    obtain ⟨c, hc, hne⟩ := placeRobust_used (codeWord_length Config.robustCode
      (4 * groupsOn notch) data) hg'
    refine ⟨g, List.mem_range.2 (hn ▸ hg), ?_⟩
    simp only [groupUsed, List.getD_eq_getElem?_getD, hg', mapSymbol, robustSymbol]
    simp only [List.getD_eq_getElem?_getD] at hc
    simpa using ⟨c, hc, hne⟩
  | window loads =>
    have hs : loads.sum ≠ 0 := by
      intro e
      simp [PayloadMap.bits, dataBits, rawBits, e] at hb
    have : ∃ b ∈ loads, b ≠ 0 := by
      by_contra hne
      exact hs (List.sum_eq_zero fun b hb => by by_contra hb'; exact hne ⟨b, hb, hb'⟩)
    obtain ⟨b, hbm, hb0⟩ := this
    obtain ⟨g, hg, rfl⟩ := List.getElem_of_mem hbm
    have hg' : loads[g]? = some (loads[g] - 1 + 1) := by
      rw [List.getElem?_eq_getElem hg]; congr 1; omega
    have hl : loads.getD g 0 ≠ 0 := by
      rw [List.getD_eq_getElem _ _ hg]; exact hb0
    have hoff : notch.getD g false = false := by
      cases e : notch.getD g false with
      | false => rfl
      | true => exact absurd (hm.2 g e) hl
    obtain ⟨c, hc, hne⟩ := placeLoads_used (codeWord_length Config.windowCode (rawBits loads) data) hg'
    refine ⟨g, List.mem_range.2 (by have := hm.1; omega), ?_⟩
    simp only [groupUsed, hoff, mapSymbol, windowSymbol, maskLoads_eq hm.1 hm.2]
    have hl' : loads[g]?.getD 0 ≠ 0 := by simpa [List.getD_eq_getElem?_getD] using hl
    simp only [List.getD_eq_getElem?_getD] at hc
    simpa [hl'] using ⟨c, hc, hne⟩

/-- Symbols that carry data bits and are heard on the chosen paths are not silent. -/
theorem symbolSilent_heardOn {notch : List Bool} {map : PayloadMap} (hm : map.fits notch)
    (hn : notch.length = groupCount) (hb : 1 ≤ map.bits (groupsOn notch)) {k : Nat} {data : List Bool}
    {choice : List RxPath} {heard : SymbolsHeard}
    (hh : HeardOn choice (mapSymbols notch map k data) heard) {i : Nat} (hi : i < k) :
    symbolSilent notch map (chosenSymbol choice heard i) = false := by
  have hg : (mapSymbols notch map k data).getD i [] = mapSymbol notch map
      ((data.drop (map.bits (groupsOn notch) * i)).take (map.bits (groupsOn notch))) := by
    simp [mapSymbols, List.getD_eq_getElem?_getD, hi]
  rw [chosenSymbol_heardOn hh (by simpa [mapSymbols] using hi)
    (by rw [hg, mapSymbol_length hm, hn]), hg]
  exact symbolSilent_mapSymbol hm hn hb _

/-- What the model tests of a block gone silent is what the statements say of it. -/
theorem blockSilent_iff (s : State) (heard : SymbolsHeard) (b : BurstInHand) (h : Header) :
    blockSilent s.lmd b h (b.handed + 1) heard = true ↔ GoneSilent s heard b h := by
  simp only [blockSilent, GoneSilent, List.any_eq_true, List.mem_range, Bool.and_eq_true,
    decide_eq_true_eq, symbolSilent, List.all_eq_true, Nat.add_sub_cancel, and_assoc]
  refine exists_congr fun i => and_congr_right fun _ =>
    and_congr (Iff.of_eq rfl) (and_congr (Iff.of_eq rfl) ?_)
  refine forall_congr' fun g => forall_congr' fun hg => ?_
  rw [show (chosenSymbol b.choice heard i).getD g [] = _ from fromPaths_getD _ _ _ hg]
  cases hn : s.lmd.notch.getD g false <;> cases hm : b.map <;>
    simp only [groupUsed, hn] <;> cases b.choice.getD g .a <;> simp

/-- Data bits sent as symbols are read back from the chosen paths. -/
theorem readSymbols_mapSymbols {notch : List Bool} {map : PayloadMap} (hm : map.fits notch)
    (hn : notch.length = groupCount) {k : Nat} {data : List Bool}
    (hd : data.length = k * map.bits (groupsOn notch)) {choice : List RxPath} {heard : SymbolsHeard}
    (hh : HeardOn choice (mapSymbols notch map k data) heard) :
    readSymbols notch map choice k heard = data := by
  have hs (i : Nat) (hi : i < k) : readSymbol notch map
      (chosenSymbol choice heard i) =
      (data.drop (map.bits (groupsOn notch) * i)).take (map.bits (groupsOn notch)) := by
    have hg : (mapSymbols notch map k data).getD i [] = mapSymbol notch map
        ((data.drop (map.bits (groupsOn notch) * i)).take (map.bits (groupsOn notch))) := by
      simp [mapSymbols, List.getD_eq_getElem?_getD, hi]
    rw [chosenSymbol_heardOn hh (by simpa [mapSymbols] using hi)
      (by rw [hg, mapSymbol_length hm, hn]), hg]
    refine readSymbol_mapSymbol hm ?_
    rw [List.length_take, List.length_drop, hd]
    have : (i + 1) * map.bits (groupsOn notch) ≤ k * map.bits (groupsOn notch) :=
      Nat.mul_le_mul_right _ hi
    rw [Nat.mul_comm _ i]
    rw [Nat.succ_mul] at this
    omega
  unfold readSymbols
  rw [List.flatMap_congr fun i hi => hs i (List.mem_range.1 hi)]
  have hp := pieces_append (map.bits (groupsOn notch)) k false data (by omega)
  rw [← List.take_of_length_le (l := data) (i := map.bits (groupsOn notch) * k)
    (by rw [Nat.mul_comm]; omega)]
  conv_rhs => rw [← hp]
  refine List.flatMap_congr fun i hi => ?_
  have hi := List.mem_range.1 hi
  rw [List.take_of_length_le (l := data) (by rw [Nat.mul_comm]; omega)]
  have : ((data.drop (map.bits (groupsOn notch) * i)).take (map.bits (groupsOn notch))).length =
      map.bits (groupsOn notch) := by
    rw [List.length_take, List.length_drop, hd]
    have : (i + 1) * map.bits (groupsOn notch) ≤ k * map.bits (groupsOn notch) :=
      Nat.mul_le_mul_right _ hi
    rw [Nat.mul_comm _ i]
    rw [Nat.succ_mul] at this
    omega
  simp [fitTo, this]

/-- Symbols heard alike on both paths are heard on any choice of paths. -/
theorem heardOn_both (choice : List RxPath) (symbols : List Symbol) :
    HeardOn choice symbols ⟨symbols.map asHeard, symbols.map asHeard⟩ := by
  intro i g hi _
  split <;> simp [List.getD_eq_getElem?_getD, hi]

end Sys2Proof.Machine
end

