-- ==== Sys2Proof/Tests/Slice0.lean ====
section
/-! SUPPORT. Tests: ill-formed commands, the manual's worked cases, and for the statements states that
meet their hypotheses. -/

namespace Sys2Proof.Tests

open Sys2Proof Sys2Proof.Machine

set_option maxRecDepth 20000

/-! ### Ill-formed commands, one for each check of WellFormed -/

theorem test_wf_snrA : (Instr.burstDetected 0 0 true false (List.replicate 59 0)
    (List.replicate 60 0)).wellFormed = false := by decide
theorem test_wf_snrB : (Instr.burstDetected 0 0 true false (List.replicate 60 0)
    (List.replicate 61 0)).wellFormed = false := by decide
/-- Symbols whose 60 groups carry nothing, on both paths. -/
def blank (k : Nat) : SymbolsHeard :=
  ⟨List.replicate k (List.replicate 60 []), List.replicate k (List.replicate 60 [])⟩
/-- No group notched. -/
def open60 : List Bool := List.replicate 60 false
theorem test_wf_header : (Instr.headerOutcome 0 ⟨blank 2, open60⟩).wellFormed = true ∧
    (Instr.headerOutcome 0 ⟨blank 1, open60⟩).wellFormed = false ∧
    (Instr.headerOutcome 0 ⟨blank 3, open60⟩).wellFormed = false := by decide
theorem test_wf_sender_notch :
    (Instr.headerOutcome 0 ⟨blank 2, List.replicate 59 false⟩).wellFormed = false := by decide
theorem test_wf_symbol_groups : (Instr.headerOutcome 0
    ⟨⟨(blank 2).onA, List.replicate 2 (List.replicate 59 [])⟩, open60⟩).wellFormed = false := by decide
theorem test_wf_symbol_carriers : (Instr.headerOutcome 0
    ⟨⟨(blank 2).onA, List.replicate 2 (List.replicate 60 (List.replicate 15 [true]))⟩,
      open60⟩).wellFormed = false := by decide
theorem test_wf_review : (Instr.reviewComplete 0 17).wellFormed = false := by decide
theorem test_wf_block : (Instr.blockHanded 0 (blank 0)).wellFormed = false ∧
    (Instr.blockHanded 0 (blank 29)).wellFormed = false ∧
    (Instr.blockHanded 0 ⟨(blank 10).onA, (blank 9).onB⟩).wellFormed = false := by decide
theorem test_wf_receipt : (Instr.receiptSlotEnd 0 (some ⟨0, true, false, List.replicate 60 0,
    List.replicate 59 0, List.replicate 60 [], List.replicate 60 []⟩)).wellFormed = false ∧
    (Instr.receiptSlotEnd 0 (some ⟨0, true, false, List.replicate 60 0, List.replicate 60 0,
      List.replicate 61 [], List.replicate 60 []⟩)).wellFormed = false := by decide
theorem test_wf_silence : (Instr.silenceInstant 0 0).wellFormed = false := by decide
theorem test_wf_mapSet : (Instr.mapSetLifetime 0 17).wellFormed = false := by decide
theorem test_wf_lastUnicast : (Instr.lastUnicastExpiry 0 0).wellFormed = false := by decide
theorem test_wf_lastNotice : (Instr.lastNoticeExpiry 0 17).wellFormed = false := by decide
theorem test_wf_resend : (Instr.robustResendExpiry 0 0).wellFormed = false := by decide
theorem test_wf_data_descriptor : (Instr.frameExpiry 0 .data 160).wellFormed = false := by decide
theorem test_wf_notice_descriptor : (Instr.frameExpiry 0 .notice 32).wellFormed = false := by decide
theorem test_wf_reassembly : (Instr.reassemblyTimeout 0 33).wellFormed = false := by decide
theorem test_wf_forwarding : (Instr.forwardingAging 0 257).wellFormed = false := by decide
theorem test_wf_flash : (Instr.flashReadEnd 0 (List.replicate 53 0xFF)).wellFormed = false := by
  decide
theorem test_wf_stretch_empty : (Instr.ingressBlockDraw 0 [] false).wellFormed = false := by decide
theorem test_wf_stretch_long :
    (Instr.ingressBlockDraw 0 (List.replicate 129 0) false).wellFormed = false := by decide

/-! ### The table's rows have no bits (log entry 1) -/

theorem test_no_word : decodeTableWord 0 0 = none := rfl

/-! ### Line-Cycle Unit: the cases of 1.8 and 1.9 -/

/-- An LCU in ACQUIRING after a crossing at `prev`, with the period estimate and the count. -/
def acquiring (prev : Time) (p16 n : Nat) : Lcu :=
  { resetLcu with lock := .acquiring, tPrev := some prev, p16 := p16, accCount := n }

/-- 1.8, row 2. -/
theorem test_seed : acquireMeasure (acquiring 3120 0 0) 20008 = (1, 320128) := by decide
/-- 1.8, row 3: a step of −72. -/
theorem test_accept : acquireMeasure (acquiring 23128 320128 1) 19972 = (2, 320056) := by decide
/-- 1.8, row 4. -/
theorem test_not_valid : acquireMeasure (acquiring 43100 320056 2) 6772 = (0, 320056) := by decide
/-- 1.8, rows 9, 10, 11 and 13: eighths truncated toward zero. -/
theorem test_period_updates : periodUpdate 320079 19992 = 320054 ∧ periodUpdate 320054 20008 = 320063 ∧
    periodUpdate 320063 19992 = 320040 ∧ periodUpdate 320051 19992 = 320029 := by decide
/-- 1.8, the phases after the lock: 299, not 300. -/
theorem test_phase : phaseAt { resetLcu with lock := .locked, tLast := some 223080, p16 := 320029 }
    228080 = some 299 := by decide
/-- 1.8: the holdover instant; 1.9: the loss instant. -/
theorem test_instants : holdoverAt 223080 320029 = 243881 ∧ lossAt 243072 320010 = 883892 := by decide
/-- 1.9: 1.596 and 2.9989 periods. -/
theorem test_nearest : nearestPeriods 320010 31928 = 2 ∧ nearestPeriods 320010 59980 = 3 := by decide

/-! ### Line Modem: maps, measurements, headers and checks -/

/-- 2.4: the capacities of robust bursts and of a full train. -/
theorem test_capacity : symbolsNeeded 1 (robustBits 60) = 10 ∧ symbolsNeeded 3 (robustBits 60) = 28 ∧
    blocksCarried 28 (robustBits 40) = 2 ∧ receiptLimit 40 = 14 ∧
    dataBits (List.replicate 60 8) = 5760 ∧ symbolsNeeded 48 5760 = 10 := by decide
/-- 2.4: eleven groups at loading 1 beat the robust map, ten do not. -/
theorem test_beats_robust : beatsRobust 60 (List.replicate 11 1 ++ List.replicate 49 0) = true ∧
    beatsRobust 60 (List.replicate 10 1 ++ List.replicate 50 0) = false := by decide
/-- R22: 0.25 dB units, rounded down and held within 0..255. -/
theorem test_snr : snrUnits 5999 = 23 ∧ snrUnits (-300) = 0 ∧ snrUnits 70000 = 255 := by decide
/-- The check sequence of the bytes "123456789", as Ethernet sends it. -/
theorem test_frame_check : frameCheck [0x31, 0x32, 0x33, 0x34, 0x35, 0x36, 0x37, 0x38, 0x39] =
    [0x26, 0x39, 0xF4, 0xCB] := by decide
/-- Chapter 11: the fields of the worked header between the addresses and the check. -/
theorem test_header_fields : (headerFields ⟨0x2A17, 0, 1, some 299, .slot 1 8, 4, 13⟩).drop 112 =
    [true, false, false, true, false, false, true, false, true, false, true, true,
     false, false, true, true, false, false, false,
     false, false, true, false, false, false, false, true, true, false, true] := by decide

/-! ### Claim Controller: the words of 3.7 and the generator -/

/-- 3.7: the claim words of A, B and C. -/
theorem test_claim_words : claimWord 1 false 0x0006 = 0xC6#8 ∧ claimWord 1 true 0x0002 = 0xD2#8 ∧
    claimWord 3 false 0x000F = 0x8F#8 := by decide
/-- R42: four steps of the generator. -/
theorem test_rng : rngDraw 0x8C21 = 0xC215#16 := by decide

/-! ### Link Adaptation Engine: the cases of chapter 5 -/

/-- 5.2: two filings into a group. -/
theorem test_filing : fileGroup true ⟨0, 0⟩ 96 = ⟨96, 96⟩ ∧ fileGroup false ⟨96, 96⟩ 92 = ⟨95, 92⟩ := by
  decide

/-- A map of three bands of 20 groups (5.4). -/
def bands (l m h : Nat) : List Nat :=
  List.replicate 20 l ++ List.replicate 20 m ++ List.replicate 20 h

/-- 5.4: window 5 joins slot 0 with one unit to spare; window 3 does not. -/
theorem test_joins : joins (bands 6 5 4) (bands 6 6 5) = true ∧
    joins (bands 6 5 4) (bands 3 3 2) = false := by decide
/-- 5.4: the twelve windows. -/
theorem test_grouping : groupWindows [] [some (bands 6 6 4), some (bands 6 6 4), some (bands 6 5 4),
    some (bands 3 3 2), some (bands 3 3 2), some (bands 6 6 5), some (bands 6 6 4), none,
    some (bands 2 6 4), some (bands 2 6 4), some (bands 6 6 4), some (bands 3 2 2)] =
    ([bands 6 5 4, bands 3 2 2, bands 2 6 4],
     [some 0, some 0, some 0, some 1, some 1, some 0, some 0, none, some 2, some 2, some 0, some 1]) := by
  decide
/-- 5.4: the forced join. -/
theorem test_forced : forcedSlot (bands 6 1 1)
    (numberedSlots [bands 6 5 4, bands 3 3 2, bands 1 1 6, bands 2 6 4]) = some 0 := by decide
/-- 5.5: the slots after the announcement. -/
theorem test_announce :
    announceSlot ⟨some ⟨7, bands 3 3 2⟩, none⟩ (some (bands 3 2 2)) =
      ⟨some ⟨8, bands 3 2 2⟩, some ⟨7, bands 3 3 2⟩⟩ ∧
    announceSlot ⟨none, some ⟨4, bands 1 6 4⟩⟩ (some (bands 2 6 4)) =
      ⟨some ⟨5, bands 2 6 4⟩, some ⟨4, bands 1 6 4⟩⟩ := by decide
/-- 5.5: test (c) holds at an eighth, and not below it. -/
theorem test_material : materialChange (some (bands 3 3 2)) (some (bands 3 2 2)) = true ∧
    materialChange (some (bands 6 5 4)) (some (bands 6 5 3)) = false := by decide

/-! ### Transmit Scheduler: run ends and admission -/

/-- A window list with windows 2 and 3, and 11 and 0, on slot 0. -/
def runList : WindowList :=
  [some 0, none, some 0, some 0, none, none, none, none, none, none, none, some 0]

/-- 7.6: the run-end cases. -/
theorem test_run_ends : runBound runList 0 250 320000 = 28 ∧ runBound runList 0 390 320000 = 0 ∧
    runBound runList 0 380 320000 = 4 ∧ runBound runList 0 1160 320000 = 28 ∧
    runBound runList 0 250 266667 = 28 := by decide
/-- 7.2: the admission cases, the frame's blocks already drawn. -/
theorem test_admission : admissible 7 false ⟨57, 160, 64, 32, 256⟩ = true ∧
    admissible 7 false ⟨55, 160, 64, 32, 256⟩ = false ∧
    admissible 6 false ⟨55, 160, 64, 32, 256⟩ = true ∧
    admissible 0 false ⟨0, 160, 64, 32, 256⟩ = true ∧
    admissible 0 true ⟨0, 160, 64, 32, 256⟩ = false ∧
    admissible 4 false ⟨399, 0, 64, 32, 256⟩ = false := by decide

/-! ### Port Unit -/

/-- 9.7, frame f: 200 quanta. -/
theorem test_pause : pauseTime 200 = 103 := by decide

/-! ### States that meet the hypotheses of the statements -/

/-- This station's address. -/
def own : Addr := 0x020000000001
/-- A peer's address. -/
def far : Addr := 0x020000000002

/-- A station that is ONLINE with nothing to do. -/
def up : State :=
  { State.reset with
    lmd := { resetLmd with activity := .listen }
    clc := { resetClc with medium := .idle }
    suc := ⟨.port, .online, none, none, none, some own, some 0x55AA⟩ }

/-- The station with another medium. -/
def withClc (c : Clc) : State := { up with clc := c }
/-- The station with another line cycle. -/
def withLcu (l : Lcu) : State := { up with lcu := l }
/-- The station with another modem. -/
def withLmd (m : Lmd) : State := { up with lmd := m }

/-! #### Resets -/

theorem witness_NrstHolds : ({ up with nrstLow := true } : State).nrstLow = true ∧
    (∀ t, Instr.quietReport 0 ≠ .nrstAssert t) ∧
    (∀ t strap, Instr.quietReport 0 ≠ .hardwareReset t strap) ∧
    (∀ t bytes bad, Instr.quietReport 0 ≠ .portFrameReceived t bytes bad) ∧
    (∀ t stretch bad, Instr.quietReport 0 ≠ .ingressBlockDraw t stretch bad) ∧
    ([0] : List Byte) ≠ [] := by simp

/-- R157: the rest of a frame that a reset cuts is not taken, and the next frame is. -/
theorem test_cut_frame :
    let cut := resetState 100 .port (arrive [0] false up)
    (portFrameReceived [0, 0] false cut).mgu.counters.portReceived = 0 ∧
    (portFrameReceived [0] false (portFrameReceived [0, 0] false cut)).mgu.counters.portReceived = 1 := by
  decide

/-- A request with its arguments. -/
def asked (c : Byte) (args : List Byte) : Request := ⟨far, c, 1, args.length, args⟩

/-- The station with one request in the queue. -/
def queued (r : Request) : State := { up with mgu := { resetMgu with queue := [r] } }

theorem witness_request (r : Request) : RequestDue (queued r) r [] := ⟨rfl, rfl, rfl, rfl⟩

/-- The station after the RESTART reply, with either strap. -/
def restarting (strap : Strap) : State :=
  { up with mgu := { resetMgu with restart := .due }, suc := { up.suc with strap := strap } }

theorem witness_RestartKeepsLineCycle : (asked 8 []).code = 0x08 ∧
    (asked 8 []).argLength ≤ (asked 8 []).args.length ∧
    (restarting .flash).nrstLow = false ∧ (restarting .flash).mgu.restart = .due ∧
    (restarting .flash).suc.strap = .flash ∧ (restarting .port).mgu.restart = .due ∧
    (restarting .port).suc.strap = .port := by decide

/-- A request whose argument length exceeds the bytes present does not fit. -/
theorem witness_RestartRefused :
    ({ asked 8 [] with argLength := 1 } : Request).code = 0x08 ∧
    ({ asked 8 [] with argLength := 1 } : Request).args.length <
      ({ asked 8 [] with argLength := 1 } : Request).argLength ∧
    ({ restarting .port with ptu := { resetPtu with egress := .sendingData ⟨[], 1, 0⟩ } } :
      State).ptu.egress = .sendingData ⟨[], 1, 0⟩ := by decide

/-! #### Line-Cycle Unit -/

/-- An LCU with accepted level LOW and a HIGH run of a length that began at `start`. -/
def rising (start : Time) (n : Nat) (l : Lcu) : Lcu :=
  { l with accepted := .low, runLevel := .high, runLength := n, runStart := start }

theorem witness_SampleOfARun :
    2 ≤ resetLcu.q ∧ (rising 0 7 resetLcu).accepted = acceptLevel .low ∧
    ((rising 0 0 resetLcu).accepted ≠ acceptLevel .high ∧ (rising 0 0 resetLcu).runLength = 0) ∧
    (resetLcu.accepted ≠ acceptLevel .low ∧ (rising 0 3 resetLcu).runLevel ≠ .low) ∧
    (1 ≤ (rising 0 6 resetLcu).runLength ∧ (rising 0 6 resetLcu).runLevel = .high ∧
      (rising 0 6 resetLcu).runLength + 1 < resetLcu.q) ∧
    (resetLcu.q ≤ ({ resetLcu with runLevel := .high, runLength := 7 } : Lcu).runLength + 1 ∧
      ¬(resetLcu.accepted = .low ∧ ZcLevel.high = .high)) := by decide

theorem witness_crossing (l : Lcu) (h : l.q = 8) (start : Time) : CrossingReady (rising start 7 l) :=
  ⟨rfl, rfl, by simp [rising], by simp [rising, h]⟩

theorem witness_IsHighSample : IsHighSample 8 (.zcSample 8 .high) ∧ IsHighSample 8 (.qualifiedCrossing 8) :=
  ⟨.inr rfl, .inl rfl⟩

theorem witness_CrossingStartsAcquiring : (rising 0 7 resetLcu).lock = .noLine ∧
    LockShape (rising 0 7 resetLcu) := by
  refine ⟨rfl, ⟨?_, ?_, ?_, ?_, ?_, ?_, ?_⟩⟩ <;> decide

/-- The hypotheses of CrossingInAcquiring on numbers: the last crossing, the stamp, the estimate, the
measurement and the estimate after an update. -/
def Measures (t0 start : Time) (p16 m p : Nat) : Prop :=
  m = elapsed t0 start ∧
  (p : Int) = min 355552 (max 246160 ((p16 : Int) + (16 * (m : Int) - p16).tdiv 8))

/-- 1.8, rows 4, 2 and 3; a measurement at the edge of validity that reseeds; and row 13. -/
theorem witness_CrossingInAcquiring :
    (Measures 43100 49872 320056 6772 293593 ∧ ¬(15385 ≤ 6772 ∧ 6772 ≤ 22222)) ∧
    (Measures 3120 23128 0 20008 246160 ∧ 15385 ≤ 20008 ∧ 20008 ≤ 22222) ∧
    (Measures 0 15385 320128 15385 310882 ∧ 15385 ≤ 15385 ∧ 1 ≤ 3 ∧
      ¬(16 * (15385 : Int) - (320128 : Nat)).natAbs ≤ 320128 / 50) ∧
    (Measures 23128 43100 320128 19972 320056 ∧
      (16 * (19972 : Int) - (320128 : Nat)).natAbs ≤ 320128 / 50) ∧
    (Measures 203088 223080 320051 19992 320029 ∧
      (16 * (19992 : Int) - (320051 : Nat)).natAbs ≤ 320051 / 50) := by
  unfold Measures; decide

/-- 1.9: the crossing accepted in LOCKED, a crossing that is not; the two crossings in HOLDOVER. -/
theorem witness_CrossingWhileFollowing :
    (Measures 223080 243072 320029 19992 320010 ∧ 2 * 1 * 320029 ≤ 32 * 19992 + 320029 ∧
      32 * 19992 + 320029 < 2 * (1 + 1) * 320029 ∧
      (16 * (19992 : Int) - 1 * (320029 : Nat)).natAbs ≤ 320029 / 50) ∧
    (Measures 223080 228080 320029 5000 290026 ∧ 2 * 0 * 320029 ≤ 32 * 5000 + 320029 ∧
      32 * 5000 + 320029 < 2 * (0 + 1) * 320029 ∧
      320029 / 50 < (16 * (5000 : Int) - 1 * (320029 : Nat)).natAbs) ∧
    (Measures 243072 303052 320010 59980 355552 ∧ 2 * 3 * 320010 ≤ 32 * 59980 + 320010 ∧
      32 * 59980 + 320010 < 2 * (3 + 1) * 320010 ∧
      (16 * (59980 : Int) - 3 * (320010 : Nat)).natAbs ≤ 320010 / 50) ∧
    (Measures 243072 275000 320010 31928 343864 ∧ 2 * 2 * 320010 ≤ 32 * 31928 + 320010 ∧
      32 * 31928 + 320010 < 2 * (2 + 1) * 320010 ∧
      320010 / 50 < (16 * (31928 : Int) - 2 * (320010 : Nat)).natAbs) := by
  unfold Measures; decide

/-- The instants themselves. -/
theorem witness_LineTimers : 50000 ≤ elapsed 100 50100 ∧
    reached 243881 (after 223080 (13 * 320029 / 200)) = true ∧
    reached 883892 (after 243072 (801 * 320010 / 400)) = true := by decide

/-- A locked LCU. -/
def locked : Lcu := { resetLcu with lock := .locked, tLast := some 223080, p16 := 320029, accCount := 8 }

theorem witness_LockShapeKept : LockShape locked ∧
    ∃ s', step ((withLcu locked).withQueue [.holdoverInstant 243881]) = .next s' ∧
      s'.lcu.lock = .holdover := by
  refine ⟨⟨?_, ?_, ?_, ?_, ?_, ?_, ?_⟩, ⟨_, rfl, rfl⟩⟩ <;> decide

theorem witness_PhaseAndWindow : resetLcu.lock = .noLine ∧ (acquiring 0 0 0).lock = .acquiring ∧
    locked.lock = .locked ∧ phaseAt locked 223080 = some 0 ∧ phaseAt locked 243081 = some 1199 := by
  decide

/-! #### Claiming -/

/-- A CLC in a medium state without a claim. -/
def clcIn (m : Medium) : Clc := { resetClc with medium := m }
/-- In GAP since 1,000 µs. -/
def gap : Clc := { clcIn .gap with freeInstant := some 1000 }
/-- In GAP, listening through the mark slot from 1,040 µs. -/
def markSlot : Clc := { gap with markListen := true }
/-- In a claim period from 1,000 µs with the word 0xC6 of 3.7. -/
def period (c : ClaimState) : Clc :=
  { clcIn .claiming with
    claim := c, markStart := some 1000, word := some 0xC6, level := some 1 }
/-- In OCCUPIED until 1,600 µs. -/
def occupied : Clc := { clcIn .occupied with occupancyEnd := some 1600 }

/-- A data frame of one block. -/
def frame (desc level : Nat) (dest : Dest) : Frame :=
  ⟨.data, desc, level, dest, List.replicate 64 0, [⟨.pending, false⟩], 60000, none, 0, false⟩

/-- A scheduler with frames in one queue. -/
def waiting (l : Nat) (fs : List Frame) : Tsc := { resetTsc with queues := (List.replicate 8 []).set l fs }

/-- The station with a broadcast frame waiting at level 2. -/
def ready (c : Clc) : State := { withClc c with tsc := waiting 2 [frame 0 2 .broadcast] }

/-- What EnergyBegins asks of every clause. -/
def Hears (t : Time) (c : Clc) : Prop :=
  (withClc c).nrstLow = false ∧ watching (withClc c).lmd.activity = true ∧ c.medium ≠ .sending ∧
  (sendsAt (withClc c).clc t = false ∨ Caught t (withClc c)) ∧ (withClc c).lmd.energy = none ∧
  (withClc c).lmd.path = .single

/-- A report at the bounds of the mark slot's listening interval, and of a bit slot's. -/
theorem witness_EnergyBegins :
    Hears 5000 (clcIn .idle) ∧ (Hears 1020 gap ∧ gap.medium = .gap ∧ gap.markListen = false) ∧
    (Hears 1046 markSlot ∧ markSlot.freeInstant = some 1000 ∧ 6 ≤ elapsed (after 1000 40) 1046) ∧
    (Hears 1045 markSlot ∧ elapsed (after 1000 40) 1045 < 6) ∧
    (Hears 1096 (period .contending) ∧ elapsed 1000 1096 / 30 = 3 ∧
      (0xC6#8).getLsbD (8 - 3) = false ∧ 6 ≤ elapsed 1000 1096 % 30) ∧
    (Hears 1095 (period .contending) ∧ elapsed 1000 1095 % 30 < 6) ∧
    (Hears 1096 (period .out) ∧ (period .out).claim ≠ .contending) ∧
    (Hears 1500 occupied ∧ Hears 1500 (clcIn .sensedBusy) ∧ Hears 1500 (clcIn .awaitReceipt)) := by
  have h : ∀ t c, watching up.lmd.activity = true ∧ c.medium ≠ .sending ∧ sendsAt c t = false →
      Hears t c := fun t c h => ⟨rfl, h.1, h.2.1, .inl h.2.2, rfl, rfl⟩
  refine ⟨h _ _ (by decide), ⟨h _ _ (by decide), by decide⟩, ⟨h _ _ (by decide), by decide⟩,
    ⟨h _ _ (by decide), by decide⟩, ⟨h _ _ (by decide), by decide⟩, ⟨h _ _ (by decide), by decide⟩,
    ⟨h _ _ (by decide), by decide⟩, h _ _ (by decide), h _ _ (by decide), h _ _ (by decide)⟩

/-- The station with a report of energy in progress since `e`. -/
def energetic (e : Time) (c : Clc) : State := { withClc c with lmd := { up.lmd with energy := some e } }

/-- IN in the claim period from 1,000 µs, with energy since `e`: a slot of a 0 bit has ended. -/
theorem witness_Caught : Caught 1120 (energetic 1100 (period .contending)) ∧
    Caught 1180 (energetic 1160 (period .contending)) ∧
    Caught 1270 (energetic 1260 (period .contending)) ∧
    Caught 1097 (energetic 1080 (period .contending)) :=
  ⟨⟨rfl, rfl, 1100, 1000, 0xC6, rfl, by decide, rfl, rfl, by unfold ListensAt; decide⟩,
    ⟨rfl, rfl, 1160, 1000, 0xC6, rfl, by decide, rfl, rfl, by unfold ListensAt; decide⟩,
    ⟨rfl, rfl, 1260, 1000, 0xC6, rfl, by decide, rfl, rfl, by unfold ListensAt; decide⟩,
    ⟨rfl, rfl, 1080, 1000, 0xC6, rfl, by decide, rfl, rfl, by unfold ListensAt; decide⟩⟩

/-- Before its listening begins a station is not caught, and neither is one without a report. -/
theorem witness_NotCaught (e : Time) :
    ¬Caught 1095 (energetic e (period .contending)) ∧ ¬Caught 1096 (energetic e (period .contending)) ∧
    ¬Caught 1015 (energetic e (period .contending)) ∧
    ∀ t, ¬Caught t (withClc (period .contending)) := by
  refine ⟨?_, ?_, ?_, fun t h => ?_⟩
  iterate 3
    rintro ⟨-, -, _, m, w, -, -, hm, hw, hl⟩
    cases Option.some.inj hm
    cases Option.some.inj hw
    revert hl
    unfold ListensAt
    decide
  obtain ⟨-, -, _, _, _, he, -⟩ := h
  cases he

/-- What the clauses of EnergyBegins ask with a report in progress since `e`. -/
def HearsOn (t e : Time) (c : Clc) : Prop :=
  watching up.lmd.activity = true ∧ c.medium ≠ .sending ∧
  (sendsAt c t = false ∨ Caught t (energetic e c)) ∧ (energetic e c).lmd.energy = some e

/-- A report that goes on: in IDLE and in GAP; in the listened mark slot from its instant 6 on and before;
in a listened bit slot; at the end of one, where a 0 bit or a 1 bit follows; and before its listening
begins. -/
theorem witness_EnergyGoesOn :
    (HearsOn 5000 4990 (clcIn .idle) ∧ HearsOn 1030 1000 gap ∧ gap.markListen = false) ∧
    (HearsOn 1046 1000 markSlot ∧ 6 ≤ elapsed (after 1000 40) 1046 ∧ HearsOn 1045 1000 markSlot ∧
      elapsed (after 1000 40) 1045 < 6) ∧
    (HearsOn 1096 1090 (period .contending) ∧ ListensAt 1000 1096 0xC6) ∧
    (HearsOn 1120 1100 (period .contending) ∧ Caught 1120 (energetic 1100 (period .contending)) ∧
      HearsOn 1180 1160 (period .contending) ∧ Caught 1180 (energetic 1160 (period .contending)) ∧
      sendsAt (period .contending) 1180 = true) ∧
    (HearsOn 1095 1090 (period .contending) ∧ ¬ListensAt 1000 1095 0xC6 ∧
      ¬Caught 1095 (energetic 1090 (period .contending))) := by
  have h : ∀ t e c, c.medium ≠ .sending ∧ sendsAt c t = false → HearsOn t e c :=
    fun t e c h => ⟨rfl, h.1, .inl h.2, rfl⟩
  refine ⟨⟨h _ _ _ (by decide), h _ _ _ (by decide), rfl⟩,
    ⟨h _ _ _ (by decide), by decide, h _ _ _ (by decide), by decide⟩,
    ⟨h _ _ _ (by decide), by unfold ListensAt; decide⟩,
    ⟨h _ _ _ (by decide), witness_Caught.1, ⟨rfl, by decide, .inr witness_Caught.2.1, rfl⟩,
      witness_Caught.2.1, by decide⟩,
    ⟨h _ _ _ (by decide), by unfold ListensAt; decide, (witness_NotCaught 1090).1⟩⟩

/-- R43: energy that fills the slot of a 0 bit and ends where the slot of a 1 bit begins, taken before that
slot's command: the station is OUT, and the report is over. -/
theorem test_energy_ends_at_own_slot :
    let s := energyReport false false { energetic 1160 (period .contending) with now := 1180 }
    s.clc.claim = .out ∧ s.lmd.energy = none ∧ s.lmd.quietFrom = 1180 := by decide

/-- What the clauses of EnergyEnds ask together: no report is kept back, and none or one is in progress. -/
def Ends (t e : Time) (c : Clc) : Prop :=
  (energetic e c).nrstLow = false ∧ watching (energetic e c).lmd.activity = true ∧
  c.medium ≠ .sending ∧ (sendsAt c t = false ∨ Caught t (energetic e c)) ∧
  (energetic e c).lmd.energy = some e

/-- No report and one in progress; in the listened mark slot up to its instant 6 and beyond it; in a
listened bit slot, at the end of one where a 1 bit follows, and before its listening begins; OUT; in an
activity that does not watch; and in a slot of the station's own. -/
theorem witness_EnergyEnds :
    (up.lmd.energy = none ∧ Ends 200 100 (clcIn .idle) ∧ Ends 200 100 (clcIn .sensedBusy)) ∧
    (Ends 1047 1000 markSlot ∧ markSlot.freeInstant = some 1000 ∧ (1000 : Time) ≠ 1047 ∧
      7 ≤ elapsed (after 1000 40) 1047) ∧
    (Ends 1046 1000 markSlot ∧ elapsed (after 1000 40) 1046 < 7 ∧ Ends 1030 1000 gap ∧
      gap.freeInstant = some 1000 ∧ gap.markListen = false) ∧
    (Ends 1097 1080 (period .contending) ∧ Caught 1097 (energetic 1080 (period .contending)) ∧
      Ends 1180 1160 (period .contending) ∧ Caught 1180 (energetic 1160 (period .contending))) ∧
    (Ends 1096 1080 (period .contending) ∧ ¬Caught 1096 (energetic 1080 (period .contending))) ∧
    (Ends 1500 1400 (period .out) ∧ (period .out).claim ≠ .contending) ∧
    (({ up.lmd with activity := .sendBurst } : Lmd).activity = .sendBurst ∧
      (clcIn .sending).medium = .sending ∧ up.lmd.path = .single) ∧
    (sendsAt (period .contending) 1015 = true ∧
      ¬Caught 1015 (energetic 1010 (period .contending))) := by
  have h : ∀ t e c, c.medium ≠ .sending ∧ sendsAt c t = false → Ends t e c :=
    fun t e c h => ⟨rfl, rfl, h.1, .inl h.2, rfl⟩
  refine ⟨⟨rfl, h _ _ _ (by decide), h _ _ _ (by decide)⟩, ⟨h _ _ _ (by decide), by decide⟩,
    ⟨h _ _ _ (by decide), by decide, h _ _ _ (by decide), by decide⟩,
    ⟨h _ _ _ (by decide), witness_Caught.2.2.2, ⟨rfl, rfl, by decide, .inr witness_Caught.2.1, rfl⟩,
      witness_Caught.2.1⟩, ⟨h _ _ _ (by decide), (witness_NotCaught 1080).2.1⟩,
    ⟨h _ _ _ (by decide), by decide⟩, by decide, by decide, (witness_NotCaught 1010).2.2.1⟩

theorem witness_QuietReported :
    watching up.lmd.activity = true ∧ up.lmd.energy = none ∧ 100 ≤ elapsed up.lmd.quietFrom 100 ∧
    sendsAt (clcIn .sensedBusy) 100 = false ∧ sendsAt gap 100 = false ∧
    (gap.medium ≠ .sending ∧ gap.medium ≠ .sensedBusy ∧ gap.medium ≠ .idle) ∧
    ((clcIn .sending).medium = .sending ∧ sendsAt (clcIn .sending) 100 = false) ∧
    (up.clc.medium = .idle ∧ up.suc.station = .online ∧ prospectiveLevel up.tsc = none) ∧
    ((ready (clcIn .idle)).suc.station = .online ∧
      prospectiveLevel (ready (clcIn .idle)).tsc = some 2) := by decide

theorem witness_FreeInstants :
    (gap.medium = .gap ∧ gap.freeInstant = some 1000 ∧ gap.markListen = false ∧
      reached 1010 (after 1000 10) = true ∧
      ({ up.lmd with energy := some 1005 } : Lmd).energy ≠ none ∧ up.lmd.energy = none) ∧
    (occupied.medium = .occupied ∧ occupied.occupancyEnd = some 1600 ∧ reached 1600 1600 = true) ∧
    ((period .out).claim ≠ .contending ∧ (period .out).markStart = some 1000 ∧
      reached 1470 (after (after 1000 270) 200) = true ∧ (period .out).quietFlag = false ∧
      ({ up.lmd with lastEnergy := some 1271 } : Lmd).lastEnergy = some 1271 ∧
      elapsed 1271 1470 < elapsed (after 1000 270) 1470 ∧
      ({ period .out with quietFlag := true } : Clc).quietFlag ≠ false) := by decide

/-- OUT in a claim period whose loss CPE has counted. -/
def countedOut : Clc := { period .out with lossCounted := true }

/-- The loss of a station that is OUT, before and after it is counted, and of one without a claim. -/
theorem witness_LossSettled :
    LossSettled (withClc (period .out)) (losing (withClc (period .out))) ∧
    LossSettled (withClc countedOut) (withClc countedOut) ∧
    LossSettled (withClc (period .none)) (withClc (period .none)) := by
  refine ⟨⟨fun _ => rfl, fun h => absurd ⟨rfl, rfl⟩ h⟩, ⟨fun h => ?_, fun _ => rfl⟩,
    ⟨fun h => ?_, fun _ => rfl⟩⟩
  · exact absurd h.2 (by decide)
  · exact absurd h.1 (by decide)

theorem witness_OpeningInstant :
    gap.freeInstant = some 1000 ∧ reached 1040 (after 1000 40) = true ∧ gap.markListen = false ∧
    (withClc gap).suc.station = .online ∧ prospectiveLevel (withClc gap).tsc = none ∧
    prospectiveLevel (ready gap).tsc = some 2 := by decide

/-- The end of the listened mark slot with and without a report in progress, the onset of one at that
instant among the latter; slots after a listened one that such a report has reached into. -/
theorem witness_ClaimSlotsEnergy :
    (let s := energetic 1060 markSlot;
      s.clc.medium = .gap ∧ s.lmd.energy = some 1060 ∧ (1060 : Time) ≠ 1070 ∧
      reached 1070 (after (after 1000 40) 30) = true ∧ (energetic 1070 markSlot).lmd.energy = some 1070) ∧
    Caught 1120 (energetic 1100 (period .contending)) ∧
    (Caught 1270 (energetic 1260 (period .contending)) ∧
      (energetic 1260 (period .contending)).clc.lossCounted = false ∧
      reached 1270 (after 1000 270) = true) ∧
    ∀ t, ¬Caught t (withClc (period .contending)) :=
  ⟨by decide, witness_Caught.1, ⟨witness_Caught.2.2.1, by decide⟩, (witness_NotCaught 0).2.2.2⟩

theorem witness_ClaimSlots :
    (markSlot.medium = .gap ∧ markSlot.markListen = true ∧ markSlot.freeInstant = some 1000 ∧
      reached 1070 (after (after 1000 40) 30) = true ∧ (withClc markSlot).tsc.prospective = none) ∧
    (({ ready markSlot with tsc := { (ready markSlot).tsc with prospective := some 2 } } :
        State).tsc.prospective ≠ none ∧
      ({ markSlot with quietFlag := true } : Clc).quietFlag = true ∧
      prospectiveLevel (ready markSlot).tsc = some 2) ∧
    ((period .contending).word = some 0xC6 ∧ elapsed 1000 1090 / 30 = 3 ∧
      (0xC6#8).getLsbD (8 - 3) = false ∧ elapsed 1000 1030 / 30 = 1 ∧
      (0xC6#8).getLsbD (8 - 1) = true ∧ (period .out).claim = .out ∧ up.lmd.inHand = none) := by decide


/-- A burst in hand that began at 0, its header awaited. -/
def inHand : BurstInHand :=
  ⟨0, List.replicate 60 40, List.replicate 60 .a, none, .header, .robust, 0, 0⟩

/-- A station that receives that burst. -/
def receiving (s : State) : State :=
  { s with lmd := { s.lmd with activity := .receive, inHand := some inHand } }

theorem witness_hand : (receiving up).lmd.inHand ≠ none := by simp [receiving]

theorem witness_HeaderDue (s : State) (h : s.nrstLow = false) : HeaderDue 170 (receiving s) inHand :=
  ⟨h, rfl, rfl, rfl, by decide⟩

/-- Symbols sent with no group notched on a map, and heard alike on both paths. -/
def sentOn (map : PayloadMap) (k : Nat) (data : List Bool) : SymbolsHeard :=
  let symbols := (mapSymbols open60 map k data).map asHeard
  ⟨symbols, symbols⟩

/-- What is sent on the robust map is read back. -/
theorem read_sent (k : Nat) (data : List Bool) (hd : data.length = k * 120) (choice : List RxPath) :
    readSymbols open60 .robust choice k (sentOn .robust k data) = data :=
  readSymbols_mapSymbols (map := .robust) trivial rfl hd (heardOn_both _ _)

/-- What is sent on the robust map is not silent. -/
theorem sent_audible (k : Nat) (data : List Bool) (choice : List RxPath) {i : Nat} (hi : i < k) :
    symbolSilent open60 .robust (chosenSymbol choice (sentOn .robust k data) i) = false :=
  symbolSilent_heardOn (map := .robust) trivial rfl (by decide) (heardOn_both _ _) hi

/-- The data bits of two header symbols, heard by a station with no group notched. -/
theorem header_read (m : Lmd) (b : BurstInHand) (data : List Bool) (hn : m.notch = open60)
    (hd : data.length = 240) :
    headerHeard m b ⟨sentOn .robust 2 data, open60⟩ = decodeHeader 60 data := by
  have h60 : groupsOn open60 = 60 := by decide
  have hr : headerReadable m open60 = true := by simp [headerReadable, hn, h60]
  have hs : ¬(!headerReadable m open60 || (List.range 2).any (fun i => symbolSilent open60 .robust
      (chosenSymbol b.choice (sentOn .robust 2 data) i))) = true := by
    simp only [hr, Bool.not_true, Bool.false_or, List.any_eq_true, List.mem_range, not_exists, not_and,
      Bool.not_eq_true]
    exact fun i hi => sent_audible 2 data _ hi
  simp only [headerHeard, hn]
  rw [if_neg hs, read_sent 2 data hd, h60]

/-- A header as its symbols carry it, from a station with no group notched. -/
def sentHeader (h : Header) : HeaderHeard := ⟨sentOn .robust 2 (headerSymbols 60 h), open60⟩

/-- A header with no stamp from a peer to this station: one block on the robust map in 10 symbols. -/
def plain : Header := ⟨0x55AA, far, own, none, .robust, 10, 1⟩

/-- What is decoded from a header's own symbols is the header. -/
theorem test_decode_header : decodeHeader 60 (headerSymbols 60 plain) = some plain := by decide

theorem header_heard (m : Lmd) (b : BurstInHand) (h : Header) (hn : m.notch = open60)
    (hd : decodeHeader 60 (headerSymbols 60 h) = some h) : headerHeard m b (sentHeader h) = some h := by
  rw [sentHeader, header_read m b (headerSymbols 60 h) hn (fitTo_length 240 _ _), hd]

/-- A header of another label. -/
def foreign : Header := { plain with label := 0x55AB }

theorem foreign_heard (s : State) (hn : s.lmd.notch = open60) :
    headerHeard (receiving s).lmd inHand (sentHeader foreign) = some foreign :=
  header_heard _ _ _ hn (by decide)

/-- CPE of a station that is OUT, its loss not counted and counted; and the foreign header before CPE at a
station that is IN, and at one that is OUT. -/
theorem witness_ClaimLost : (period .out).medium = .claiming ∧ (period .out).markStart = some 1000 ∧
    (period .out).lossCounted = false ∧ countedOut.lossCounted = true ∧ countedOut.claim = .out ∧
    reached 1270 (after 1000 270) = true ∧
    (HeaderDue 170 (receiving (withClc { period .contending with markStart := some (-99) })) inHand ∧
      elapsed (-99) 170 < 270 ∧ (period .contending).claim = .contending ∧
      (period .out).claim = .out ∧
      headerHeard (receiving (withClc { period .contending with markStart := some (-99) })).lmd inHand
        (sentHeader foreign) = some foreign ∧ up.suc.label ≠ some foreign.label) :=
  ⟨rfl, rfl, rfl, rfl, rfl, by decide, witness_HeaderDue _ rfl, by decide, rfl, rfl,
    foreign_heard _ rfl, by decide⟩

/-- A train of one frame. -/
def train (f : Frame) : Train := ⟨f.level, f.dest, [f]⟩

/-- The station in a claim period with a train. -/
def withTrain (c : Clc) (f : Frame) : State :=
  { withClc c with tsc := { resetTsc with active := some (train f) } }

/-- A frame with every block DONE. -/
def doneFrame : Frame := { frame 0 2 .broadcast with blocks := [⟨.done, true⟩] }

/-- Without an active train; with one whose blocks may not go; with a burst of one block. -/
theorem witness_ClaimWon : (period .contending).claim = .contending ∧
    (period .contending).markStart = some 1000 ∧ reached 1270 (after 1000 270) = true ∧
    (∀ t f, ¬Caught t (withTrain (period .contending) f)) ∧
    (up.tsc.active = none ∧ up.tsc.onLine = none) ∧
    ((withTrain (period .contending) doneFrame).tsc.active = some (train doneFrame) ∧
      burstFor (withTrain (period .contending) doneFrame) (train doneFrame) = none) ∧
    ((withTrain (period .contending) (frame 0 2 .broadcast)).tsc.active =
        some (train (frame 0 2 .broadcast)) ∧
      (burstFor (withTrain (period .contending) (frame 0 2 .broadcast))
        (train (frame 0 2 .broadcast))).isSome = true) := by
  refine ⟨rfl, rfl, by decide, fun t f h => ?_, ⟨rfl, rfl⟩, ⟨rfl, by decide⟩, rfl, by decide⟩
  obtain ⟨-, -, _, _, _, he, -⟩ := h
  cases he

theorem witness_ModeShapeKept : ModeShape up ∧
    ∃ s', step (up.withQueue [.burstDetected 100 90 true false [] []]) = .next s' ∧
      s'.lmd.activity = .receive := by
  refine ⟨⟨?_, ?_, ?_, ?_, ?_, ?_, ?_, ?_, ?_, ?_, ?_, ?_, ?_⟩, ⟨_, rfl, rfl⟩⟩ <;> decide

/-- 3.7, slot 4: A hears B from 6 µs after the slot's start, not before. -/
theorem test_out :
    (energyReport true false { withClc (period .contending) with now := 1126 }).clc.claim = .out ∧
    (energyReport true false { withClc (period .contending) with now := 1125 }).clc.claim =
      .contending := by decide

/-- R45, R46: a station OUT at CPE has lost, and stays OUT until the outcome; a second
CLAIM_PERIOD_END counts nothing. -/
theorem test_out_stays :
    let s := claimPeriodEnd { withClc (period .out) with now := 1270 }
    s.clc.claim = .out ∧ s.mgu.counters.claimsLost = 1 ∧
    (claimPeriodEnd s).mgu.counters.claimsLost = 1 := by decide

/-- R20, R24: with group 1 notched, a robust symbol of the first two groups leaves it silent. -/
theorem test_notched_silent (data : List Bool) :
    ∃ bits, robustSymbol [true, false] data = [.silent, .carriers bits] := ⟨_, rfl⟩

/-- 10.6: a blank flash. -/
theorem test_blank_flash :
    let s := flashReadEnd (List.replicate 52 0xFF)
      { State.reset with now := 1036, suc := { State.reset.suc with flashRead := some 1000 } }
    s.suc.station = .configWait ∧ s.mgu.attn = true := by decide

/-! #### Receiving -/

/-- A preamble from 1 µs after the entry into LISTEN, and any once a quiet line has been reported. -/
theorem witness_BurstDetected : up.nrstLow = false ∧ up.lmd.activity = .listen ∧
    up.clc.medium ≠ .sending ∧ up.lmd.path = .single ∧ up.lmd.listenFrom = none ∧
    (({ up.lmd with listenFrom := some 89 } : Lmd).listenFrom = some 89 ∧
      elapsed 90 100 < elapsed 89 100) ∧
    ({ up.lmd with path := .dual } : Lmd).path = .dual ∧
    pathValue [] [4999] 0 < pathValue [] [5000] 0 := by decide

theorem witness_HeaderNotDecoded :
    (headerHeard (receiving up).lmd inHand ⟨sentOn .robust 2 (List.replicate 240 false), open60⟩ = none ∧
      LossSettled (receiving (withClc (period .none))) (receiving (withClc (period .none)))) ∧
    ((period .none).medium = .claiming ∧ (period .none).claim ≠ .contending ∧
      ({ period .none with markStart := some (-100) } : Clc).markStart = some (-100) ∧
      270 ≤ elapsed (-100) 170) ∧
    elapsed (-99) 170 < 270 ∧ (period .contending).claim = .contending ∧
    (¬Caught 170 (withClc (period .contending)) ∧
      Caught 170 (energetic 160 { period .contending with markStart := some (-100) }) ∧
      270 ≤ elapsed (-100) 170) ∧
    (clcIn .idle).medium ≠ .claiming := by
  refine ⟨⟨?_, ⟨fun h => ?_, fun _ => rfl⟩⟩, by decide, by decide, rfl,
    ⟨(witness_NotCaught 0).2.2.2 170, ⟨rfl, rfl, 160, -100, 0xC6, rfl, by decide, rfl, rfl,
      by unfold ListensAt; decide⟩, by decide⟩, by decide⟩
  · rw [header_read _ _ _ rfl (by decide)]
    decide
  · exact absurd h.1 (by decide)

/-- A free instant declared in IDLE; to a station OUT whose loss is counted, and to one whose loss is not;
to one that is IN before CPE, at CPE, and at CPE with energy in progress; in OCCUPIED; and in SENDING. -/
theorem witness_DeclaredAt (f : Time) :
    DeclaredAt 170 f (receiving up) (occupiedUntil f (receiving up)) ∧
    DeclaredAt 1271 f (withClc countedOut) (occupiedUntil f (withClc countedOut)) ∧
    DeclaredAt 1200 f (withClc (period .out)) (occupiedUntil f (losing (withClc (period .out)))) ∧
    DeclaredAt 1269 f (withClc (period .contending))
      (occupiedUntil f (losing (withClc (period .contending)))) ∧
    DeclaredAt 1270 f (withClc (period .contending)) (withClc (period .contending)) ∧
    DeclaredAt 1270 f (energetic 1260 (period .contending))
      (occupiedUntil f (losing (energetic 1260 (period .contending)))) ∧
    DeclaredAt 170 f (withClc occupied)
      { withClc occupied with clc := { occupied with occupancyEnd := some (laterOf 1600 f) } } ∧
    DeclaredAt 170 f (withClc (clcIn .sending)) (withClc (clcIn .sending)) := by
  refine ⟨.inl ⟨.inl rfl, rfl⟩, .inl ⟨.inr (.inr (.inr ⟨rfl, .inr ⟨rfl, rfl⟩⟩)), rfl⟩,
    .inr (.inl ⟨rfl, .inl ⟨rfl, rfl⟩, rfl⟩),
    .inr (.inl ⟨rfl, .inr (.inl ⟨rfl, 1000, rfl, by decide⟩), rfl⟩),
    .inr (.inr (.inl ⟨rfl, rfl, (witness_NotCaught 0).2.2.2 1270, ⟨1000, rfl, by decide⟩, rfl⟩)),
    .inr (.inl ⟨rfl, .inr (.inr witness_Caught.2.2.1), rfl⟩),
    .inr (.inr (.inr (.inl ⟨rfl, 1600, rfl, rfl⟩))),
    .inr (.inr (.inr (.inr ⟨.inl rfl, rfl⟩)))⟩

theorem witness_HeaderForeign : HeaderDue 170 (receiving up) inHand ∧
    headerHeard (receiving up).lmd inHand (sentHeader foreign) = some foreign ∧
    (receiving up).suc.label ≠ some foreign.label ∧ foreign.dest ≠ broadcastAddr :=
  ⟨witness_HeaderDue _ rfl, foreign_heard up rfl, by decide, by decide⟩

/-- What a header needs that is not foreign, and the state after its free instant. -/
structure Heard (s : State) (h : Header) : Prop where
  due : HeaderDue 170 s inHand
  decoded : headerHeard s.lmd inHand (sentHeader h) = some h
  ours : OwnLabel s h
  declared : DeclaredAt 170 (declaredFree inHand.start h) s
    (occupiedUntil (declaredFree inHand.start h) s)

/-- A header of the network, from another station, reaches a station in IDLE. -/
theorem heard_own (ps : List (Option Peer)) (x : Rxa) (h : Header)
    (hd : decodeHeader 60 (headerSymbols 60 h) = some h) (hl : h.label = 0x55AA) (hs : h.sender = far) :
    Heard (receiving { up with peers := ps, rxa := x }) h :=
  ⟨witness_HeaderDue _ rfl, header_heard _ _ _ rfl hd,
    ⟨by rw [hl]; rfl, by rw [hs]; exact (by decide : up.suc.address ≠ some far),
      by rw [hs]; decide⟩, .inl ⟨.inl rfl, rfl⟩⟩

theorem heard_plain (ps : List (Option Peer)) (x : Rxa) :
    Heard (receiving { up with peers := ps, rxa := x }) plain :=
  heard_own _ _ _ test_decode_header rfl rfl

/-- A peer heard `n` µs after reset. -/
def peerAt (a : Addr) (n : Nat) : Peer := claimedPeer a (BitVec.ofNat 32 n) false

/-- Sixteen records that are not `far`'s. -/
def fullTable : List (Option Peer) := (List.range 16).map fun k => some (peerAt (BitVec.ofNat 48 (k + 16)) k)

/-- A reassembly entry of a peer, with one block of two. -/
def entryOf (i tag : Nat) : Entry :=
  ⟨i, 2, tag, false, .data, 2, 100, [(1, List.replicate 128 0)], 0⟩

/-- Each of the sixteen peers has an entry. -/
def busyTable : List (Option Entry) :=
  (List.range 16).map (fun k => some (entryOf (k + 1) 0)) ++ List.replicate 16 none

theorem full_addresses (s : State) (h : s.peers = fullTable) :
    ∀ i p, s.peer i = some p → p.address ≠ far := by
  intro i p hp
  have hr := tableGet_range hp
  rw [h] at hr
  have hl : fullTable.length = 16 := by decide
  obtain ⟨h1, h2⟩ := hr
  rw [hl] at h2
  simp only [State.peer, h] at hp
  interval_cases i <;> · cases hp; decide

theorem witness_SenderNotLearned :
    let s := receiving { up with peers := fullTable, rxa := ⟨busyTable, none⟩ }
    Heard s plain ∧ (∀ x ∈ s.peers, x ≠ none) ∧
    (∀ i p, s.peer i = some p → p.address ≠ plain.sender ∧ Busy s i) := by
  refine ⟨heard_plain _ _, by decide, fun i p hp => ⟨full_addresses _ rfl i p hp, .inr (.inr ?_)⟩⟩
  have hr := tableGet_range hp
  refine ⟨entryOf i 0, ?_, rfl⟩
  obtain ⟨h1, h2⟩ := hr
  have hl : fullTable.length = 16 := by decide
  have h2 : i ≤ 16 := hl ▸ h2
  have hm : ∀ k, k < 16 → entryOf (k + 1) 0 ∈ busyTable.filterMap id := by decide
  have := hm (i - 1) (by omega)
  rwa [show i - 1 + 1 = i by omega] at this

/-- A header for another station. -/
def passing : Header := { plain with dest := 0x020000000003 }

theorem heard_passing (ps : List (Option Peer)) (x : Rxa) :
    Heard (receiving { up with peers := ps, rxa := x }) passing :=
  heard_own _ _ _ (by decide) rfl rfl

theorem witness_SenderLearned :
    let s := receiving { up with peers := fullTable.set 4 none, rxa := resetRxa }
    Heard s passing ∧ passing.stamp = none ∧ s.suc.address ≠ some passing.dest ∧
    passing.dest ≠ broadcastAddr ∧ 5 ≤ s.peers.length ∧ s.peer 5 = none ∧
    (∀ j, 1 ≤ j → j < 5 → s.peer j ≠ none) ∧
    (∀ j p, s.peer j = some p → p.address ≠ passing.sender) := by
  refine ⟨heard_passing _ _, rfl, by decide, by decide, by decide, rfl, ?_, ?_⟩
  · intro j h1 h2
    interval_cases j <;> exact Option.some_ne_none _
  · intro j p hp
    have hr := tableGet_range hp
    obtain ⟨h1, h2⟩ := hr
    have hl : (fullTable.set 4 none).length = 16 := by decide
    have h2 : j ≤ 16 := hl ▸ h2
    change tableGet (fullTable.set 4 none) j = some p at hp
    interval_cases j <;> first | (cases hp; decide) | cases hp

/-- A header with a stamp to this station from the same sender; and the station's trains. -/
def stamped : Header := { plain with stamp := some 1199 }

theorem witness_SenderStamped (ps : List (Option Peer)) :
    Heard (receiving { up with peers := ps, rxa := resetRxa }) stamped ∧ up.suc.address = some stamped.dest ∧
    ({ passing with stamp := some 399 } : Header).stamp = some 399 ∧
    (∀ r ∈ trains (receiving { up with peers := ps, rxa := resetRxa }).tsc, r.frames ≠ []) :=
  ⟨heard_own _ _ _ (by decide) rfl rfl, rfl, rfl, fun _ h => by cases h⟩

theorem witness_SenderEvicts :
    let s := receiving { up with peers := fullTable, rxa := resetRxa }
    Heard s passing ∧ CountersInRange s ∧ (∀ x ∈ s.peers, x ≠ none) ∧
    s.peer 1 = some (peerAt 16 0) ∧ ¬Busy s 1 ∧
    (∀ j q, s.peer j = some q → q.address ≠ passing.sender) ∧
    (∀ j q, s.peer j = some q → elapsed q.lastHeard 170 < elapsed (peerAt 16 0).lastHeard 170 ∨
      (elapsed q.lastHeard 170 = elapsed (peerAt 16 0).lastHeard 170 ∧ 1 ≤ j)) := by
  refine ⟨heard_passing _ _, ⟨by decide, by decide⟩, by decide, rfl, ?_,
    full_addresses _ rfl, ?_⟩
  · rintro (⟨f, hf, -⟩ | ⟨r, hr, -⟩ | ⟨e, he, -⟩)
    · exact absurd hf (by decide +revert)
    · exact absurd hr (by decide +revert)
    · exact absurd he (by decide +revert)
  · intro j q hq
    have hr := tableGet_range hq
    obtain ⟨h1, h2⟩ := hr
    have hl : fullTable.length = 16 := by decide
    have h2 : j ≤ 16 := hl ▸ h2
    change tableGet fullTable j = some q at hq
    interval_cases j <;> · cases hq; decide

/-- The record of the peer `far`, last heard at reset. -/
def peerFar : Peer := claimedPeer far 0 true

/-- The station with that peer in record 1. -/
def met : State := { up with peers := some peerFar :: List.replicate 15 none }

theorem met_only {s : State} (h : s.peers = met.peers) {i : Nat} {p : Peer} (hp : s.peer i = some p) :
    i = 1 ∧ p = peerFar := by
  have hr := tableGet_range hp
  rw [h] at hr
  obtain ⟨h1, h2⟩ := hr
  have h2 : i ≤ 16 := h2
  simp only [State.peer, h] at hp
  interval_cases i <;> first | (cases hp; exact ⟨rfl, rfl⟩) | cases hp

theorem met_distinct {s : State} (h : s.peers = met.peers) : PeersDistinct s := by
  intro i j p q hi hj _
  rw [(met_only h hi).1, (met_only h hj).1]

/-- A header on slot 0, version 3. -/
def mapped : Header := { plain with selector := .slot 0 3, symbols := 1 }

theorem heard_mapped (ps : List (Option Peer)) (x : Rxa) :
    Heard (receiving { up with peers := ps, rxa := x }) mapped :=
  heard_own _ _ _ (by decide) rfl rfl

/-- The peer of record 1 with versions 3 and 2 on slot 0, seven filings, and window 3 announced on it. -/
def heldPeer : Peer :=
  { peerFar with
    rxMaps := ⟨some ⟨3, List.replicate 60 8⟩, some ⟨2, List.replicate 60 7⟩⟩ ::
      List.replicate 3 ⟨none, none⟩
    announced := (List.replicate 12 none).set 3 (some 0), filings := 7 }

/-- The station with that peer. -/
def holding : State := { up with peers := some heldPeer :: List.replicate 15 none }

/-- A notice that waits for peer 1. -/
def noticeFrame : Frame := { frame 0 0 (.peer 1) with kind := .notice }

/-- On the robust map with nothing wanted; on the current version, with the keep-alive due from 20 s on; on
the previous one; a robust burst stamped in a mapped window; the eighth filing; and a waiting notice. -/
theorem witness_HeaderServed :
    (Heard (receiving met) plain ∧ PeersDistinct (receiving met) ∧
      (receiving met).peer 1 = some peerFar ∧ peerFar.address = plain.sender ∧
      mapTest peerFar plain.selector = .known .robust ∧ up.suc.address ≠ some broadcastAddr ∧
      up.suc.address = some plain.dest ∧ peerFar.noticePending = false ∧ plain.stamp = none) ∧
    (Heard (receiving holding) mapped ∧ (receiving holding).peer 1 = some heldPeer ∧
      mapTest heldPeer mapped.selector = .known (.window (List.replicate 60 8)) ∧
      heldPeer.lastNotice = none ∧ 20000000 ≤ elapsed (170 - 20000000) 170 ∧
      ¬20000000 ≤ elapsed (170 - 19999999) 170 ∧ holding.tsc.queues.length = 8 ∧
      heldPeer.announced.length = 12 ∧ 2 ≤ holding.bpm.ctlFree ∧ 1 ≤ holding.bpm.ctlDesc) ∧
    mapTest heldPeer (.slot 0 2) = .known (.window (List.replicate 60 7)) ∧
    (heldPeer.announced.getD (399 / 100) none ≠ none ∧ heldPeer.announced.getD (400 / 100) none = none ∧
      heldPeer.robustResend = none ∧ 1000000 ≤ elapsed (170 - 1000000) 170) ∧
    (7 ≤ heldPeer.filings ∧ tableGet holding.lae.reviews 1 = none ∧ peerFar.filings < 7) ∧
    (noticeFrame ∈ queueAt (waiting 0 [noticeFrame]) 0 ∧ noticeFrame.kind = .notice ∧
      noticeFrame.dest = .peer 1) := by
  refine ⟨⟨heard_plain _ _, met_distinct rfl, rfl, rfl, by decide, by decide, by decide, rfl, rfl⟩,
    ⟨heard_mapped _ _, rfl, by decide⟩, by decide, by decide, by decide, by decide⟩

/-- A known sender's header to another station, and a broadcast one on a map that is not known. -/
theorem witness_HeaderNotServed :
    (Heard (receiving met) passing ∧ up.suc.address ≠ some passing.dest ∧ passing.dest ≠ broadcastAddr) ∧
    (Heard (receiving met) { mapped with dest := broadcastAddr } ∧
      mapTest peerFar mapped.selector = .unknown ∧ up.suc.address ≠ some broadcastAddr) :=
  ⟨⟨heard_passing _ _, by decide, by decide⟩, heard_own _ _ _ (by decide) rfl rfl, by decide, by decide⟩

theorem witness_HeaderMapUnknown : Heard (receiving met) mapped ∧
    mapTest peerFar mapped.selector = .unknown ∧ mapped.dest ≠ broadcastAddr ∧
    met.tsc.queues.length = 8 ∧ peerFar.announced.length = 12 ∧ 2 ≤ met.bpm.ctlFree ∧
    1 ≤ met.bpm.ctlDesc :=
  ⟨heard_mapped _ _, by decide⟩

/-- A window measured four times at 25 dB. -/
def good : WindowStore := ⟨4, List.replicate 60 ⟨100, 100⟩⟩

theorem witness_MeasurementArithmetic : emptyWindow.groups[59]? = some ⟨0, 0⟩ ∧
    emptyWindow.count = 0 ∧ good.groups[0]? = some ⟨100, 100⟩ ∧ good.count ≠ 0 ∧
    [12, 28, 44, 56, 68, 80, 92, 104, 116, 128][1 - 1]? = some 12 ∧
    [12, 28, 44, 56, 68, 80, 92, 104, 116, 128][10 - 1]? = some 128 := by decide

theorem witness_NewSetCarriesMore : (reviewSet (List.replicate 60 false) 16
    (List.replicate 12 good)).windows[11]? = some (some 0) ∧
    (windowLoads (List.replicate 60 false) 16 good).length = 60 := by decide

/-- The three courses of R78: a join, a slot opened, and a forced join. -/
theorem witness_Grouped :
    Placed [bands 6 5 4] (bands 6 6 5) [bands 6 5 4] 0 ∧
    Placed [bands 6 5 4] (bands 3 3 2) [bands 6 5 4, bands 3 3 2] 1 ∧
    Placed [bands 6 5 4, bands 3 3 2, bands 1 1 6, bands 2 6 4] (bands 6 1 1)
      [bands 6 1 1, bands 3 3 2, bands 1 1 6, bands 2 6 4] 0 := by
  refine ⟨.joins (slots := [bands 6 5 4]) 0 _ rfl ?_ (fun j hj => by omega), .opens ?_ (by decide),
    .forced (slots := [bands 6 5 4, bands 3 3 2, bands 1 1 6, bands 2 6 4]) 0 _ ?_ (by decide) rfl ?_⟩
  · unfold Joins; decide
  · unfold Joins; decide
  · unfold Joins; decide
  · intro j m' hj
    match j, hj with
    | 0, hj => cases hj; decide
    | 1, hj => cases hj; decide
    | 2, hj => cases hj; decide
    | 3, hj => cases hj; decide

theorem witness_ReviewCompletes :
    let s := { met with lae := { resetLae with
      reviews := some ⟨0, List.replicate 12 good⟩ :: List.replicate 15 none } }
    tableGet s.lae.reviews 1 = some ⟨0, List.replicate 12 good⟩ ∧ s.peer 1 = some peerFar ∧
    announces peerFar (reviewSet s.lmd.notch s.lae.margin (List.replicate 12 good)) = true ∧
    announces peerFar (reviewSet s.lmd.notch s.lae.margin (List.replicate 12 emptyWindow)) = false ∧
    peerFar.lastUnicast = some 0 ∧ elapsed 0 10000000 ≤ 10000000 ∧
    ¬elapsed 0 10000001 ≤ 10000000 ∧ s.tsc.queues.length = 8 ∧ 2 ≤ s.bpm.ctlFree ∧
    (List.replicate 12 good).length = 12 := by decide

/-- The rows of the table of R82: a slot's map in the new set, and the slot's current and previous. -/
theorem witness_SlotAnnounced : heldPeer.rxMaps[0]? =
      some ⟨some ⟨3, List.replicate 60 8⟩, some ⟨2, List.replicate 60 7⟩⟩ ∧
    heldPeer.rxMaps[1]? = some ⟨none, none⟩ ∧
    (⟨[], [some (List.replicate 60 8)]⟩ : NewSet).slots.getD 0 none = some (List.replicate 60 8) ∧
    (⟨[], [some (List.replicate 60 8)]⟩ : NewSet).slots.getD 1 none = none := by decide

/-! #### Blocks -/

/-- The burst in hand after its header, and the burst in service. -/
def served : BurstInHand := { inHand with header := some plain, stage := .payload, dataBits := 120 }
/-- The burst in service for it. -/
def service : Service := ⟨1, false, 1, some ⟨.received, false, [false]⟩⟩

/-- The station with that burst, a reassembly table and a number of free blocks. -/
def taking1 (table : List (Option Entry)) (free : Nat) : State :=
  { met with
    lmd := { up.lmd with activity := .receive, inHand := some served }
    rxa := ⟨table, some service⟩
    bpm := { resetBpm with rxFree := free } }

/-- A block as the ten robust symbols of its burst carry it. -/
def sentBlock (bytes : List Byte) : SymbolsHeard := sentOn .robust 10 (payloadBits 10 120 [bytes])

/-- Bytes are read back from their bits. -/
theorem bytes_read (l : List Byte) (rest : List Bool) :
    ((List.range l.length).map fun k => BitVec.ofNat 8 (bitsAt (bytesBits l ++ rest) (8 * k) 8)) = l := by
  induction l with
  | nil => rfl
  | cons b l ih =>
    have hb : bytesBits (b :: l) ++ rest = natBits 8 b.toNat ++ (bytesBits l ++ rest) := by
      simp [bytesBits]
    have h8 : (natBits 8 b.toNat).length = 8 := natBits_length _ _
    rw [List.length_cons, List.range_succ_eq_map, List.map_cons, List.map_map, hb]
    congr 1
    · rw [bitsAt, Nat.mul_zero, List.drop_zero, List.take_left' h8, bitsNat_natBits b.isLt,
        BitVec.ofNat_toNat, BitVec.setWidth_eq]

/-- The bytes of the one block of a payload stand first in it. -/
theorem stands_first (bytes : List Byte) (h : bytes.length = 136) :
    ((List.range 136).map fun k =>
      BitVec.ofNat 8 (bitsAt (payloadBits 10 120 [bytes]) (blockBits * 0 + 8 * k) 8)) = bytes := by
  have hl : (bytesBits bytes).length = 1088 := by
    have : ∀ l : List Byte, (bytesBits l).length = 8 * l.length := by
      intro l
      induction l with
      | nil => rfl
      | cons b l ih => simp only [bytesBits, List.flatMap_cons, List.length_append, List.length_cons,
          natBits_length] at *; omega
    rw [this, h]
  have hp : payloadBits 10 120 [bytes] = bytesBits bytes ++ List.replicate 112 false := by
    rw [payloadBits, List.flatMap_cons, List.flatMap_nil, List.append_nil, fitTo, List.take_append,
      List.take_of_length_le (by omega), List.take_replicate, hl]
    rfl
  have := bytes_read bytes (List.replicate 112 false)
  rw [h] at this
  rw [hp]
  simpa only [Nat.mul_zero, Nat.zero_add] using this

theorem witness_BlockDue (t : Time) (table : List (Option Entry)) (free : Nat) (bytes : List Byte)
    (ht : reached t (handInstant served plain 1) = true) (hb : bytes.length = 136) :
    BlockDue t (taking1 table free) (sentBlock bytes) bytes served plain service := by
  refine ⟨rfl, rfl, rfl, rfl, rfl, by decide, ht, ?_, rfl⟩
  refine Eq.trans ?_ (stands_first bytes hb)
  simp only [blockHeard, sentBlock]
  rw [show (taking1 table free).lmd.notch = open60 from rfl, show served.map = .robust from rfl,
    show plain.symbols = 10 from rfl, read_sent 10 (payloadBits 10 120 [bytes]) (fitTo_length 1200 _ _)]
  rfl

/-- Payload that begins as a broadcast frame from a station behind the peer. -/
def head : List Byte := List.replicate 6 0xFF ++ [2, 0, 0, 0, 0, 9] ++ List.replicate 116 0

/-- Block 2 of a data frame at level 2 with tag 7. -/
def second (total : Nat) : List Byte := encodeBlock ⟨.data, 2, 7, 2, total, 100⟩ (List.replicate 128 0)

/-- The one block of a data frame at level 2 with tag 7. -/
def only : List Byte := encodeBlock ⟨.data, 2, 7, 1, 1, 100⟩ head

theorem second_header : readBlockHeader (second 3) = ⟨.data, 2, 7, 2, 3, 100⟩ ∧
    readBlockHeader (second 2) = ⟨.data, 2, 7, 2, 2, 100⟩ := by decide

/-- The payload of a block that is sent whole has not gone silent. -/
theorem sent_whole (table : List (Option Entry)) (free : Nat) (bytes : List Byte) :
    ¬GoneSilent (taking1 table free) (sentBlock bytes) served plain := by
  rw [← blockSilent_iff]
  simp only [blockSilent, List.any_eq_true, List.mem_range, Bool.and_eq_true, not_exists, not_and]
  intro i hi _
  have : symbolSilent open60 .robust (chosenSymbol served.choice (sentBlock bytes) i) = false :=
    sent_audible 10 (payloadBits 10 120 [bytes]) _ hi
  rw [show symbolSilent (taking1 table free).lmd.notch served.map
    (chosenSymbol served.choice (sentBlock bytes) i) = false from this]
  exact Bool.false_ne_true

/-- A block that fails its check, and one that passes every test. -/
theorem witness_BlockDamaged (table : List (Option Entry)) (free : Nat) :
    Damaged (taking1 table free) (sentBlock (List.replicate 136 0)) (List.replicate 136 0) served plain
      service ∧
    ¬Damaged (taking1 table free) (sentBlock (second 3)) (second 3) served plain service :=
  ⟨.inr (.inl (by decide +kernel)), not_or.2 ⟨sent_whole _ _ _, by decide +kernel⟩⟩

/-- A payload of which nothing is heard: whatever its bits are read as, the block is refused. -/
theorem witness_GoneSilent (table : List (Option Entry)) (free : Nat) :
    let s := taking1 table free
    BlockDue 560 s (blank 10) (blockHeard s.lmd served plain 1 (blank 10)) served plain service ∧
    GoneSilent s (blank 10) served plain := by
  refine ⟨⟨rfl, rfl, rfl, rfl, rfl, by decide, by decide, rfl, rfl⟩,
    ⟨0, by decide, by decide, by decide, fun g hg => .inr (.inr fun c hc => ?_)⟩⟩
  have : ((blank 10).onA.getD 0 []).getD g [] = [] := by
    interval_cases g <;> rfl
  rw [show served.choice.getD g .a = .a by interval_cases g <;> rfl] at hc
  rw [this] at hc
  cases hc

theorem second_sound (table : List (Option Entry)) (free : Nat) :
    ¬Damaged (taking1 table free) (sentBlock (second 2)) (second 2) served plain service :=
  not_or.2 ⟨sent_whole _ _ _, by decide +kernel⟩

theorem only_header : readBlockHeader only = ⟨.data, 2, 7, 1, 1, 100⟩ := by decide

theorem only_sound (table : List (Option Entry)) (free : Nat) :
    ¬Damaged (taking1 table free) (sentBlock only) only served plain service :=
  not_or.2 ⟨sent_whole _ _ _, by decide +kernel⟩

/-- An entry for that frame that holds some blocks. -/
def partly (total last : Nat) (blocks : List (Nat × List Byte)) : Entry :=
  ⟨1, 2, 7, false, .data, total, last, blocks, 0⟩

/-- A table with one entry. -/
def oneEntry (e : Entry) : List (Option Entry) := some e :: List.replicate 31 none

theorem witness_DuplicateAccepted (x : BlockHeader) (h : x = ⟨.data, 2, 7, 2, 3, 100⟩) :
    let s := taking1 (oneEntry (partly 3 100 [(2, [])])) 200
    s.peer service.sender = some peerFar ∧ KeyAt s service x 1 (partly 3 100 [(2, [])]) ∧
    (partly 3 100 [(2, [])]).agrees x = true ∧ (partly 3 100 [(2, [])]).holdsIndex x.index = true ∧
    CompletedBefore { met with peers := [some { peerFar with recent := [(2, 7)] }] } service x := by
  subst h
  exact ⟨rfl, rfl, by decide, by decide, rfl, _, rfl, by decide⟩

theorem not_completed (table : List (Option Entry)) (free : Nat) (x : BlockHeader) :
    ¬CompletedBefore (taking1 table free) service x := by
  rintro ⟨-, p, hp, hm⟩
  cases hp
  simp [peerFar, claimedPeer] at hm

/-- A table with 32 entries of other frames, the oldest at position 1. -/
def fullEntries : List (Option Entry) :=
  (List.range 32).map fun k => some { entryOf 1 (k + 100) with lastTime := BitVec.ofNat 32 k }

theorem full_entry (j : Nat) (f : Entry) (h : tableGet fullEntries j = some f) :
    1 ≤ j ∧ f.lastTime = BitVec.ofNat 32 (j - 1) ∧ j ≤ 32 := by
  have hr := tableGet_range h
  obtain ⟨h1, h2⟩ := hr
  have hl : fullEntries.length = 32 := by decide
  have h2 : j ≤ 32 := hl ▸ h2
  interval_cases j <;> · cases h; exact ⟨by decide, rfl, by decide⟩

theorem full_oldest (t : Time) (ht : t = 560 ∨ t = 20000) (j : Nat) (f : Entry)
    (hf : tableGet fullEntries j = some f) : elapsed f.lastTime t < elapsed 0 t ∨
      (elapsed f.lastTime t = elapsed 0 t ∧ 1 ≤ j) := by
  obtain ⟨h1, h2, h3⟩ := full_entry j f hf
  rw [h2]
  rcases ht with rfl | rfl <;> interval_cases j <;> decide

/-- Room in a table for a block at 20,000 µs: a vacant position; a stale entry that goes; and a full table
whose oldest entry goes, 20,000 µs old. -/
theorem witness_MakesRoom (x : BlockHeader)
    (h : x = ⟨.data, 2, 7, 2, 3, 100⟩ ∨ x = ⟨.data, 2, 7, 1, 1, 100⟩) :
    MakesRoom 20000 (taking1 resetRxa.table 1) service x (taking1 resetRxa.table 1) ∧
    MakesRoom 20000 (taking1 (oneEntry (partly 3 99 [(1, [])])) 0) service x
      (freedAt 1 (partly 3 99 [(1, [])]) (taking1 (oneEntry (partly 3 99 [(1, [])])) 0)) ∧
    MakesRoom 20000 (taking1 fullEntries 0) service x
      (freedAt 1 { entryOf 1 100 with lastTime := 0 } (taking1 fullEntries 0)) := by
  refine ⟨.vacant ?_ (by decide), .stale _ _ ?_ ?_,
    .evicted _ _ ?_ (by decide) rfl (by decide) (full_oldest _ (.inr rfl))⟩ <;>
    rcases h with rfl | rfl <;> rfl

/-- Stored in its entry; and in a new one, with room made for it, and a free block for it then. -/
theorem witness_BlockStored (x : BlockHeader) (h : x = ⟨.data, 2, 7, 2, 3, 100⟩) :
    (KeyAt (taking1 (oneEntry (partly 3 100 [(1, [])])) 1) service x 1 (partly 3 100 [(1, [])]) ∧
      (partly 3 100 [(1, [])]).agrees x = true ∧
      (partly 3 100 [(1, [])]).holdsIndex x.index = false ∧
      ((partly 3 100 [(1, [])]).adding x (second 3) 560).isComplete = false) ∧
    (lowestVacant (taking1 resetRxa.table 1).rxa.table = some 1 ∧ 2 ≤ x.total ∧
      reached 20000 (handInstant served plain 1) = true) ∧
    (let r := freedAt 1 (partly 3 99 [(1, [])]) (taking1 (oneEntry (partly 3 99 [(1, [])])) 0);
      lowestVacant r.rxa.table = some 1 ∧ r.bpm.rxFree ≠ 0) ∧
    (let r := freedAt 1 { entryOf 1 100 with lastTime := 0 } (taking1 fullEntries 0);
      lowestVacant r.rxa.table = some 1 ∧ r.bpm.rxFree ≠ 0) := by
  subst h
  exact ⟨⟨rfl, by decide⟩, by decide, by decide, by decide⟩

theorem witness_BlockRefusedForBuffer (x : BlockHeader) (h : x = ⟨.data, 2, 7, 2, 3, 100⟩) :
    ((taking1 (oneEntry (partly 3 100 [(1, [])])) 0).bpm.rxFree = 0 ∧
      KeyAt (taking1 (oneEntry (partly 3 100 [(1, [])])) 0) service x 1 (partly 3 100 [(1, [])])) ∧
    (NoKey (taking1 resetRxa.table 0) service x ∧ none ∈ resetRxa.table) ∧
    (NoKey (taking1 fullEntries 5) service x ∧ ∀ y ∈ fullEntries, ∃ e, y = some e ∧
      elapsed e.lastTime 19999 < 20000) := by
  subst h
  refine ⟨⟨rfl, rfl⟩, ⟨rfl, by decide⟩, rfl, ?_⟩
  intro y hy
  simp only [fullEntries, List.mem_map, List.mem_range] at hy
  obtain ⟨k, hk, rfl⟩ := hy
  refine ⟨_, rfl, ?_⟩
  interval_cases k <;> decide

/-- The second block of two. -/
theorem witness_DataFrameCompletes (table : List (Option Entry))
    (ht : table = oneEntry (partly 2 100 [(1, head)])) :
    Completes 560 (taking1 table 200) (sentBlock (second 2)) (second 2) served plain service
      (taking1 table 200) 1
      ((partly 2 100 [(1, head)]).adding (readBlockHeader (second 2)) (second 2) 560) peerFar := by
  subst ht
  refine ⟨witness_BlockDue 560 _ _ _ (by decide) (by decide), second_sound _ _, not_completed _ _ _,
    .inl ⟨partly 2 100 [(1, head)], ?_, ?_, ?_, rfl, rfl⟩, by decide, ?_, rfl⟩
  · rw [second_header.2]; rfl
  · rw [second_header.2]; decide
  · rw [second_header.2]; decide
  · rw [second_header.2]; decide

/-- The one block of a frame, in a table with room, in the place of a stale entry, and in that of the
oldest entry of a full table. -/
theorem witness_OneBlockCompletes (table : List (Option Entry)) (free : Nat) (r : State)
    (h : table = resetRxa.table ∧ free = 1 ∧ r = taking1 table free ∨
      table = oneEntry (partly 3 99 [(1, [])]) ∧ free = 0 ∧
        r = freedAt 1 (partly 3 99 [(1, [])]) (taking1 table free) ∨
      table = fullEntries ∧ free = 0 ∧
        r = freedAt 1 { entryOf 1 100 with lastTime := 0 } (taking1 table free)) :
    Completes 20000 (taking1 table free) (sentBlock only) only served plain service r 1
      (newEntry service (readBlockHeader only) (blockPayloadOf only) 20000) peerFar := by
  have hm := witness_MakesRoom (readBlockHeader only) (.inr only_header)
  have ho : (newEntry service (readBlockHeader only) (blockPayloadOf only) 20000).isComplete = true := by
    rw [only_header]; decide
  have ht : (readBlockHeader only).total = 1 := by rw [only_header]
  rcases h with ⟨rfl, rfl, rfl⟩ | ⟨rfl, rfl, rfl⟩ | ⟨rfl, rfl, rfl⟩
  · exact ⟨witness_BlockDue 20000 _ _ _ (by decide) (by decide), only_sound _ _, not_completed _ _ _,
      .inr ⟨hm.1, by decide, ht, rfl⟩, by decide, ho, rfl⟩
  · exact ⟨witness_BlockDue 20000 _ _ _ (by decide) (by decide), only_sound _ _, not_completed _ _ _,
      .inr ⟨hm.2.1, by decide, ht, rfl⟩, by decide, ho, rfl⟩
  · exact ⟨witness_BlockDue 20000 _ _ _ (by decide) (by decide), only_sound _ _, not_completed _ _ _,
      .inr ⟨hm.2.2, by decide, ht, rfl⟩, by decide, ho, rfl⟩

/-- An address behind the peer. -/
def behind : Addr := 0x020000000009

/-- 256 entries of other addresses, the oldest at position 1. -/
def fullForward : List (Option ForwardEntry) :=
  (List.range 256).map fun k => some ⟨BitVec.ofNat 48 (4096 + k * 4), 1, BitVec.ofNat 32 k⟩

/-- The cases of delivery and learning: room in the FIFO and none, an idle port, a pause that holds; a
source that can be learned at its own position, at the lowest vacant one, and over the oldest entry, and
one that cannot. -/
theorem witness_Delivery :
    (met.ptu.fifo.length < 32 ∧ met.ptu.egress = .idle ∧ pauseHolds 560 met.ptu = false ∧
      pauseHolds 560 { resetPtu with pauseEnd := some 561 } = true ∧
      32 ≤ (List.replicate 32 (⟨[], 1, 0⟩ : EgressFrame)).length) ∧
    ((((partly 2 100 [(1, head)]).adding ⟨.data, 2, 7, 2, 2, 100⟩ (second 2) 560).frameBytes |>
        (addrAt · 7)) = behind ∧ isGroup behind = false ∧ behind ≠ 0 ∧ met.suc.address ≠ some behind) ∧
    forwardFind behind [none, some ⟨behind, 2, 0⟩] = some (2, ⟨behind, 2, 0⟩) ∧
    (forwardFind behind [none, none] = none ∧
      lowestVacant ([none, none] : List (Option ForwardEntry)) = some 1) ∧
    isGroup (addrAt [1, 1, 1, 1, 1, 1, 1] 2) = true := by decide

theorem witness_Replacement : forwardFind behind fullForward = none ∧
    (∀ y ∈ fullForward, y ≠ none) ∧ tableGet fullForward 1 = some ⟨4096, 1, 0⟩ ∧
    ∀ j g, tableGet fullForward j = some g → elapsed g.lastSeen 560 < elapsed 0 560 ∨
      (elapsed g.lastSeen 560 = elapsed 0 560 ∧ 1 ≤ j) := by
  refine ⟨by decide +kernel, by decide +kernel, rfl, fun j g h => ?_⟩
  have h1 := (tableGet_range h).1
  have ht : ∀ y ∈ fullForward, ∀ e, y = some e → elapsed e.lastSeen 560 ≤ elapsed 0 560 := by
    decide +kernel
  have hm : some g ∈ fullForward := by
    match j, h with
    | k + 1, h =>
      simp only [tableGet, Option.join_eq_some_iff] at h
      exact List.mem_of_getElem? h
  have := ht _ hm g rfl
  omega

/-- Block 2 of a map notice with tag 7. -/
def noticeEnd : List Byte := encodeBlock ⟨.notice, 0, 7, 2, 2, 12⟩ (List.replicate 128 0)

/-- The entry of a notice with its first block. -/
def noticeEntry (first : List Byte) : Entry := ⟨1, 0, 7, false, .notice, 2, 12, [(1, first)], 0⟩

/-- A notice with no map, and one with a version above 15. -/
theorem witness_NoticeCompletes (first : List Byte) (hf : first = List.replicate 128 0) :
    Completes 560 (taking1 (oneEntry (noticeEntry first)) 200) (sentBlock noticeEnd) noticeEnd served
      plain service (taking1 (oneEntry (noticeEntry first)) 200) 1
      ((noticeEntry first).adding (readBlockHeader noticeEnd) noticeEnd 560) peerFar ∧
    (readNotice ((noticeEntry first).adding ⟨.notice, 0, 7, 2, 2, 12⟩ noticeEnd 560).frameBytes).2 =
      List.replicate 4 none ∧
    some ⟨16, List.replicate 60 0⟩ ∈ (readNotice (List.replicate 12 0 ++ [1, 16] ++
      List.replicate 126 0)).2 := by
  subst hf
  have hx : readBlockHeader noticeEnd = ⟨.notice, 0, 7, 2, 2, 12⟩ := by decide
  refine ⟨⟨witness_BlockDue 560 _ _ _ (by decide) (by decide),
    not_or.2 ⟨sent_whole _ _ _, by decide +kernel⟩, not_completed _ _ _,
    .inl ⟨noticeEntry (List.replicate 128 0), ?_, ?_, ?_, rfl, rfl⟩, by decide, ?_, rfl⟩, by decide,
    by decide⟩
  · rw [hx]; rfl
  · rw [hx]; decide
  · rw [hx]; decide
  · rw [hx]; decide

/-- R94: an entry that is ROBUST, one that names an absent slot, one whose map carries no more than the
robust map, and one that stands. -/
theorem witness_WindowsSettled :
    WindowsSettled 60 [some ⟨0, List.replicate 60 8⟩, some ⟨0, List.replicate 10 1⟩, none, none]
      [none, some 2, some 1, some 0] [none, none, none, some 0] := by
  refine ⟨rfl, ?_, ?_, ?_, ?_⟩
  · intro w h
    match w, h with
    | 0, _ => rfl
    | 1, h | 2, h | 3, h => cases h
  · intro w k h hk
    match w, h with
    | 1, _ => rfl
    | 2, h => cases h; cases hk
    | 3, h => cases h; cases hk
  · intro w k m h hk hm
    match w, h with
    | 1, _ => rfl
    | 2, _ => rfl
    | 3, h => cases h; cases hk; exact absurd hm (by decide)
  · intro w k m h hk hm
    match w, h with
    | 1, h => cases h; cases hk
    | 2, h => cases h; cases hk; exact absurd hm (by decide)
    | 3, h => cases h; rfl

theorem witness_ReceptionEnds :
    reached 560 (after served.start (160 + 40 * plain.symbols)) = true ∧ plain.dest ≠ broadcastAddr ∧
    ({ plain with dest := broadcastAddr } : Header).dest = broadcastAddr ∧
    ({ served with handed := 1 } : BurstInHand).handed = plain.blocks ∧
    ({ served with stage := .ended } : BurstInHand).stage = .ended ∧ service.receipt.isSome = true ∧
    up.suc.address = some own ∧ reached 620 (after served.start (220 + 40 * plain.symbols)) = true ∧
    reached 700 (after 620 80) = true := by decide

theorem witness_RxBalanceKept : RxBalance (taking1 (oneEntry (partly 3 100 [(1, [])])) 255) ∧
    ∃ s', step ((taking1 (oneEntry (partly 3 100 [(1, [])])) 255).withQueue
      [.reassemblyTimeout 250000 1]) = .next s' ∧ s'.bpm.rxFree = 256 := by
  refine ⟨?_, _, rfl, rfl⟩
  unfold RxBalance; decide

/-! #### Trains and bursts -/

/-- Two broadcast frames and one for peer 1 at level 2. -/
def three : List Frame := [frame 0 2 .broadcast, frame 1 2 .broadcast, frame 2 2 (.peer 1)]

/-- The station in GAP with those frames, and an active train at level 5 or none. -/
def forming (a : Option Train) : State :=
  { withClc gap with tsc := { waiting 2 three with active := a } }

/-- The two broadcast frames form a train above the one at level 5. -/
theorem witness_FormsTrain : FormsTrain 2 (frame 0 2 .broadcast) [frame 1 2 .broadcast, frame 2 2 (.peer 1)]
    2 0 (forming (some (train (frame 3 5 .broadcast)))) where
  queue := rfl
  level := by decide
  first := by decide
  urgent := fun a h => by obtain rfl : train (frame 3 5 .broadcast) = a := Option.some.inj h; decide
  atMost := by decide
  atLeast := by decide
  there := by decide
  alike := by decide
  ends := fun _ g h => by obtain rfl : frame 2 2 (.peer 1) = g := Option.some.inj h; decide
  counter := rfl
  tagRange := by decide

theorem witness_TrainFormed :
    let s := forming (some (train (frame 3 5 .broadcast)))
    s.tsc.queues.length = 8 ∧ 2 ≤ s.tsc.floor ∧
    (∀ j, j < 2 → queueAt s.tsc j = []) ∧ s.tsc.active = some (train (frame 3 5 .broadcast)) ∧
    tagCounter { s with peers := met.peers } (.peer 1) 2 = 0 ∧
    (train (frame 3 2 .broadcast)).level = 2 := by
  refine ⟨rfl, by decide, by decide, rfl, rfl, rfl⟩

/-- A frame at level 4 and an active train at level 5, both less urgent than the floor 3; and the two at the
floor. -/
theorem witness_NotPending :
    let s (floor : Nat) : State := { withClc gap with tsc := { waiting 4 [frame 0 4 .broadcast] with
      active := some (train (frame 1 5 .broadcast)), floor := floor } }
    ((∀ j, j ≤ 7 → j ≤ (s 3).tsc.floor → queueAt (s 3).tsc j = []) ∧
      (s 3).tsc.floor < (train (frame 1 5 .broadcast)).level) ∧
    (queueAt (s 4).tsc 4 ≠ [] ∧ 4 ≤ (s 4).tsc.floor ∧ prospectiveLevel (s 4).tsc = some 4) := by
  refine ⟨⟨fun j _ h => ?_, by decide⟩, by decide, by decide, by decide⟩
  have h : j ≤ 3 := h
  interval_cases j <;> rfl

/-- A peer with a map of loading 8 on slot 0, version 3, in windows 2 and 3. -/
def mappedPeer : Peer :=
  { peerFar with txMaps := some ⟨runList, [some ⟨3, List.replicate 60 8⟩, none, none, none], 0⟩ }

/-- The station that cuts a burst to a peer at the latched phase 380. -/
def cutting : State :=
  { met with
    peers := some mappedPeer :: List.replicate 15 none
    lcu := { locked with latchPhase := some 380, latchP16 := 320000 } }

/-- A win with a burst of one block to a peer. -/
theorem witness_PeerBurst : met.peer 1 = some peerFar ∧ (train (frame 0 2 (.peer 1))).dest = .peer 1 ∧
    (burstFor met (train (frame 0 2 (.peer 1)))).map (fun b => b.refs) = some [⟨.data, 0, 0⟩] := by
  decide

/-- A burst on the window map of the run, and one on the robust map. -/
theorem witness_BurstFits :
    (burstFor cutting (train (frame 0 2 (.peer 1)))).map (fun b => (b.selector, b.map, b.symbols)) =
      some (.slot 0 3, .window (List.replicate 60 8), 1) ∧
    (burstFor cutting (train (frame 0 2 .broadcast))).map (fun b => (b.selector, b.map, b.symbols)) =
      some (.robust, .robust, 10) := by decide

/-- At phase 380 the run allows four symbols, from window 3 to the end of it; at 390 none, and at the latched
phase of another state the list gives ROBUST; a run without an end; and what may go. -/
theorem witness_OnWindow :
    OnWindow cutting (.peer 1) 0 ⟨3, List.replicate 60 8⟩ 4 ∧
    RunAllows (List.replicate 12 (some 0)) 0 380 320000 28 ∧
    (∀ k m kMax, ¬OnWindow cutting .broadcast k m kMax) ∧
    mayGo 60 (.peer 1) [frame 0 2 (.peer 1)] 4 5760 = 1 ∧
    mayGo 60 .broadcast [doneFrame] 28 120 = 0 ∧ mayGo 33 (.peer 1) [frame 0 2 (.peer 1)] 28 66 = 0 := by
  refine ⟨⟨⟨1, mappedPeer, _, 380, rfl, rfl, rfl, by decide, rfl, rfl, rfl,
    .ends (ws := runList) (phase := 380) (p16 := 320000) 1 (by decide) (by decide) (by decide) ?_⟩,
    by decide, by decide⟩, .endless ?_, ?_, by decide, by decide, by decide⟩
  · intro c h1 h2
    omega
  · intro w hw
    interval_cases w <;> rfl
  · rintro k m kMax ⟨⟨i, p, set, phase, hd, -⟩, -, -⟩
    cases hd

/-- A frame whose one block is in the burst on line. -/
def sent (dest : Dest) (expired : Bool) (attempts : Nat) : Frame :=
  { frame 0 2 dest with
    blocks := [⟨.onLine, true⟩], tag := some 0, attempts := attempts, expired := expired }

/-- A burst of that block. -/
def burst (dest : Dest) (a : Addr) : BurstOnLine :=
  ⟨dest, a, .robust, .robust, 120, 10, [⟨.data, 0, 0⟩], [List.replicate 136 0]⟩

/-- The receipt expectation of that burst. -/
def expected : ReceiptExpect := ⟨620, far, 1⟩

/-- The station with that burst on the line since 0. -/
def bursting (f : Frame) (medium : Medium) (act : Activity) : State :=
  { met with
    clc := clcIn medium
    lmd := { up.lmd with activity := act, expect := some expected }
    tsc := { resetTsc with active := some (train f), onLine := some (burst f.dest far) } }

theorem witness_BurstGoes :
    let s := bursting (sent (.peer 1) false 1) .sending .listen
    s.tsc.onLine = some (burst (.peer 1) far) ∧ s.suc.address = some own ∧
    s.suc.label = some 0x55AA ∧ s.clc.medium = .sending ∧ s.lmd.activity ≠ .sendBurst ∧
    reached 0 s.lcu.latchStart = true ∧ s.lmd.inHand = none ∧
    (bursting (sent (.peer 1) false 1) .sending .sendBurst).lmd.activity = .sendBurst ∧
    reached 560 (after 0 (160 + 40 * (burst (.peer 1) far).symbols)) = true := by decide

theorem witness_SlotEnds (expired : Bool) (attempts : Nat) :
    SlotEnds 700 (bursting (sent (.peer 1) expired attempts) .awaitReceipt .receiptWait)
      (burst (.peer 1) far) expected 1 peerFar (train (sent (.peer 1) expired attempts)) :=
  ⟨rfl, rfl, rfl, rfl, rfl, (by decide : reached 700 (after 0 700) = true), rfl, rfl⟩

/-- The two preamble symbols, two header symbols and ten payload symbols of that burst fit its maps. -/
theorem witness_BurstSymbols : (∀ loads, (burst (.peer 1) far).map = .window loads →
      loads.length = open60.length) ∧
    (∃ x, x ∈ mapSymbols open60 (burst (.peer 1) far).map 10
      (payloadBits 10 120 (burst (.peer 1) far).blocks)) ∧
    (List.replicate 60 8).length = open60.length ∧
    ∃ x, x ∈ mapSymbols open60 (.window (List.replicate 60 8)) 1 [] :=
  ⟨fun _ h => by simp [burst] at h, ⟨_, List.mem_map.2 ⟨0, List.mem_range.2 (by decide), rfl⟩⟩, rfl,
    _, List.mem_map.2 ⟨0, List.mem_range.2 (by decide), rfl⟩⟩

/-- A receipt as its symbol carries it, 8 µs late: its preamble symbol has every group best on path A, and
path B gives nothing. -/
def heard (r : Receipt) : ReceiptHeard :=
  ⟨628, true, false, List.replicate 60 10000, List.replicate 60 0,
    asHeard (robustSymbol open60 (receiptSymbol 60 far r)), []⟩

/-- Its groups are taken from path A. -/
theorem chosen_a (r : Receipt) (g : Nat) :
    (choosePaths .single open60 (heard r).snrA (heard r).snrB).getD g .a = .a := by
  simp [choosePaths]

theorem heardOn_a (r : Receipt) :
    HeardOn (choosePaths .single open60 (heard r).snrA (heard r).snrB)
      [robustSymbol open60 (receiptSymbol 60 far r)] ⟨[(heard r).symbolA], [(heard r).symbolB]⟩ := by
  intro i g hi hg
  have hi : i = 0 := by simpa using hi
  subst hi
  rw [chosen_a r g]
  rfl

theorem receipt_paths (m : Lmd) (r : Receipt) (hn : m.notch = open60) (hp : m.path = .single) :
    receiptOnPaths m (heard r) = asHeard (robustSymbol open60 (receiptSymbol 60 far r)) := by
  rw [receiptOnPaths, hn, hp]
  refine fromPaths_eq ?_ fun g hg => ?_
  · rw [asHeard, List.length_map]
    exact mapSymbol_length (map := .robust) (notch := open60) trivial _
  · rw [chosen_a r g]
    rfl

theorem receipt_heard (m : Lmd) (r : Receipt) (hn : m.notch = open60) (hp : m.path = .single) :
    receiptBits m (heard r) = receiptSymbol 60 far r := by
  rw [receiptBits, receipt_paths m r hn hp, hn]
  exact readSymbol_mapSymbol (map := .robust) (notch := open60) trivial (fitTo_length 120 _ _)

theorem witness_ReceiptIs (r : Receipt)
    (hr : r = ⟨.received, false, [true]⟩ ∨ r = ⟨.mapUnknown, false, []⟩) :
    ReceiptIs (bursting (sent (.peer 1) false 1) .awaitReceipt .receiptWait) expected (heard r) r := by
  refine ⟨⟨fun _ => rfl, fun h => ?_⟩, .inl (by show elapsed 620 628 ≤ 8; decide), ?_, ?_⟩
  · cases h
  · obtain ⟨c, hc, hne⟩ := placeRobust_used (codeWord_length Config.robustCode (4 * groupsOn open60)
      (receiptSymbol 60 far r)) (g := 0) rfl
    refine ⟨0, by decide, rfl, c, ?_, hne⟩
    rw [receipt_paths _ r rfl rfl]
    exact hc
  · rw [receipt_heard _ _ rfl rfl]
    rcases hr with rfl | rfl <;> decide

/-- Two frames of a train: of the first the burst carried the one block, of the second none. -/
def pairTrain : Train := ⟨2, .broadcast, [sent .broadcast false 1, frame 1 2 .broadcast]⟩

/-- After a broadcast burst the first frame leaves the train and the second stays. -/
theorem witness_BurstDelivered :
    let s := bursting (sent .broadcast false 1) .sending .sendBurst
    CountersInRange s ∧ peerFar.deferred = false ∧ s.tsc.onLine = some (burst .broadcast far) ∧
    s.tsc.active = some (train (sent .broadcast false 1)) ∧
    (∀ f ∈ pairTrain.frames, f.level = pairTrain.level) ∧
    s.lmd.activity = .sendBurst ∧ s.clc.medium = .sending ∧
    reached 560 (after s.lcu.latchStart (160 + 40 * 10)) = true ∧
    (settleFrame (burst .broadcast far) [true] (sent .broadcast false 1)).leaves (burst .broadcast far) =
      true ∧
    (frame 1 2 .broadcast).leaves (burst .broadcast far) = false :=
  ⟨⟨by decide, by decide⟩, rfl, rfl, rfl, by decide, rfl, rfl, by decide, by decide, by decide⟩

/-- No receipt: nothing is heard, or one that begins 9 µs late. A frame that expired, and one at its
sixteenth attempt, each alone in its train. -/
theorem witness_BurstUnanswered :
    let s := bursting (sent (.peer 1) false 1) .awaitReceipt .receiptWait
    NoReceipt s expected none ∧
    NoReceipt s expected (some { heard ⟨.received, false, [true]⟩ with start := 629 }) ∧
    (∀ f ∈ (train (sent (.peer 1) true 1)).frames, f.level = (train (sent (.peer 1) true 1)).level) ∧
    (⟨.data, 0, 0⟩ : BlockRef) ∈ (burst (.peer 1) far).refs ∧
    (sent (.peer 1) true 1).carried (burst (.peer 1) far) = true ∧
    (∃ y ∈ (settleFrame (burst (.peer 1) far) [] (sent (.peer 1) true 1)).blocks, y.state ≠ .done) ∧
    (sent (.peer 1) true 1).expired = true ∧
    ((sent (.peer 1) false 16).expired = false ∧ 16 ≤ (sent (.peer 1) false 16).attempts) := by
  refine ⟨?_, ?_, by decide, by decide, by decide, by decide, rfl, rfl, by decide⟩
  · rintro h r h' -
    cases h'
  · rintro h r h' ⟨-, hs, -, -⟩
    cases h'
    exact absurd hs (by decide)

theorem witness_FrameExpires :
    let s := bursting (sent (.peer 1) false 1) .awaitReceipt .receiptWait
    (framesHeld s.tsc).find? (fun g => g.holds .data 0) = some (sent (.peer 1) false 1) ∧
    reached 59999 (sent (.peer 1) false 1).expiry = false ∧
    reached 60000 (sent (.peer 1) false 1).expiry = true ∧
    (∃ x ∈ (sent (.peer 1) false 1).blocks, x.state = .onLine) ∧
    (framesHeld (forming none).tsc).find? (fun g => g.holds .data 0) = some (frame 0 2 .broadcast) ∧
    (∀ x ∈ (frame 0 2 .broadcast).blocks, x.state ≠ .onLine) ∧ NoClaimOpens (forming none) :=
  ⟨by decide, by decide, by decide, by decide, by decide, by decide, .inl (by decide)⟩

/-- The pools with three frames of one block in a queue. -/
def pooled : State := { forming none with bpm := ⟨509, 157, 64, 32, 256⟩ }

theorem witness_TxBalanceKept : TxBalance pooled ∧
    ∃ s', step (pooled.withQueue [.frameExpiry 60000 .data 1]) = .next s' ∧ s'.bpm.txFree = 510 := by
  refine ⟨⟨by decide, by decide, by decide, by decide, by decide, ?_, rfl, by decide⟩, _, rfl, by decide⟩
  intro g hg
  cases hg

theorem witness_StackOrderKept : StackOrder (forming (some (train (frame 3 5 .broadcast)))).tsc ∧
    ∃ s', step ((forming (some (train (frame 3 5 .broadcast)))).withQueue [.openingInstant 1040]) =
      .next s' ∧ s'.tsc.stack.length = 1 := by
  refine ⟨⟨by decide, by decide, by decide, by decide, by decide, ?_⟩, _, rfl, by decide⟩
  intro l f hf
  by_cases h : l < 8
  · interval_cases l <;> revert f <;> decide
  · have : queueAt (forming (some (train (frame 3 5 .broadcast)))).tsc l = [] := by
      simp only [queueAt]
      rw [List.getD_eq_default]
      have : (forming (some (train (frame 3 5 .broadcast)))).tsc.queues.length = 8 := rfl
      omega
    rw [this] at hf
    cases hf

/-! #### Timers and releases -/

theorem witness_TimersExpire :
    (met.peer 1 = some peerFar ∧ mappedPeer.txMaps.isSome = true ∧
      reached 60000000 (after 0 60000000) = true ∧ reached 59999999 (after 0 60000000) = false) ∧
    (peerFar.lastUnicast = some 0 ∧ 10000000 < elapsed 0 10000001 ∧
      elapsed 0 10000000 ≤ 10000000) ∧
    (20000000 ≤ elapsed 0 20000000 ∧ elapsed 0 19999999 < 20000000) ∧
    (1000000 ≤ elapsed 0 1000000 ∧ elapsed 0 999999 < 1000000) ∧
    (tableGet fullEntries 1 = some { entryOf 1 100 with lastTime := 0 } ∧
      250000 ≤ elapsed 0 250000 ∧ elapsed 0 249999 < 250000) ∧
    (300000000 ≤ elapsed 0 300000000 ∧ elapsed 0 299999999 < 300000000) := by decide

theorem witness_SilenceReleases :
    reached 119999999 (after peerFar.lastHeard 120000000) = false ∧
    reached 120000000 (after peerFar.lastHeard 120000000) = true ∧
    (∀ b, met.tsc.onLine = some b → b.dest ≠ .peer 1) ∧
    (burst (.peer 1) far).dest = .peer 1 ∧
    SlotEnds 700
      { bursting (sent (.peer 1) false 1) .awaitReceipt .receiptWait with
        peers := [some { peerFar with deferred := true }] }
      (burst (.peer 1) far) expected 1 { peerFar with deferred := true }
      (train (sent (.peer 1) false 1)) := by
  refine ⟨by decide, by decide, ?_, rfl, ⟨rfl, rfl, rfl, rfl, rfl, by decide, rfl, rfl⟩⟩
  intro b hb
  cases hb

/-! #### The port -/

/-- A frame of 64 bytes to an address, with an EtherType, what follows it, and its check sequence. -/
def framed (dest : Addr) (type : Nat) (body : List Byte) : List Byte :=
  let b := fitTo 60 0 (addrBytes dest ++ addrBytes 0x020000000009 ++ natBytes 2 type ++ body)
  b ++ frameCheck b

/-- A broadcast frame, a pause of 200 quanta, its end, another control frame, and a STATUS request. -/
theorem framed_good :
    frameCheckOk (framed broadcastAddr 0x0800 []) = true ∧
    frameCheckOk (framed 0x0180C2000001 0x8808 [0, 1, 0, 200]) = true ∧
    frameCheckOk (framed 0x0180C2000001 0x8808 [0, 1, 0, 0]) = true ∧
    frameCheckOk (framed 0x0180C2000001 0x8808 [0, 2, 0, 0]) = true ∧
    frameCheckOk (framed own 0x89C3 [2, 0, 1, 0, 0]) = true ∧
    frameCheckOk (framed own 0x0800 []) = true := by decide +kernel

theorem framed_length (dest : Addr) (type : Nat) (body : List Byte) :
    (framed dest type body).length = 64 := by
  simp [framed, fitTo, frameCheck, addrBytes, natBytes]
  omega

theorem witness_GoodFrame (dest : Addr) (type : Nat) (body : List Byte)
    (h : frameCheckOk (framed dest type body) = true) :
    GoodFrame up (framed dest type body) false := by
  have hw : wholeFrame up (framed dest type body) = framed dest type body := rfl
  exact ⟨by rw [hw, framed_length], by rw [hw, framed_length]; decide, by rw [hw]; exact h, rfl, rfl⟩

theorem witness_NotShort (dest : Addr) (type : Nat) (body : List Byte) :
    NotShort up (framed dest type body) := by
  have hw : wholeFrame up (framed dest type body) = framed dest type body := rfl
  unfold NotShort
  rw [hw, framed_length]
  decide

theorem witness_PortFrameDisposed :
    (Taken up [0] ∧ ¬GoodFrame up [0] false) ∧
    (¬Taken up [] ∧ ¬Taken { up with ptu := { resetPtu with receiving := true } } [0]) ∧
    (etherType (framed 0x0180C2000001 0x8808 [0, 1, 0, 200]) = 0x8808 ∧
      fieldAt (framed 0x0180C2000001 0x8808 [0, 2, 0, 0]) 15 2 ≠ 1 ∧
      fieldAt (framed 0x0180C2000001 0x8808 [0, 1, 0, 200]) 17 2 ≠ 0 ∧
      fieldAt (framed 0x0180C2000001 0x8808 [0, 1, 0, 0]) 17 2 = 0 ∧ up.ptu.egress = .idle) ∧
    (etherType (framed own 0x89C3 [2, 0, 1, 0, 0]) = 0x89C3 ∧
      up.suc.address = some (addrAt (framed own 0x89C3 [2, 0, 1, 0, 0]) 1) ∧
      up.mgu.queue.length < 2 ∧ 2 ≤ [asked 1 [], asked 2 []].length ∧
      ¬NotShort { up with bpm := { resetBpm with txFree := 0 } } [0]) ∧
    (up.suc.address = some (addrAt (framed own 0x0800 []) 1) ∧
      etherType (framed own 0x0800 []) ≠ 0x8808 ∧ etherType (framed own 0x0800 []) ≠ 0x89C3 ∧
      up.suc.address ≠ some (addrAt (framed broadcastAddr 0x0800 []) 1) ∧
      State.reset.suc.station ≠ .online) ∧
    (emptyIngress.short = false ∧ emptyIngress.bytes.length = 128 * 0 ∧ 1 ≤ up.bpm.txFree) := by
  refine ⟨⟨.inr ⟨by decide, rfl⟩, fun h => absurd h.long (by decide)⟩,
    by unfold Taken; decide, by decide, ?_, by decide, by decide⟩
  refine ⟨by decide, by decide, by decide, by decide, ?_⟩
  unfold NotShort
  decide

theorem witness_ForLine : ForLine up (framed broadcastAddr 0x0800 []) false :=
  ⟨rfl, .inr ⟨by decide, rfl⟩, witness_GoodFrame _ _ _ framed_good.1, by decide, by decide,
    ⟨by decide, by decide⟩, rfl⟩

/-- Level 4, one block; 32 blocks beyond it are free, and at 32 in all the frame is dropped. -/
theorem witness_PortFrameAdmitted :
    1 = ((wholeFrame up (framed broadcastAddr 0x0800 [])).length + 127) / 128 ∧
    (emptyIngress.drawn ≤ 1 ∧ up.tsc.queues.length = 8 ∧ up.ptu.defaultLevel = 4 ∧
      etherType (framed broadcastAddr 0x0800 []) ≠ 0x8100 ∧
      isGroup (addrAt (framed broadcastAddr 0x0800 []) 1) = true) ∧
    (1 ≤ up.bpm.txDesc ∧ 8 * 4 + 1 ≤ 33 + emptyIngress.drawn) ∧
    ¬(8 * 4 + 1 ≤ 32 + emptyIngress.drawn) ∧
    (up.tsc.prospective = none ∧ prospectiveLevel up.tsc = none ∧ up.tsc.active = none ∧
      4 ≤ up.tsc.floor ∧ up.clc.medium = .idle) := by decide

theorem witness_EgressGoesOn :
    let p : Ptu := { resetPtu with slot := [⟨[], true⟩], fifo := [⟨[], 1, 0⟩], pauseEnd := some 500 }
    ({ p with egress := .sendingData ⟨[], 1, 0⟩ } : Ptu).egress = .sendingData ⟨[], 1, 0⟩ ∧
    ({ p with egress := .sendingReply ⟨[], true⟩ } : Ptu).egress = .sendingReply ⟨[], true⟩ ∧
    ({ p with egress := .gap } : Ptu).egress = .gap ∧ p.pauseEnd = some 500 ∧
    met.nrstLow = false ∧ reached 499 500 = false ∧ reached 500 500 = true ∧ p.egress = .idle ∧
    p.slot.length < 2 ∧
    ({ resetMgu with service := some ⟨[], false⟩ } : Mgu).service = some ⟨[], false⟩ := by decide

/-! #### Configuration and requests -/

/-- A configuration block: label 0x55AA, no group notched, margin 16, Q 40, DUAL, floor 7. -/
def block : List Byte :=
  let b : List Byte := [0x4E, 0x4B, 1, 2, 0, 0, 0, 0, 1, 0x55, 0xAA] ++ List.replicate 8 0 ++
    [16, 40, 1, 7, 6, 5, 4, 3, 2, 1, 0, 4] ++ (List.replicate 8 [(0 : Byte), 100]).flatten ++
    [7, 0x12, 0x22]
  b ++ natBytes 2 (crc16 (bytesBits b)).toNat

theorem witness_ConfigApplied :
    block.length = 52 ∧ fieldAt block 1 2 = 0x4E4B ∧ byteAt block 3 = 1 ∧
    fieldAt block 51 2 = (crc16 (bytesBits (block.take 50))).toNat ∧
    isGroup (addrAt block 4) = false ∧ (byteAt block (12 + 0 / 8)).getLsbD (7 - 0 % 8) = false ∧
    (block ++ List.replicate (52 - block.length) 0xFF = block ∧
      fieldAt ([] ++ List.replicate (52 - ([] : List Byte).length) 0xFF) 1 2 ≠ 0x4E4B) ∧
    (State.reset.suc.station = .config ∧ State.reset.suc.flashDue = some 1000 ∧
      reached 1000 1000 = true ∧ State.reset.clc.medium ≠ .idle ∧
      reached 1035 (after 1000 35) = true) ∧
    ((asked 7 block).argLength = 52 ∧ (asked 7 block).args.take 52 = block ∧
      (asked 7 []).args.length < 52) ∧
    ({ State.reset with suc := { State.reset.suc with station := .configWait } } :
      State).suc.station = .configWait := by decide +kernel

/-- The bytes of IDENTIFY at a station ONLINE from the port: `far` and the others as R172 places them. -/
theorem test_identify : identifyContents up = [1, 2, 0, 0, 0, 0, 1, 0x06, 0x12, 1, 0, 2, 0] := by decide

theorem witness_ReplyBytes : (asked 1 []).sequence < 65536 ∧ (identifyContents up).length < 65536 ∧
    up.suc.address = some own ∧ up.suc.image = none ∧ up.lcu.p16 < 4294967296 ∧
    (counterList up.mgu.counters)[53]? = some 0 ∧ met.peer 1 = some peerFar := by decide

theorem witness_RequestsAnswered :
    ((asked 1 []).code = 0x01 ∧ (asked 1 []).argLength ≤ (asked 1 []).args.length) ∧
    ((asked 3 [1, 0, 1]).code = 0x03 ∧ 3 ≤ (asked 3 [1, 0, 1]).argLength ∧
      byteAt (asked 3 [1, 0, 1]).args 1 = 1 ∧ byteAt (asked 3 [2, 0, 1]).args 1 = 2 ∧
      byteAt (asked 3 [3, 0, 1]).args 1 ≠ 1 ∧ ¬3 ≤ (asked 3 [1, 0]).argLength) ∧
    (1 ≤ (asked 4 [9]).argLength ∧ NoClaimOpens (queued (asked 4 [9])) ∧ ¬1 ≤ (asked 4 []).argLength) ∧
    (2 ≤ (asked 6 [1, 2]).argLength ∧ met.peer (byteAt (asked 6 [1, 2]).args 1).toNat = some peerFar ∧
      (byteAt (asked 6 [1, 2]).args 2).toNat ≤ 2 ∧ met.peer (byteAt (asked 6 [2, 2]).args 1).toNat = none ∧
      2 < (byteAt (asked 6 [1, 3]).args 2).toNat) ∧
    ((asked 0 []).code = 0 ∧ 8 < (asked 9 []).code.toNat ∧
      ¬(({ asked 1 [] with argLength := 1 } : Request).argLength ≤
        ({ asked 1 [] with argLength := 1 } : Request).args.length)) :=
  ⟨by decide, by decide, ⟨by decide, .inr (.inl rfl), by decide⟩,
    ⟨by decide, rfl, by decide, rfl, by decide⟩, by decide⟩

/-- The station in IDLE on a quiet line with the broadcast frames waiting at level 2 above the floor 1, or a
train at level 5, and a FLOOR request of the level given. -/
def lifting (level : Byte) (q : Tsc) : State :=
  { queued (asked 4 [level]) with
    clc := { clcIn .idle with quietFlag := true }, tsc := { q with floor := 1 } }

/-- The floor raised to 2 makes the station pending; the floor raised to 5, with a train at level 5; the
floor lowered to 0 opens nothing. -/
theorem witness_FloorOpens :
    (1 ≤ (asked 4 [2]).argLength ∧ (lifting 2 (waiting 2 three)).suc.station = .online ∧
      prospectiveLevel { (lifting 2 (waiting 2 three)).tsc with floor := 2 } = some 2 ∧
      (lifting 2 (waiting 2 three)).tsc.prospective ≠ some 2 ∧
      FormsTrain 2 (frame 0 2 .broadcast) [frame 1 2 .broadcast, frame 2 2 (.peer 1)] 2 0
        (lifting 2 (waiting 2 three))) ∧
    (prospectiveLevel { (lifting 5 { resetTsc with active := some (train (frame 3 5 .broadcast)) }).tsc with
      floor := 5 } = some 5 ∧ (train (frame 3 5 .broadcast)).level = 5) ∧
    prospectiveLevel { (lifting 0 (waiting 2 three)).tsc with floor := 0 } = none := by
  refine ⟨⟨by decide, rfl, by decide, by decide, ?_⟩, ⟨by decide, rfl⟩, by decide⟩
  refine ⟨rfl, by decide, by decide, fun a h => (nomatch h), by decide, by decide, by decide,
    by decide, fun _ g h => ?_, rfl, by decide⟩
  obtain rfl : frame 2 2 (.peer 1) = g := Option.some.inj h
  decide

/-- R116, R40: the raised floor makes the station pending in IDLE, and it marks at the taking. -/
theorem test_floor_marks :
    let s := takeRequest (isCode codeFloor) answerFloor { lifting 2 (waiting 2 three) with now := 700 }
    s.tsc.floor = 2 ∧ s.clc.medium = .claiming ∧ s.clc.markStart = some 700 ∧ s.clc.level = some 2 := by
  decide

/-- A record as it is claimed has its tables whole, and so has one with a transmit map set. -/
theorem witness_PeerShape : PeerShape peerFar ∧ PeerShape mappedPeer := by
  have rx : ∀ r ∈ peerFar.rxMaps, ∀ m, r.current = some m ∨ r.previous = some m → MapInRange m := by
    intro r hr m h
    obtain rfl : r = ⟨none, none⟩ := by simpa [peerFar, claimedPeer, slotCount] using hr
    rcases h with h | h <;> cases h
  refine ⟨⟨by decide, rfl, rx, fun x h => (by cases h), fun x h => (by cases h)⟩,
    ⟨by decide, rfl, rx, fun x h => ?_, fun x h => ?_⟩⟩
  all_goals obtain rfl := Option.some.inj h
  · refine ⟨rfl, fun k hk => ?_⟩
    simp [runList] at hk
    omega
  · refine ⟨rfl, fun m hm => ?_⟩
    obtain rfl : m = ⟨3, List.replicate 60 8⟩ := by simpa using hm
    exact ⟨by decide, rfl, by decide⟩

/-- The bytes of PEER DETAIL at their places: the set of a record present, its window list from byte 7, the
record of slot 0 after it, and the counters from byte 275. -/
theorem test_peer_detail :
    let f := peerDetailContents 1 0 { mappedPeer with counters := ⟨0, 0, 0, 0, 0, 0, 258⟩ }
    f.length = 302 ∧ byteAt f 1 = 1 ∧ byteAt f 2 = 1 ∧ byteAt f 7 = windowByte (runList.getD 0 none) ∧
    byteAt f 19 = 1 ∧ byteAt f 20 = 3 ∧ byteAt f 21 = 0x88 ∧ fieldAt f 299 4 = 258 ∧
    (peerDetailContents 1 2 mappedPeer).length = 728 := by decide +kernel

/-! #### Invariants and formats -/

/-- The one ACTIVE record of the station. -/
theorem met_peer {p : Peer} (hp : p ∈ met.peers.filterMap id) : p = peerFar := by
  have : met.peers.filterMap id = [peerFar] := by decide
  rw [this] at hp
  simpa using hp

theorem met_shaped : PeersShaped met := fun p hp => by
  rw [met_peer hp]
  exact witness_PeerShape.1

theorem met_versions : PeerVersions met := by
  intro p hp
  obtain rfl := met_peer hp
  refine ⟨by decide +kernel, fun r hr => ?_⟩
  have : r = ⟨none, none⟩ := by simpa [peerFar, claimedPeer, slotCount] using hr
  subst this
  exact ⟨fun m h => (by cases h), fun m h => (by cases h), fun m n h => (by cases h)⟩

theorem witness_RegistersKept : RngLive met ∧ AttnJudged met ∧ ProspectiveFresh met ∧
    PeersDistinct met ∧ PeerVersions met ∧ PeersShaped met ∧ CountersInRange met ∧
    ∃ s', step (met.withQueue [.silenceInstant 120000000 1]) = .next s' ∧ s'.peer 1 = none :=
  ⟨by unfold RngLive; decide, by unfold AttnJudged; decide, by unfold ProspectiveFresh; decide,
    met_distinct rfl, met_versions, met_shaped, ⟨by decide, by decide⟩, _, rfl, rfl⟩

/-- A record whose announced list names slot 0 and no other. -/
theorem witness_AnnouncedMapped : AnnouncedMapped holding := by
  intro p hp
  have : p = heldPeer := by
    have : holding.peers.filterMap id = [heldPeer] := by decide
    rw [this] at hp
    simpa using hp
  subst this
  refine ⟨rfl, fun k hk => ?_⟩
  have : k = 0 := by simpa [heldPeer] using hk
  subst this
  exact ⟨_, _, rfl, rfl⟩

/-- A forwarding entry behind the peer, and a reassembly entry of one block. -/
def filled : State :=
  { met with
    ptu := { resetPtu with fwd := some ⟨behind, 1, 0⟩ :: List.replicate 255 none }
    rxa := ⟨oneEntry (partly 3 100 [(1, [])]), none⟩ }

/-- The one item of a table. -/
theorem only_first {α : Type} {x : α} {n i : Nat} {y : α}
    (h : tableGet (some x :: List.replicate n none) i = some y) : i = 1 ∧ y = x := by
  match i, h with
  | k + 1, h =>
    cases k with
    | zero => exact ⟨rfl, by simpa [tableGet, eq_comm] using h⟩
    | succ k =>
      simp only [tableGet, List.getElem?_cons_succ, List.getElem?_replicate] at h
      split at h <;> simp at h

theorem witness_TablesSound : ForwardSound filled ∧ EntriesSound filled := by
  refine ⟨⟨?_, ?_, ?_⟩, ⟨?_, ?_⟩⟩
  · intro m n e f he hf _
    rw [(only_first he).1, (only_first hf).1]
  · intro n e he
    rw [(only_first he).2]
    decide
  · intro n e he
    rw [(only_first he).2]
    rfl
  · intro m n e f he hf _ _ _ _
    rw [(only_first he).1, (only_first hf).1]
  · intro n e he
    rw [(only_first he).2]
    decide

/-- A station with group 3 notched sends its claim signal. -/
theorem witness_NotchedSilent :
    NotchedSilent { up with lmd := { up.lmd with
      notch := open60.set 3 true, lineOut := .claimSignal (claimSymbol (open60.set 3 true)) } } := by
  refine ⟨?_, fun h => absurd rfl h⟩
  intro x hx g hg
  have hx : x = claimSymbol (open60.set 3 true) := by simpa [LineOut.symbols] using hx
  subst hx
  have h3 : g = 3 := by
    by_contra h
    rw [List.getD_eq_getElem?_getD, List.getElem?_set_ne (Ne.symm h)] at hg
    simp only [open60, List.getElem?_replicate] at hg
    split at hg <;> simp at hg
  subst h3
  rfl

theorem witness_WithinCapacity : WithinCapacity met := by
  constructor <;> decide

theorem witness_HeaderRoundTrip : headerWellFormed ⟨0x2A17, own, far, some 1199, .slot 3 15, 28, 48⟩ = true ∧
    headerWellFormed plain = true := by decide

/-- Two header symbols of which nothing is heard. -/
theorem witness_HeaderSilent (g : Nat) (hg : g < 60) :
    ((blank 2).onA.getD 1 []).getD g [] = [] ∧ inHand.choice.getD g .a = .a := by
  interval_cases g <;> exact ⟨rfl, rfl⟩

/-- A sender that notches another group than the receiver, and one that leaves 39 groups. -/
theorem witness_HeaderUnreadable : (open60.set 5 true) ≠ (open60.set 6 true) ∧
    groupsOn (List.replicate 21 true ++ List.replicate 39 false) < 40 := by decide

/-- R24, R29: a header that would be read from its symbols, sent by a station with another notch mask, is
counted as not decoded. -/
theorem test_other_mask (m : Lmd) (b : BurstInHand) (hn : m.notch = open60) :
    headerHeard m b ⟨(sentHeader plain).toSymbolsHeard, open60.set 5 true⟩ = none ∧
      headerHeard m b (sentHeader plain) = some plain := by
  refine ⟨?_, header_heard m b plain hn test_decode_header⟩
  have : open60.set 5 true ≠ open60 := by decide
  simp [headerHeard, headerReadable, hn, this]

/-- Two header symbols that path A gives for every group, and path B not at all. -/
theorem witness_HeardOn : open60.length = 60 ∧ 40 ≤ groupsOn open60 ∧
    (sentHeader plain).senderNotch = open60 ∧
    HeardOn (List.replicate 60 .a) (mapSymbols open60 .robust 2 (headerSymbols 60 plain))
      ⟨(sentHeader plain).onA, []⟩ := by
  refine ⟨rfl, by decide, rfl, fun i g hi hg => ?_⟩
  have : (List.replicate 60 RxPath.a).getD g .a = .a := by
    rw [List.getD_eq_getElem?_getD, List.getElem?_replicate]
    split <;> rfl
  rw [this]
  have hi : i < 2 := by simpa [mapSymbols] using hi
  simp [sentHeader, sentOn, mapSymbols, List.getD_eq_getElem?_getD, hi]

/-- A window map that loads every group but the notched one, and a payload of one block. -/
theorem witness_PayloadRoundTrip :
    (PayloadMap.window ((List.replicate 60 8).set 3 0)).fits (open60.set 3 true) ∧
    [second 3].length * 1088 ≤ 1 * dataBits ((List.replicate 60 8).set 3 0) ∧
    [second 3][0]? = some (second 3) ∧ (∀ y ∈ [second 3], y.length = 136) ∧
    HeardOn (List.replicate 60 .b) (mapSymbols open60 .robust 10 (payloadBits 10 120 [second 3]))
      (sentBlock (second 3)) ∧
    (receiptSymbol 60 far ⟨.received, false, [true]⟩).length = 2 * groupsOn open60 := by
  refine ⟨⟨rfl, fun g hg => ?_⟩, by decide, rfl, by decide +kernel, heardOn_both _ _, ?_⟩
  · have h3 : g = 3 := by
      by_contra h
      rw [List.getD_eq_getElem?_getD, List.getElem?_set_ne (Ne.symm h)] at hg
      simp only [open60, List.getElem?_replicate] at hg
      split at hg <;> simp at hg
    subst h3
    rfl
  · rw [receiptSymbol, fitTo_length]
    decide

theorem witness_FormatsRoundTrip : [true].length = 1 ∧ 66 + 1 ≤ 2 * 34 ∧
    (⟨.notice, 7, 255, 15, 15, 128⟩ : BlockHeader).level ≤ 7 ∧
    (List.replicate 128 (0 : Byte)).length = 128 ∧ runList.length = 12 ∧
    (∀ k : Nat, some k ∈ runList → k ≤ 3) := by
  refine ⟨rfl, by decide, by decide, rfl, rfl, ?_⟩
  intro k hk
  simp [runList] at hk
  omega

end Sys2Proof.Tests
end

section
/-! The phase and the window (R12): where the phase is present, its value, and its range. -/

namespace Sys2Proof.Machine

theorem phaseAt_eq_none {l : Lcu} (t : Time) (h : l.lock = .noLine ∨ l.lock = .acquiring) :
    phaseAt l t = none := by
  obtain h | h := h <;> simp [phaseAt, h]

theorem phaseAt_eq_some {l : Lcu} {t0 : Time} (t : Time)
    (h : l.lock = .locked ∨ l.lock = .holdover) (h0 : l.tLast = some t0) :
    phaseAt l t = some (elapsed t0 t * 19200 / l.p16 % 1200) := by
  obtain h | h := h <;> simp [phaseAt, h, h0]

/-- A phase can be present only in LOCKED or HOLDOVER, with a phase origin, and has R12's value there. -/
theorem phaseAt_eq_some_iff {l : Lcu} {t : Time} {p : Nat} :
    phaseAt l t = some p ↔ (l.lock = .locked ∨ l.lock = .holdover) ∧
      ∃ t0, l.tLast = some t0 ∧ elapsed t0 t * 19200 / l.p16 % 1200 = p := by
  cases hl : l.lock with
  | noLine => simp [phaseAt_eq_none t (.inl hl)]
  | acquiring => simp [phaseAt_eq_none t (.inr hl)]
  | locked => cases h0 : l.tLast <;> simp [phaseAt, hl, h0]
  | holdover => cases h0 : l.tLast <;> simp [phaseAt, hl, h0]

theorem phaseAt_lt {l : Lcu} {t : Time} {p : Nat} (h : phaseAt l t = some p) : p < 1200 := by
  obtain ⟨-, t0, -, rfl⟩ := phaseAt_eq_some_iff.mp h
  exact Nat.mod_lt _ (by decide)

theorem windowOf_le {p : Nat} (h : p < 1200) : windowOf p ≤ 11 := by
  rw [windowOf]
  omega

/-- Settles O13: each lock state's case of the phase; the remainder by 1200 bounds it and its window. -/
theorem phaseAndWindow : Obligations.PhaseAndWindow := by
  intro l t t0
  refine ⟨phaseAt_eq_none t, phaseAt_eq_some t, fun p hp => ?_⟩
  have hlt : p < 1200 := phaseAt_lt hp
  exact ⟨Nat.le_of_lt_succ hlt, rfl, windowOf_le hlt⟩

end Sys2Proof.Machine
end

section
/-! A sound block refused for buffer (R129, R132 to R134): the tests and the tables a block is decided by,
what the decision is without a place for the block, and what the refusal changes. -/

namespace Sys2Proof.Machine

/-! ### Tables -/

theorem lowestVacant_eq_none_iff {α : Type} {l : List (Option α)} : lowestVacant l = none ↔ none ∉ l := by
  rw [lowestVacant, Option.map_eq_none_iff, List.findIdx?_eq_none_iff]
  refine ⟨fun h hn => by simpa using h none hn, fun h x hx => ?_⟩
  cases x with
  | none => exact absurd hx h
  | some e => rfl

theorem exists_lowestVacant {α : Type} {l : List (Option α)} (h : none ∈ l) :
    ∃ pos, lowestVacant l = some pos :=
  Option.ne_none_iff_exists'.mp fun hn => lowestVacant_eq_none_iff.mp hn h

theorem some_mem_of_mem_tableEntries {α : Type} {l : List (Option α)} {o : Nat × α}
    (h : o ∈ tableEntries l) : some o.2 ∈ l := by
  obtain ⟨⟨x, k⟩, hx, ho⟩ := List.mem_filterMap.mp h
  obtain ⟨e, rfl, rfl⟩ := Option.map_eq_some_iff.mp ho
  exact List.fst_mem_of_mem_zipIdx hx

/-- The entry that lies furthest back is one of the entries. -/
theorem oldestOf_mem {α : Type} {now : Time} {time : α → Time} {l : List (Nat × α)} {o : Nat × α}
    (h : oldestOf now time l = some o) : o ∈ l := by
  induction l with
  | nil => cases h
  | cons e rest ih =>
    cases hr : oldestOf now time rest with
    | none =>
      simp only [oldestOf, hr, Option.some.injEq] at h
      exact h ▸ List.mem_cons_self
    | some r =>
      simp only [oldestOf, hr] at h
      split at h
      · exact Option.some.inj h ▸ List.mem_cons_self
      · exact List.mem_cons_of_mem _ (ih (hr.trans h))

/-! ### The tests of a block -/

/-- R132, case 1: what the model tests is what the statements say of it. -/
theorem completedBefore_iff {sv : Service} {k : BlockHeader} {s : State} :
    completedBefore sv k s = true ↔ CompletedBefore s sv k := by
  cases hp : s.peer sv.sender <;> simp [completedBefore, CompletedBefore, hp]

theorem blockSound_data_iff {k : BlockHeader} {bcast : Bool} (hk : k.kind = .data) :
    blockSound k bcast = true ↔ 1 ≤ k.index ∧ k.index ≤ 12 ∧ 1 ≤ k.total ∧ k.total ≤ 12 ∧
      k.index ≤ k.total ∧ 64 ≤ (k.total - 1) * 128 + k.last ∧ (k.total - 1) * 128 + k.last ≤ 1522 := by
  simp only [blockSound, hk, Bool.and_eq_true, decide_eq_true_eq, and_assoc]
  rfl

theorem blockSound_notice_iff {k : BlockHeader} {bcast : Bool} (hk : k.kind = .notice) :
    blockSound k bcast = true ↔ 1 ≤ k.index ∧ k.index ≤ 12 ∧ 1 ≤ k.total ∧ k.total ≤ 12 ∧
      k.index ≤ k.total ∧ k.level = 0 ∧ k.total = 2 ∧ k.last = 12 ∧ bcast = false := by
  simp only [blockSound, hk, Bool.and_eq_true, decide_eq_true_eq, and_assoc, Bool.not_eq_true']

/-- R129: a block passes the tests of its check result and of its header exactly when it is not damaged. -/
theorem sound_iff {s : State} {heard : SymbolsHeard} {bytes : List Byte} {b : BurstInHand} {h : Header}
    {sv : Service} :
    ((blockIntact bytes && decide (h.blocks ≤ blocksCarried h.symbols b.dataBits) &&
      !blockSilent s.lmd b h (b.handed + 1) heard) && blockSound (readBlockHeader bytes) sv.bcast) = true ↔
    ¬Damaged s heard bytes b h sv := by
  simp only [Damaged, ← blockSilent_iff, Bool.and_eq_true, decide_eq_true_eq, Bool.not_eq_true']
  cases hk : (readBlockHeader bytes).kind with
  | data => rw [blockSound_data_iff hk]; grind
  | notice => rw [blockSound_notice_iff hk]; grind

/-- R129: a sound block that is due is decided on, with the burst in hand one block further. -/
theorem exec_blockHanded_of_sound {t : Time} {heard : SymbolsHeard} {bytes : List Byte} {b : BurstInHand}
    {h : Header} {sv : Service} {s : State} (due : BlockDue t s heard bytes b h sv)
    (sound : ¬Damaged s heard bytes b h sv) :
    exec (.blockHanded t heard) s = .next (decideBlock sv (b.handed + 1) (readBlockHeader bytes)
      (blockPayloadOf bytes) (handOver t b s)) := by
  obtain ⟨live, receive, hand, header, stage, left, reachedNow, decoded, service⟩ := due
  have tests := sound_iff.mpr sound
  calc exec (.blockHanded t heard) s
      = .next (blockHanded heard { s with now := t }) := taking_live live t _
    _ = .next (takeBlock (b.handed + 1) bytes
          (blockIntact bytes && decide (h.blocks ≤ blocksCarried h.symbols b.dataBits) &&
            !blockSilent s.lmd b h (b.handed + 1) heard) (handOver t b s)) := by
        simp only [blockHanded, handOver, State.mapLmd, hand, header, receive, stage, left, reachedNow,
          decoded, and_self, if_true]
    _ = _ := by
        simp only [takeBlock, handOver, service, tests, if_true]

/-! ### No place for a block -/

theorem makeRoom_of_vacant {s : State} (h : none ∈ s.rxa.table) : makeRoom s = s := by
  obtain ⟨pos, hp⟩ := exists_lowestVacant h
  simp only [makeRoom, hp]

/-- R133: no entry younger than 20,000 µs is evicted. -/
theorem makeRoom_of_young {s : State}
    (h : ∀ x ∈ s.rxa.table, ∃ e, x = some e ∧ elapsed e.lastTime s.now < 20000) : makeRoom s = s := by
  unfold makeRoom
  split
  · rfl
  · split
    next o ho =>
      obtain ⟨e, he, young⟩ := h _ (some_mem_of_mem_tableEntries (oldestOf_mem ho))
      obtain rfl := Option.some.inj he
      exact if_neg (Nat.not_le.mpr young)
    next => rfl

/-- R134: a block that needs a new entry is refused when the receive pool is empty. -/
theorem openEntry_of_empty_pool {sv : Service} {i : Nat} {k : BlockHeader} {payload : List Byte}
    {s : State} (free : s.bpm.rxFree = 0) (room : none ∈ s.rxa.table) :
    openEntry sv i k payload s = refuseForBuffer s := by
  obtain ⟨pos, hp⟩ := exists_lowestVacant room
  simp only [openEntry, makeRoom_of_vacant room, hp, free, if_true]

/-- R134: a block that needs a new entry is refused when every position is taken by a young entry. -/
theorem openEntry_of_young {sv : Service} {i : Nat} {k : BlockHeader} {payload : List Byte} {s : State}
    (young : ∀ x ∈ s.rxa.table, ∃ e, x = some e ∧ elapsed e.lastTime s.now < 20000) :
    openEntry sv i k payload s = refuseForBuffer s := by
  have full : lowestVacant s.rxa.table = none := lowestVacant_eq_none_iff.mpr fun hn => by
    obtain ⟨e, he, -⟩ := young none hn
    cases he
  simp only [openEntry, makeRoom_of_young young, full]

/-! ### The decision -/

/-- R132, case 5: a new block without an entry of its key asks for a new one. -/
theorem decideBlock_of_noKey {sv : Service} {i : Nat} {k : BlockHeader} {payload : List Byte} {s : State}
    (new : ¬CompletedBefore s sv k) (key : NoKey s sv k) :
    decideBlock sv i k payload s = openEntry sv i k payload s := by
  rw [decideBlock, if_neg (mt completedBefore_iff.mp new), show tableFind _ _ = none from key]

/-- R132, case 3, R134: a block that its entry misses is refused when the receive pool is empty. -/
theorem decideBlock_of_missing_empty_pool {sv : Service} {i pos : Nat} {k : BlockHeader}
    {payload : List Byte} {s : State} {e : Entry} (new : ¬CompletedBefore s sv k)
    (key : KeyAt s sv k pos e) (agrees : e.agrees k = true) (missing : e.holdsIndex k.index = false)
    (free : s.bpm.rxFree = 0) : decideBlock sv i k payload s = refuseForBuffer s := by
  rw [decideBlock, if_neg (mt completedBefore_iff.mp new), show tableFind _ _ = some (pos, e) from key]
  simp only [agrees, missing, free, if_true, Bool.false_eq_true, if_false]

/-- R134: what a refusal changes, for the burst in service. -/
theorem refuseForBuffer_eq {sv : Service} {s : State} (service : s.rxa.service = some sv) :
    refuseForBuffer s = { s with
      rxa := { s.rxa with service := some { sv with
        receipt := sv.receipt.map fun r => { r with bufferShort := true } } }
      mgu := { s.mgu with counters := { s.mgu.counters with
        bufferRefusals := min 4294967295 (s.mgu.counters.bufferRefusals + 1) } } } := by
  simp only [refuseForBuffer, mapReceipt, count, State.mapRxa, State.mapMgu, service, Option.map_some]
  rfl

/-- Settles O38: in each of the three cases the decision on the block is the refusal. -/
theorem blockRefusedForBuffer : Obligations.BlockRefusedForBuffer := by
  intro t y bytes b h sv s due sound new noPlace
  have refused : decideBlock sv (b.handed + 1) (readBlockHeader bytes) (blockPayloadOf bytes)
      (handOver t b s) = refuseForBuffer (handOver t b s) := by
    rcases noPlace with ⟨free, pos, e, key, agrees, missing⟩ | ⟨free, key, room⟩ | ⟨key, young⟩
    · exact decideBlock_of_missing_empty_pool (s := handOver t b s) new key agrees missing free
    · exact (decideBlock_of_noKey (s := handOver t b s) new key).trans (openEntry_of_empty_pool free room)
    · exact (decideBlock_of_noKey (s := handOver t b s) new key).trans (openEntry_of_young young)
  rw [exec_blockHanded_of_sound due sound, refused, refuseForBuffer_eq (s := handOver t b s) due.service]
  rfl

end Sys2Proof.Machine
end

section
/-! What a command can do, said once for all of them: its effect outside a held NRST, what it leaves of a
held one, and how an invariant is kept by a step. -/

namespace Sys2Proof.Machine

/-! ### The effect of a command -/

/-- The effect of a command outside a held NRST, on the state with the time base at its instant. -/
def effect : Instr → State → State
  | .qualifiedCrossing _ => fun s => if crossingDue s then takeSample .high s else s
  | .acquiringTimeout _ => acquiringTimeout
  | .holdoverInstant _ => holdoverInstant
  | .lossInstant _ => lossInstant
  | .energyReport _ onA onB => energyReport onA onB
  | .quietReport _ => quietReport
  | .gapTailCheck _ => gapTailCheck
  | .openingInstant _ => openingInstant
  | .markSlotListenEnd _ => markSlotListenEnd
  | .claimBitSlot _ => claimBitSlot
  | .claimPeriodEnd _ => claimPeriodEnd
  | .burstStart _ => burstStart
  | .hiddenWinnerDeadline _ => hiddenWinnerDeadline
  | .occupancyEnd _ => occupancyEnd
  | .burstDetected _ start onA onB snrA snrB => burstDetected start onA onB snrA snrB
  | .headerOutcome _ heard => headerOutcome heard
  | .reviewComplete _ idx => completeReview idx
  | .blockHanded _ heard => blockHanded heard
  | .rxPayloadEnd _ => rxPayloadEnd
  | .sendReceipt _ => sendReceipt
  | .receiptEnd _ => receiptEnd
  | .ownPayloadEnd _ => ownPayloadEnd
  | .receiptSlotEnd _ heard => receiptSlotEnd heard
  | .silenceInstant _ idx => silenceInstant idx
  | .mapSetLifetime _ idx => timePeer idx expireMapSet
  | .lastUnicastExpiry _ idx => timePeer idx expireUnicast
  | .lastNoticeExpiry _ idx => timePeer idx expireNotice
  | .robustResendExpiry _ idx => timePeer idx expireResend
  | .frameExpiry _ kind desc => frameExpiry kind desc
  | .reassemblyTimeout _ pos => reassemblyTimeout pos
  | .portFrameReceived _ bytes rxError => portFrameReceived bytes rxError
  | .pauseEnd _ => pauseEnd
  | .forwardingAging _ pos => forwardingAging pos
  | .egressLastByte _ => egressLastByte
  | .egressGapEnd _ => egressGapEnd
  | .replyPlaced _ => replyPlaced
  | .nrstAssert t => assertNrst t
  | .hardwareReset t strap => resetState t strap
  | .flashReadStart _ => flashReadStart
  | .flashReadEnd _ bytes => flashReadEnd bytes
  | .identify _ => takeRequest (isCode codeIdentify) answerIdentify
  | .status _ => takeRequest (isCode codeStatus) answerStatus
  | .eventMask _ => takeRequest (isCode codeEventMask) answerEventMask
  | .floor _ => takeRequest (isCode codeFloor) answerFloor
  | .peerList _ => takeRequest (isCode codePeerList) answerPeerList
  | .peerDetail _ => takeRequest (isCode codePeerDetail) answerPeerDetail
  | .configLoad _ => takeRequest (isCode codeConfigLoad) answerConfigLoad
  | .restart _ => takeRequest (isCode codeRestart) answerRestart
  | .unknownRequest _ => takeRequest (fun c => !codeKnown c) answerUnknown
  | .restartTaken _ => restartTaken
  | .zcSample _ level => takeSample level
  | .ingressBlockDraw _ stretch rxError => arrive stretch rxError

/-- What a command leaves while NRST is held low (R158; log entries 25, 38). -/
def heldEffect : Instr → State → State
  | .nrstAssert t, s => assertNrst t s
  | .hardwareReset t strap, s => resetState t strap s
  | .portFrameReceived t _ _, s => { s with now := t, ptu := s.ptu.withReceiving false }
  | .ingressBlockDraw t stretch _, s =>
    { s with now := t, ptu := s.ptu.withReceiving (receivingAfter stretch s.ptu) }
  | c, s => { s with now := c.time }

/-- Outside a held NRST a command has its effect at its instant. -/
theorem exec_live {s : State} (h : s.nrstLow = false) (c : Instr) :
    exec c s = .next (effect c { s with now := c.time }) := by
  cases c with
  | portFrameReceived t bytes bad =>
    exact congrArg Host.Outcome.next (if_neg (by simp [h]))
  | ingressBlockDraw t stretch bad =>
    exact congrArg Host.Outcome.next (if_neg (by simp [h]))
  | nrstAssert t => rfl
  | hardwareReset t strap => rfl
  | _ => exact taking_live h _ _

/-- A command ends in what its effect gives at its instant. -/
theorem exec_eq {c : Instr} {s s' : State} (h : s.nrstLow = false)
    (he : effect c { s with now := c.time } = s') : exec c s = .next s' := by
  rw [exec_live h, he]

/-- While NRST is held low a command has no effect but what `heldEffect` says. -/
theorem exec_held {s : State} (h : s.nrstLow = true) (c : Instr) :
    exec c s = .next (heldEffect c s) := by
  cases c with
  | portFrameReceived t bytes bad => exact congrArg Host.Outcome.next (if_pos h)
  | ingressBlockDraw t stretch bad => exact congrArg Host.Outcome.next (if_pos h)
  | nrstAssert t => rfl
  | hardwareReset t strap => rfl
  | _ => exact taking_held h _ _

/-- A step moves the time base of a state without commands, or executes the command at the front. -/
theorem step_cases {s s' : State} (h : step s = .next s') :
    (s.pending = [] ∧ s' = idle s) ∨ ∃ c q, s.pending = c :: q ∧ exec c (s.withQueue q) = .next s' := by
  unfold step at h
  split at h
  next hp => exact .inl ⟨hp, by cases h; rfl⟩
  next c q hp => exact .inr ⟨c, q, hp, h⟩

/-- What an invariant needs to be kept by every step. -/
structure KeptBy (P : State → Prop) : Prop where
  time : ∀ (s : State) (t : Time), P s → P { s with now := t }
  queue : ∀ (s : State) (q : List Instr), P s → P (s.withQueue q)
  receiving : ∀ (s : State) (u : Bool), P s → P { s with ptu := s.ptu.withReceiving u }
  nrst : ∀ (s : State) (t : Time), P s → P (assertNrst t s)
  reset : ∀ (s : State) (t : Time) (strap : Strap), P s → P (resetState t strap s)
  effect : ∀ (c : Instr) (s : State), s.nrstLow = false → P s → P (effect c s)

/-- An invariant that every effect keeps is kept by every step. -/
theorem KeptBy.step {P : State → Prop} (k : KeptBy P) {s s' : State} (hs : P s)
    (h : step s = .next s') : P s' := by
  rcases step_cases h with ⟨-, rfl⟩ | ⟨c, q, -, hc⟩
  · exact k.time s _ hs
  · have hq := k.queue s q hs
    cases hn : (s.withQueue q).nrstLow with
    | false =>
      rw [exec_live hn] at hc
      cases hc
      exact k.effect c _ hn (k.time _ _ hq)
    | true =>
      rw [exec_held hn] at hc
      cases hc
      cases c with
      | nrstAssert t => exact k.nrst _ t hq
      | hardwareReset t strap => exact k.reset _ t strap hq
      | portFrameReceived t bytes bad => exact k.receiving _ _ (k.time _ t hq)
      | ingressBlockDraw t stretch bad => exact k.receiving _ _ (k.time _ t hq)
      | _ => exact k.time _ _ hq

/-- The invariants that two sets of steps keep are kept together. -/
theorem KeptBy.and {P Q : State → Prop} (p : KeptBy P) (q : KeptBy Q) : KeptBy fun s => P s ∧ Q s where
  time s t h := ⟨p.time s t h.1, q.time s t h.2⟩
  queue s l h := ⟨p.queue s l h.1, q.queue s l h.2⟩
  receiving s u h := ⟨p.receiving s u h.1, q.receiving s u h.2⟩
  nrst s t h := ⟨p.nrst s t h.1, q.nrst s t h.2⟩
  reset s t strap h := ⟨p.reset s t strap h.1, q.reset s t strap h.2⟩
  effect c s n h := ⟨p.effect c s n h.1, q.effect c s n h.2⟩

/-! ### Requests -/

/-- What is kept when the head request is taken and when it is answered is kept by the command. -/
theorem takeRequest_keeps {P : State → Prop} {kind : Byte → Bool} {act : Request → State → State}
    {s : State} (hs : P s) (queue : ∀ rest, P s → P (s.mapMgu fun m => { m with queue := rest }))
    (acts : ∀ r s, P s → P (act r s)) : P (takeRequest kind act s) := by
  rcases takeRequest_cases kind act s with h | ⟨r, rest, -, -, -, -, h⟩
  · rwa [h]
  · rw [h]
    exact acts _ _ (queue rest hs)

/-- A part of the state outside the MGU that an answer leaves as it stands, the command leaves. -/
theorem takeRequest_part {β : Type} (part : State → β) {kind : Byte → Bool}
    {act : Request → State → State} (s : State)
    (queue : ∀ s rest, part (s.mapMgu fun m => { m with queue := rest }) = part s)
    (acts : ∀ r s, part (act r s) = part s) : part (takeRequest kind act s) = part s :=
  takeRequest_keeps (P := fun s' => part s' = part s) rfl (fun rest h => (queue s rest).trans h)
    fun r s' h => (acts r s').trans h

section takeRequest

variable {kind : Byte → Bool} {act : Request → State → State} {s : State}

@[simp] theorem takeRequest_now (h : ∀ r s, (act r s).now = s.now) :
    (takeRequest kind act s).now = s.now := takeRequest_part State.now s (fun _ _ => rfl) h
@[simp] theorem takeRequest_nrstLow (h : ∀ r s, (act r s).nrstLow = s.nrstLow) :
    (takeRequest kind act s).nrstLow = s.nrstLow := takeRequest_part State.nrstLow s (fun _ _ => rfl) h
@[simp] theorem takeRequest_lcu (h : ∀ r s, (act r s).lcu = s.lcu) :
    (takeRequest kind act s).lcu = s.lcu := takeRequest_part State.lcu s (fun _ _ => rfl) h
@[simp] theorem takeRequest_lmd (h : ∀ r s, (act r s).lmd = s.lmd) :
    (takeRequest kind act s).lmd = s.lmd := takeRequest_part State.lmd s (fun _ _ => rfl) h
@[simp] theorem takeRequest_clc (h : ∀ r s, (act r s).clc = s.clc) :
    (takeRequest kind act s).clc = s.clc := takeRequest_part State.clc s (fun _ _ => rfl) h
@[simp] theorem takeRequest_peers (h : ∀ r s, (act r s).peers = s.peers) :
    (takeRequest kind act s).peers = s.peers := takeRequest_part State.peers s (fun _ _ => rfl) h
@[simp] theorem takeRequest_lae (h : ∀ r s, (act r s).lae = s.lae) :
    (takeRequest kind act s).lae = s.lae := takeRequest_part State.lae s (fun _ _ => rfl) h
@[simp] theorem takeRequest_tsc (h : ∀ r s, (act r s).tsc = s.tsc) :
    (takeRequest kind act s).tsc = s.tsc := takeRequest_part State.tsc s (fun _ _ => rfl) h
@[simp] theorem takeRequest_bpm (h : ∀ r s, (act r s).bpm = s.bpm) :
    (takeRequest kind act s).bpm = s.bpm := takeRequest_part State.bpm s (fun _ _ => rfl) h
@[simp] theorem takeRequest_rxa (h : ∀ r s, (act r s).rxa = s.rxa) :
    (takeRequest kind act s).rxa = s.rxa := takeRequest_part State.rxa s (fun _ _ => rfl) h
@[simp] theorem takeRequest_suc (h : ∀ r s, (act r s).suc = s.suc) :
    (takeRequest kind act s).suc = s.suc := takeRequest_part State.suc s (fun _ _ => rfl) h
@[simp] theorem takeRequest_pending (h : ∀ r s, (act r s).pending = s.pending) :
    (takeRequest kind act s).pending = s.pending := takeRequest_part State.pending s (fun _ _ => rfl) h

end takeRequest

/-- What an answer keeps, a request whose arguments are tested keeps. -/
theorem withArgs_keeps {P : State → Prop} {need : Nat} {refused : State → List Byte}
    {act : Request → State → State} {r : Request} {s : State} (hs : P s)
    (answers : ∀ s result contents, P s → P (answer r result contents s))
    (acts : P s → P (act r s)) : P (withArgs need refused act r s) := by
  unfold withArgs
  split
  · exact acts hs
  · exact answers _ _ _ hs

@[simp] theorem answerIdentify_keeps (r : Request) (s : State) :
    (answerIdentify r s).now = s.now ∧ (answerIdentify r s).nrstLow = s.nrstLow ∧
    (answerIdentify r s).lcu = s.lcu ∧ (answerIdentify r s).lmd = s.lmd ∧
    (answerIdentify r s).clc = s.clc ∧ (answerIdentify r s).peers = s.peers ∧
    (answerIdentify r s).lae = s.lae ∧ (answerIdentify r s).tsc = s.tsc ∧
    (answerIdentify r s).bpm = s.bpm ∧ (answerIdentify r s).rxa = s.rxa ∧
    (answerIdentify r s).suc = s.suc ∧ (answerIdentify r s).pending = s.pending := by
  unfold answerIdentify withArgs
  dsimp only
  repeat' split
  all_goals simp

@[simp] theorem answerStatus_keeps (r : Request) (s : State) :
    (answerStatus r s).now = s.now ∧ (answerStatus r s).nrstLow = s.nrstLow ∧
    (answerStatus r s).lcu = s.lcu ∧ (answerStatus r s).lmd = s.lmd ∧
    (answerStatus r s).clc = s.clc ∧ (answerStatus r s).peers = s.peers ∧
    (answerStatus r s).lae = s.lae ∧ (answerStatus r s).tsc = s.tsc ∧
    (answerStatus r s).bpm = s.bpm ∧ (answerStatus r s).rxa = s.rxa ∧
    (answerStatus r s).suc = s.suc ∧ (answerStatus r s).pending = s.pending := by
  unfold answerStatus withArgs
  dsimp only
  repeat' split
  all_goals simp

@[simp] theorem answerEventMask_keeps (r : Request) (s : State) :
    (answerEventMask r s).now = s.now ∧ (answerEventMask r s).nrstLow = s.nrstLow ∧
    (answerEventMask r s).lcu = s.lcu ∧ (answerEventMask r s).lmd = s.lmd ∧
    (answerEventMask r s).clc = s.clc ∧ (answerEventMask r s).peers = s.peers ∧
    (answerEventMask r s).lae = s.lae ∧ (answerEventMask r s).tsc = s.tsc ∧
    (answerEventMask r s).bpm = s.bpm ∧ (answerEventMask r s).rxa = s.rxa ∧
    (answerEventMask r s).suc = s.suc ∧ (answerEventMask r s).pending = s.pending := by
  unfold answerEventMask withArgs
  dsimp only
  repeat' split
  all_goals simp

@[simp] theorem answerFloor_keeps (r : Request) (s : State) :
    (answerFloor r s).now = s.now ∧ (answerFloor r s).nrstLow = s.nrstLow ∧
    (answerFloor r s).lcu = s.lcu ∧ (answerFloor r s).lae = s.lae ∧ (answerFloor r s).bpm = s.bpm ∧
    (answerFloor r s).suc = s.suc ∧ (answerFloor r s).pending = s.pending := by
  unfold answerFloor withArgs
  dsimp only
  repeat' split
  all_goals simp

@[simp] theorem answerPeerList_keeps (r : Request) (s : State) :
    (answerPeerList r s).now = s.now ∧ (answerPeerList r s).nrstLow = s.nrstLow ∧
    (answerPeerList r s).lcu = s.lcu ∧ (answerPeerList r s).lmd = s.lmd ∧
    (answerPeerList r s).clc = s.clc ∧ (answerPeerList r s).peers = s.peers ∧
    (answerPeerList r s).lae = s.lae ∧ (answerPeerList r s).tsc = s.tsc ∧
    (answerPeerList r s).bpm = s.bpm ∧ (answerPeerList r s).rxa = s.rxa ∧
    (answerPeerList r s).suc = s.suc ∧ (answerPeerList r s).pending = s.pending := by
  unfold answerPeerList withArgs
  dsimp only
  repeat' split
  all_goals simp

@[simp] theorem answerPeerDetail_keeps (r : Request) (s : State) :
    (answerPeerDetail r s).now = s.now ∧ (answerPeerDetail r s).nrstLow = s.nrstLow ∧
    (answerPeerDetail r s).lcu = s.lcu ∧ (answerPeerDetail r s).lmd = s.lmd ∧
    (answerPeerDetail r s).clc = s.clc ∧ (answerPeerDetail r s).peers = s.peers ∧
    (answerPeerDetail r s).lae = s.lae ∧ (answerPeerDetail r s).tsc = s.tsc ∧
    (answerPeerDetail r s).bpm = s.bpm ∧ (answerPeerDetail r s).rxa = s.rxa ∧
    (answerPeerDetail r s).suc = s.suc ∧ (answerPeerDetail r s).pending = s.pending := by
  unfold answerPeerDetail withArgs
  dsimp only
  repeat' split
  all_goals simp

@[simp] theorem answerConfigLoad_keeps (r : Request) (s : State) :
    (answerConfigLoad r s).now = s.now ∧ (answerConfigLoad r s).nrstLow = s.nrstLow ∧
    (answerConfigLoad r s).bpm = s.bpm ∧ (answerConfigLoad r s).pending = s.pending := by
  unfold answerConfigLoad
  dsimp only
  repeat' split
  all_goals simp

@[simp] theorem answerRestart_keeps (r : Request) (s : State) :
    (answerRestart r s).now = s.now ∧ (answerRestart r s).nrstLow = s.nrstLow ∧
    (answerRestart r s).lcu = s.lcu ∧ (answerRestart r s).lmd = s.lmd ∧
    (answerRestart r s).clc = s.clc ∧ (answerRestart r s).peers = s.peers ∧
    (answerRestart r s).lae = s.lae ∧ (answerRestart r s).tsc = s.tsc ∧
    (answerRestart r s).bpm = s.bpm ∧ (answerRestart r s).rxa = s.rxa ∧
    (answerRestart r s).suc = s.suc ∧ (answerRestart r s).pending = s.pending := by
  unfold answerRestart withArgs
  dsimp only
  repeat' split
  all_goals simp

@[simp] theorem answerUnknown_keeps (r : Request) (s : State) :
    (answerUnknown r s).now = s.now ∧ (answerUnknown r s).nrstLow = s.nrstLow ∧
    (answerUnknown r s).lcu = s.lcu ∧ (answerUnknown r s).lmd = s.lmd ∧
    (answerUnknown r s).clc = s.clc ∧ (answerUnknown r s).peers = s.peers ∧
    (answerUnknown r s).lae = s.lae ∧ (answerUnknown r s).tsc = s.tsc ∧
    (answerUnknown r s).bpm = s.bpm ∧ (answerUnknown r s).rxa = s.rxa ∧
    (answerUnknown r s).suc = s.suc ∧ (answerUnknown r s).pending = s.pending := by
  simp [answerUnknown]

/-! ### Timers of a record -/

@[simp] theorem timePeer_keeps (i : Nat) (f : Time → Peer → Peer) (s : State) :
    (timePeer i f s).now = s.now ∧ (timePeer i f s).nrstLow = s.nrstLow ∧
    (timePeer i f s).lcu = s.lcu ∧ (timePeer i f s).lmd = s.lmd ∧ (timePeer i f s).clc = s.clc ∧
    (timePeer i f s).lae = s.lae ∧ (timePeer i f s).tsc = s.tsc ∧ (timePeer i f s).bpm = s.bpm ∧
    (timePeer i f s).rxa = s.rxa ∧ (timePeer i f s).ptu = s.ptu ∧ (timePeer i f s).mgu = s.mgu ∧
    (timePeer i f s).suc = s.suc ∧ (timePeer i f s).pending = s.pending := by
  simp [timePeer]

end Sys2Proof.Machine
end

section
/-! Steps, the NRST input and resets (R157 to R159). -/

namespace Sys2Proof.Machine

/-- Settles O1: the queue's front is what a step matches on. -/
theorem stepTakesFront : Obligations.StepTakesFront := fun _ _ _ => rfl

/-- The effect of a command leaves the time base at the command's instant, and the queue. -/
theorem effect_now_pending (c : Instr) {s : State} (h : s.now = c.time) :
    (effect c s).now = c.time ∧ (effect c s).pending = s.pending := by
  rw [← h]
  cases c with
  | qualifiedCrossing t => simp only [effect]; split <;> simp
  | nrstAssert t => exact ⟨h.symm, rfl⟩
  | hardwareReset t strap => exact ⟨h.symm, rfl⟩
  | _ => simp [effect]

theorem heldEffect_now_pending (c : Instr) (s : State) :
    (heldEffect c s).now = c.time ∧ (heldEffect c s).pending = s.pending := by
  cases c <;> exact ⟨rfl, rfl⟩

/-- Settles O2: the effect of each command, and what a held NRST leaves of it. -/
theorem commandsComplete : Obligations.CommandsComplete := by
  intro c s
  cases h : s.nrstLow with
  | false =>
    have ⟨hn, hp⟩ := effect_now_pending c (s := { s with now := c.time }) rfl
    exact ⟨_, exec_live h c, hp, hn⟩
  | true =>
    have ⟨hn, hp⟩ := heldEffect_now_pending c s
    exact ⟨_, exec_held h c, hp, hn⟩

/-- Settles O3: the commands that `heldEffect` names are the four excepted ones. -/
theorem nrstHolds : Obligations.NrstHolds := by
  intro c s h
  refine ⟨?_, ?_, ?_⟩
  · rintro t bytes bad rfl
    exact exec_held h _
  · rintro t stretch bad rfl hs
    have under : receivingAfter stretch s.ptu = true := by simp [receivingAfter, hs]
    rw [exec_held h, heldEffect, under]
    rfl
  · intro hn hr hp hi
    rw [exec_held h]
    cases c with
    | nrstAssert t => exact absurd rfl (hn t)
    | hardwareReset t strap => exact absurd rfl (hr t strap)
    | portFrameReceived t bytes bad => exact absurd rfl (hp t bytes bad)
    | ingressBlockDraw t stretch bad => exact absurd rfl (hi t stretch bad)
    | _ => rfl

/-! ### What a reset leaves -/

/-- A table without entries has none at any position. -/
theorem tableGet_replicate_none {α : Type} (n i : Nat) :
    tableGet (List.replicate n (none : Option α)) i = none := by
  cases i with
  | zero => rfl
  | succ k => by_cases h : k < n <;> simp [tableGet, h]

/-- Right after a reset every station counter is 0. -/
theorem resetCounters_zero : ∀ n ∈ counterList resetCounters, n = 0 := by decide

/-- Settles O4: the values of `resetState`, block by block; its tables have no entry at any position. -/
theorem hardwareResetLeaves : Obligations.HardwareResetLeaves := by
  intro t strap s
  refine ⟨resetState t strap s, rfl, rfl, rfl, rfl,
    -- the LCU, the LMD and the CLC
    rfl, rfl, rfl, rfl, rfl, rfl, rfl, rfl, rfl, rfl, rfl, rfl, rfl, rfl, rfl, rfl, rfl,
    rfl, rfl, rfl, rfl, rfl, rfl, rfl, rfl, rfl, rfl, rfl, rfl,
    -- the records and their reviews
    tableGet_replicate_none _, rfl, tableGet_replicate_none _,
    -- the TSC, the pools and the RXA
    rfl, rfl, rfl, rfl, rfl, rfl, rfl, rfl, rfl, tableGet_replicate_none _, rfl,
    -- the PTU
    rfl, tableGet_replicate_none _, rfl, rfl, rfl, rfl, rfl, rfl, rfl,
    -- the MGU and the SUC
    rfl, rfl, rfl, rfl, rfl, resetCounters_zero, rfl, rfl, rfl, rfl, rfl, rfl, ?_, ?_⟩
  · rintro rfl
    exact ⟨rfl, rfl⟩
  · rintro rfl
    exact ⟨rfl, rfl⟩

/-! ### Requests that are due -/

/-- R164: a request that is due is taken from the queue and answered. -/
theorem takeRequest_due {kind : Byte → Bool} {act : Request → State → State} {s : State} {r : Request}
    {rest : List Request} (due : RequestDue s r rest) (hk : kind r.code = true) (t : Time) :
    takeRequest kind act { s with now := t } =
      act r { s with now := t, mgu := { s.mgu with queue := rest } } := by
  obtain ⟨live, head, service, restart⟩ := due
  simp only [takeRequest, head, State.mapMgu]
  rw [if_pos ⟨hk, service, restart⟩]

/-- R164: the command that takes a kind of request answers one that is due. -/
theorem exec_request {c : Instr} {kind : Byte → Bool} {act : Request → State → State} {s : State}
    {r : Request} {rest : List Request} (hc : effect c = takeRequest kind act)
    (due : RequestDue s r rest) (hk : kind r.code = true) :
    exec c s = .next (act r { s with now := c.time, mgu := { s.mgu with queue := rest } }) := by
  rw [exec_live due.live, hc, takeRequest_due due hk]

/-- R155: an egress that is busy, or held by a pause, starts nothing. -/
theorem egressChoice_waits {s : State} (h : s.ptu.egress ≠ .idle ∨ pauseHolds s.now s.ptu = true) :
    egressChoice s = s := by
  simp only [egressChoice, State.mapPtu]
  rw [if_neg]
  rintro ⟨he, hp⟩
  rcases h with h | h
  · exact h he
  · exact absurd (hp.symm.trans h) (by decide)

/-- R155: an idle egress that no pause holds makes its choice. -/
theorem egressChoice_idle {s : State} (he : s.ptu.egress = .idle)
    (hp : pauseHolds s.now s.ptu = false) : egressChoice s = s.mapPtu startNext := by
  simp only [egressChoice, State.mapPtu]
  rw [if_pos ⟨he, hp⟩]

/-- R164: a reply is handed to egress. -/
theorem offerReply_offered (r : Reply) (s : State) : Offered r s (offerReply r s) := by
  have placed (h : s.ptu.slot.length < 2) : offerReply r s = placeReply r s := if_pos h
  constructor
  · intro h
    exact if_neg (Nat.not_lt.mpr h)
  · intro h hw
    rw [placed h]
    exact egressChoice_waits hw
  · intro h he hp
    rw [placed (by simp [h]), placeReply, egressChoice_idle (by exact he) (by exact hp)]
    simp [State.mapPtu, startNext, h]
  · intro x h he hp
    rw [placed (by simp [h]), placeReply, egressChoice_idle (by exact he) (by exact hp)]
    simp [State.mapPtu, startNext, h]

/-- R164: what a request whose arguments fit does. -/
theorem withArgs_fits {need : Nat} {refused : State → List Byte} {act : Request → State → State}
    {r : Request} {s : State} (h : need ≤ r.argLength ∧ r.argLength ≤ r.args.length) :
    withArgs need refused act r s = act r s := if_pos (by simp [argsOk, h])

/-- R164, R172: a request whose arguments do not fit is refused. -/
theorem withArgs_unfit {need : Nat} {refused : State → List Byte} {act : Request → State → State}
    {r : Request} {s : State} (h : ¬(need ≤ r.argLength ∧ r.argLength ≤ r.args.length)) :
    withArgs need refused act r s = answer r .badArgument (refused s) s := if_neg (by
      rw [argsOk, Bool.and_eq_true, decide_eq_true_eq, decide_eq_true_eq]
      exact fun hc => h hc.symm)

/-! ### NRST and RESTART -/

/-- R158: what NRST falling leaves. -/
theorem assertNrst_silent (t : Time) (s : State) :
    (assertNrst t s).nrstLow = true ∧ (assertNrst t s).mgu.attn = false ∧
    (assertNrst t s).lmd.lineOut = .silent ∧ portOutput (assertNrst t s) = .nothing ∧
    (isSending s.ptu.egress = true → (assertNrst t s).ptu.txError = true) := by
  refine ⟨rfl, rfl, rfl, rfl, fun h => ?_⟩
  simp [assertNrst, h]

/-- R159: a restart that is due. -/
theorem restartTaken_due {s : State} (h : s.mgu.restart = .due) :
    restartTaken s = { resetState s.now s.suc.strap s with
      lcu := s.lcu
      ptu := { resetPtu with
        txError := cutsFrame s.ptu.egress, receiving := s.ptu.receiving }
      suc := resetSuc s.suc.strap s.now } := if_pos (by simp [restartReady, h])

/-- Settles O5: NRST falling, the request by its arguments, and the restart beside a hardware reset of the
same state. -/
theorem restartKeepsLineCycle : Obligations.RestartKeepsLineCycle := by
  intro t s
  refine ⟨?_, ?_, ?_⟩
  · obtain ⟨low, attn, line, port, cut⟩ := assertNrst_silent t s
    refine ⟨assertNrst t s, rfl, low, attn, line, port, ?_⟩
    rintro (⟨f, hf⟩ | ⟨r, hr⟩)
    · exact cut (by simp [hf, isSending])
    · exact cut (by simp [hr, isSending])
  · intro r rest due code
    have answers : exec (.restart t) s = .next (answerRestart r
        { s with now := t, mgu := { s.mgu with queue := rest } }) :=
      exec_request rfl due (by simp [isCode, codeRestart, code])
    refine ⟨fun fits => ⟨_, answers, ?_⟩, fun unfit => ⟨_, answers, ?_⟩⟩
    · rw [answerRestart, withArgs_fits ⟨Nat.zero_le _, fits⟩]
      exact offerReply_offered _ _
    · rw [answerRestart, withArgs_unfit fun h => Nat.not_le.mpr unfit h.2]
      exact offerReply_offered _ _
  · intro live due
    refine ⟨_, exec_live live (.restartTaken t), ?_⟩
    simp only [effect]
    rw [restartTaken_due (by exact due)]
    refine ⟨rfl, rfl, rfl, ?_, ?_, ?_, resetState t s.suc.strap s, rfl,
      rfl, rfl, rfl, rfl, rfl, rfl, rfl, rfl, rfl, rfl, rfl, rfl, rfl, rfl, tableGet_replicate_none _, rfl, rfl, rfl, rfl, rfl, rfl, rfl⟩
    · intro strap
      simp [strap, resetSuc, Instr.time]
    · intro strap
      simp [strap, resetSuc]
    · intro f hf
      simp [hf, cutsFrame]

end Sys2Proof.Machine
end

section
/-! The invariants hold right after reset. -/

namespace Sys2Proof.Machine

theorem reset_peer (i : Nat) : State.reset.peer i = none := tableGet_replicate_none _ i

theorem reset_no_record {Q : Peer → Prop} : ∀ p ∈ State.reset.peers.filterMap id, Q p := fun p hp =>
  absurd hp (by rw [show State.reset.peers.filterMap id = [] by decide]; exact List.not_mem_nil)

theorem reset_lockShape : LockShape State.reset.lcu := by
  constructor <;> simp [State.reset, resetLcu]

theorem reset_modeShape : ModeShape State.reset := by
  constructor <;> simp [State.reset, resetLmd, resetClc, resetTsc, resetSuc, Config.resetStrap]

theorem reset_countersInRange : CountersInRange State.reset :=
  ⟨fun n hn => (resetCounters_zero n hn).le.trans (Nat.zero_le _), reset_no_record⟩

theorem reset_withinCapacity : WithinCapacity State.reset := by
  constructor
  case recent => exact reset_no_record
  case fwd => exact List.length_replicate
  all_goals decide

theorem reset_txBalance : TxBalance State.reset := by
  constructor
  case ingress => simp [State.reset, resetPtu]
  all_goals decide

theorem reset_queueAt (l : Nat) : queueAt State.reset.tsc l = [] := by
  by_cases h : l < levelCount <;> simp [queueAt, State.reset, resetTsc, List.getD, h]

theorem reset_stackOrder : StackOrder State.reset.tsc := by
  constructor
  case queued => simp [reset_queueAt]
  all_goals simp [State.reset, resetTsc, trains]

theorem reset_forwardSound : ForwardSound State.reset := by
  have empty (n : Nat) : tableGet State.reset.ptu.fwd n = none := tableGet_replicate_none _ n
  constructor <;> simp [empty]

theorem reset_entriesSound : EntriesSound State.reset := by
  have empty (n : Nat) : tableGet State.reset.rxa.table n = none := tableGet_replicate_none _ n
  constructor <;> simp [empty]

theorem reset_notchedSilent : NotchedSilent State.reset := by
  constructor <;> simp [State.reset, resetLmd, LineOut.symbols]

/-- Settles O6, invariant by invariant: there is no record, no entry, no frame and no signal yet. -/
theorem resetMeetsInvariants : Obligations.ResetMeetsInvariants :=
  ⟨reset_lockShape, reset_modeShape, (by decide : (1 : BitVec 16) ≠ 0), rfl, reset_countersInRange, reset_withinCapacity, rfl,
    reset_txBalance, reset_stackOrder, (by decide : none = prospectiveLevel resetTsc),
    by simp [PeersDistinct, reset_peer], reset_no_record, reset_no_record, reset_no_record,
    reset_forwardSound, reset_entriesSound,
    reset_notchedSilent⟩

end Sys2Proof.Machine
end

section
/-! The Line-Cycle Unit (chapter 1): samples, crossings, the instants of the lock states, and the table of
1.3 kept by every step. -/

namespace Sys2Proof.Machine

/-! ### Ranges of the period estimate (R3) -/

theorem clampTo_mem {lo hi : Nat} (h : lo ≤ hi) (n : Nat) : lo ≤ clampTo lo hi n ∧ clampTo lo hi n ≤ hi := by
  unfold clampTo
  omega

theorem periodUpdate_mem (p16 m : Nat) : p16Min ≤ periodUpdate p16 m ∧ periodUpdate p16 m ≤ p16Max :=
  clampTo_mem (by decide) _

theorem measureValid_iff {m : Nat} : measureValid m = true ↔ 15385 ≤ m ∧ m ≤ 22222 := by
  simp [measureValid]

/-- R3, R5: what a crossing in ACQUIRING makes of the count and of P16. -/
theorem acquireMeasure_cases (l : Lcu) (m : Nat) :
    (measureValid m = false ∧ acquireMeasure l m = (0, l.p16)) ∨
    (measureValid m = true ∧ acquireMeasure l m = (1, 16 * m)) ∨
    (measureValid m = true ∧ 1 ≤ l.accCount ∧
      acquireMeasure l m = (l.accCount + 1, periodUpdate l.p16 m)) := by
  unfold acquireMeasure
  cases measureValid m with
  | false => exact .inl ⟨rfl, rfl⟩
  | true =>
    refine .inr ?_
    rw [if_neg (by decide)]
    split
    · exact .inl ⟨rfl, rfl⟩
    · split
      · exact .inr ⟨rfl, by omega, rfl⟩
      · exact .inl ⟨rfl, rfl⟩

/-! ### The table of 1.3 is kept -/

/-- The table of 1.3 speaks of the lock state and its instants, count and period alone. -/
theorem LockShape.of_run {l l' : Lcu} (h : LockShape l) (lock : l'.lock = l.lock)
    (tPrev : l'.tPrev = l.tPrev) (accCount : l'.accCount = l.accCount) (tLast : l'.tLast = l.tLast)
    (p16 : l'.p16 = l.p16) (q : l'.q = l.q) (run : l'.runLength ≤ 32) : LockShape l' := by
  obtain ⟨noLine, acquiring, following, period, seeded, qRange, -⟩ := h
  constructor <;> simpa only [lock, tPrev, accCount, tLast, p16, q]

/-- R1: a sample leaves the run shorter than Q, or at most one longer than it was. -/
theorem sampleRun_runLength (t : Time) (v : ZcLevel) (l : Lcu) :
    (sampleRun t v l).runLength ≤ l.runLength + 1 := by
  unfold sampleRun
  repeat' split
  all_goals simp

/-- What a sample leaves of the LCU, before acceptance. -/
@[simp] theorem sampleRun_keeps (t : Time) (v : ZcLevel) (l : Lcu) :
    (sampleRun t v l).accepted = l.accepted ∧ (sampleRun t v l).q = l.q ∧
    (sampleRun t v l).lock = l.lock ∧ (sampleRun t v l).p16 = l.p16 ∧
    (sampleRun t v l).tPrev = l.tPrev ∧ (sampleRun t v l).accCount = l.accCount ∧
    (sampleRun t v l).tLast = l.tLast := by
  unfold sampleRun
  repeat' split
  all_goals simp

theorem crossingAcquiring_lockShape {t0 t : Time} {s : State} (h : LockShape s.lcu)
    (acquiring : s.lcu.lock = .acquiring) : LockShape (crossingAcquiring t0 t s).lcu := by
  obtain ⟨-, tLast, count⟩ := h.acquiring acquiring
  have period := h.period
  have seeded := h.seeded
  unfold crossingAcquiring
  rcases acquireMeasure_cases s.lcu (elapsed t0 t) with ⟨-, e⟩ | ⟨hv, e⟩ | ⟨hv, -, e⟩
  · rw [e]
    constructor <;> simp_all [h.qRange, h.runRange]
  · rw [e]
    have hm := measureValid_iff.mp hv
    constructor <;> simp_all [h.qRange, h.runRange, p16Min, p16Max] <;> omega
  · rw [e]
    have ⟨lo, hi⟩ := periodUpdate_mem s.lcu.p16 (elapsed t0 t)
    have hp : periodUpdate s.lcu.p16 (elapsed t0 t) ≠ 0 := by unfold p16Min at lo; omega
    dsimp only
    split
    · constructor <;> simp_all [h.qRange, h.runRange]
    · constructor <;> simp_all [h.qRange, h.runRange]; omega

theorem crossing_lockShape {t : Time} {s : State} (h : LockShape s.lcu) :
    LockShape (crossing t s).lcu := by
  unfold crossing
  split
  next hl =>
    have ⟨_, _, _⟩ := h.noLine hl
    have := h.period
    constructor <;> simp_all [h.qRange, h.runRange]
  next hl =>
    split
    · exact crossingAcquiring_lockShape h hl
    · exact h
  next hl =>
    have ⟨_, _, _⟩ := h.following (.inl hl)
    split
    · unfold crossingLocked
      dsimp only
      split
      · have ⟨lo, hi⟩ := periodUpdate_mem s.lcu.p16 (elapsed ‹_› t)
        have hp : periodUpdate s.lcu.p16 (elapsed ‹_› t) ≠ 0 := by unfold p16Min at lo; omega
        constructor <;> simp_all [h.qRange, h.runRange]
      · simpa using h
    · exact h
  next hl =>
    have ⟨_, _, _⟩ := h.following (.inr hl)
    have := h.period
    have := h.seeded
    split
    · unfold crossingHoldover
      dsimp only
      split
      · constructor <;> simp_all [h.qRange, h.runRange]
      · simpa using h
    · exact h

theorem takeSample_lockShape {v : ZcLevel} {s : State} (h : LockShape s.lcu) :
    LockShape (takeSample v s).lcu := by
  have run := sampleRun_runLength s.now v s.lcu
  have hr := h.runRange
  have hq := h.qRange
  unfold takeSample
  dsimp only
  split
  next accepted =>
    have done : LockShape { sampleRun s.now v s.lcu with
        accepted := acceptLevel v, runLength := 0 } :=
      h.of_run (by simp) (by simp) (by simp) (by simp) (by simp) (by simp) (by simp)
    split
    · exact crossing_lockShape done
    · exact done
  next waiting =>
    refine h.of_run (by simp) (by simp) (by simp) (by simp) (by simp) (by simp) ?_
    simp [runAccepted] at waiting
    simp
    omega

theorem acquiringTimeout_lockShape {s : State} (h : LockShape s.lcu) :
    LockShape (acquiringTimeout s).lcu := by
  unfold acquiringTimeout
  split
  next hl _ =>
    have ⟨_, _, _⟩ := h.acquiring hl
    have := h.period
    split
    · constructor <;> simp_all [h.qRange, h.runRange]
    · exact h
  · exact h

theorem holdoverInstant_lockShape {s : State} (h : LockShape s.lcu) :
    LockShape (holdoverInstant s).lcu := by
  unfold holdoverInstant
  split
  next hl _ =>
    have ⟨_, _, _⟩ := h.following (.inl hl)
    have := h.period
    have := h.seeded
    split
    · constructor <;> simp_all [h.qRange, h.runRange]
    · exact h
  · exact h

theorem lossInstant_lockShape {s : State} (h : LockShape s.lcu) : LockShape (lossInstant s).lcu := by
  unfold lossInstant
  split
  next hl _ =>
    have ⟨_, _, _⟩ := h.following (.inr hl)
    have := h.period
    split
    · constructor <;> simp_all [h.qRange, h.runRange]
    · exact h
  · exact h

theorem takeLatch_lockShape {t : Time} {l : Lcu} (h : LockShape l) : LockShape (takeLatch t l) :=
  h.of_run rfl rfl rfl rfl rfl rfl h.runRange

/-- R44, R45: what the end of a claim period can do, once energy in progress has been looked at. -/
theorem claimPeriodEnd_cases (s : State) :
    claimPeriodEnd s = lapse s ∨
    (∃ m, (lapse s).clc.medium = .claiming ∧ (lapse s).clc.markStart = some m ∧
      (lapse s).clc.claim = .contending ∧ claimPeriodEnd s = winPeriod m (silence (lapse s))) ∨
    ((lapse s).clc.medium = .claiming ∧ (lapse s).clc.claim = .out ∧
      claimPeriodEnd s = (settleLoss (lapse s)).mapClc fun c => { c with lossCounted := true }) := by
  unfold claimPeriodEnd
  dsimp only
  split
  next m hm hs =>
    split
    · split
      next hc => exact .inr (.inl ⟨m, hm, hs, hc, rfl⟩)
      next hc => exact .inr (.inr ⟨hm, hc, rfl⟩)
      next => exact .inl rfl
    · exact .inl rfl
  next => exact .inl rfl

/-- R14: the latch at a win is all that the end of a claim period changes in the LCU. -/
theorem claimPeriodEnd_lockShape {s : State} (h : LockShape s.lcu) :
    LockShape (claimPeriodEnd s).lcu := by
  rcases claimPeriodEnd_cases s with e | ⟨m, -, -, -, e⟩ | ⟨-, -, e⟩
  · simpa [e] using h
  · rw [e]
    simpa [winPeriod] using takeLatch_lockShape h
  · simpa [e] using h

theorem readConfig_q (source : Strap) (bs : List Byte) :
    2 ≤ (readConfig source bs).q ∧ (readConfig source bs).q ≤ 32 := clampTo_mem (by decide) _

theorem applyConfig_lcu (c : ConfigImage) (s : State) :
    (applyConfig c s).lcu = { s.lcu with q := c.q } := by
  simp [applyConfig]

theorem applyConfig_lockShape {c : ConfigImage} {s : State} (h : LockShape s.lcu)
    (hq : 2 ≤ c.q ∧ c.q ≤ 32) : LockShape (applyConfig c s).lcu := by
  obtain ⟨noLine, acquiring, following, period, seeded, -, run⟩ := h
  rw [applyConfig_lcu]
  exact ⟨noLine, acquiring, following, period, seeded, hq, run⟩

theorem flashReadEnd_lockShape {bs : List Byte} {s : State} (h : LockShape s.lcu) :
    LockShape (flashReadEnd bs s).lcu := by
  unfold flashReadEnd
  dsimp only
  split
  · split
    · split
      · exact applyConfig_lockShape h (readConfig_q _ _)
      · simpa using h
    · exact h
  · exact h

theorem answerConfigLoad_lockShape {r : Request} {s : State} (h : LockShape s.lcu) :
    LockShape (answerConfigLoad r s).lcu := by
  unfold answerConfigLoad
  split
  · split
    · simpa using applyConfig_lockShape h (readConfig_q _ _)
    · simpa using h
  · simpa using h

theorem effect_lockShape (c : Instr) {s : State} (h : LockShape s.lcu) : LockShape (effect c s).lcu := by
  cases c with
  | qualifiedCrossing t =>
    simp only [effect]
    split
    · exact takeSample_lockShape h
    · exact h
  | zcSample t v => exact takeSample_lockShape h
  | acquiringTimeout t => exact acquiringTimeout_lockShape h
  | holdoverInstant t => exact holdoverInstant_lockShape h
  | lossInstant t => exact lossInstant_lockShape h
  | claimPeriodEnd t => exact claimPeriodEnd_lockShape h
  | flashReadEnd t bs => exact flashReadEnd_lockShape h
  | configLoad t =>
    exact takeRequest_keeps (P := fun s => LockShape s.lcu) h (fun _ h => h) fun _ _ =>
      answerConfigLoad_lockShape
  | hardwareReset t strap => exact reset_lockShape
  | nrstAssert t => exact h
  | _ => simpa [effect] using h

theorem lockShape_kept : KeptBy fun s => LockShape s.lcu where
  time _ _ h := h
  queue _ _ h := h
  receiving _ _ h := h
  nrst _ _ h := h
  reset _ _ _ _ := reset_lockShape
  effect c _ _ h := effect_lockShape c h

/-- Settles O12: every effect keeps the table of 1.3 and the ranges. -/
theorem lockShapeKept : Obligations.LockShapeKept := fun _ _ => lockShape_kept.step

end Sys2Proof.Machine
end

section
/-! Samples, crossings and instants of the Line-Cycle Unit, case by case (chapter 1). -/

namespace Sys2Proof.Machine

/-! ### Samples (R1, R2) -/

/-- R166: an event changes the MGU alone. -/
theorem raise_eq (e : Event) (s : State) : raise e s = { s with mgu := latch e s.mgu } := rfl

theorem acceptedIs_iff {a : Accepted} {v : ZcLevel} : acceptedIs a v = true ↔ a = acceptLevel v := by
  cases a <;> cases v <;> simp [acceptedIs, acceptLevel]

/-- R1: a sample of the accepted level ends the run. -/
theorem sampleRun_ends {t : Time} {v : ZcLevel} {l : Lcu} (h : l.accepted = acceptLevel v) :
    sampleRun t v l = { l with runLength := 0 } := if_pos (acceptedIs_iff.mpr h)

/-- R1: a sample that differs begins a run, where none of its level is under way. -/
theorem sampleRun_begins {t : Time} {v : ZcLevel} {l : Lcu} (h : l.accepted ≠ acceptLevel v)
    (hr : l.runLength = 0 ∨ l.runLevel ≠ v) :
    sampleRun t v l = { l with runLength := 1, runStart := t, runLevel := v } := by
  rw [sampleRun, if_neg (mt acceptedIs_iff.mp h), if_pos hr]

/-- R1: a sample that differs continues a run of its level. -/
theorem sampleRun_continues {t : Time} {v : ZcLevel} {l : Lcu} (h : l.accepted ≠ acceptLevel v)
    (hr : 1 ≤ l.runLength) (hv : l.runLevel = v) :
    sampleRun t v l = { l with runLength := l.runLength + 1 } := by
  rw [sampleRun, if_neg (mt acceptedIs_iff.mp h), if_neg]
  rintro (h0 | h0)
  · omega
  · exact h0 hv

theorem runAccepted_iff {l : Lcu} : runAccepted l = true ↔ 1 ≤ l.runLength ∧ l.q ≤ l.runLength := by
  simp [runAccepted]

/-- R1: a sample after which no run has reached Q changes the run alone. -/
theorem takeSample_waits {v : ZcLevel} {s : State} (h : ¬runAccepted (sampleRun s.now v s.lcu) = true) :
    takeSample v s = { s with lcu := sampleRun s.now v s.lcu } := by
  simp only [takeSample]
  rw [if_neg h]
  rfl

/-- Settles O7: a run ended, begun, continued, or accepted without a LOW-to-HIGH change. -/
theorem sampleOfARun : Obligations.SampleOfARun := by
  intro t v s live hq
  have sampled : exec (.zcSample t v) s = .next (takeSample v { s with now := t }) := exec_live live _
  have waits {l : Lcu} (hl : sampleRun t v s.lcu = l) (hr : l.runLength = 0 ∨ l.runLength < s.lcu.q) :
      exec (.zcSample t v) s = .next { s with now := t, lcu := l } := by
    have hk : l.q = s.lcu.q := by rw [← hl]; simp
    rw [sampled, takeSample_waits]
    · rw [← hl]
    · rw [hl, runAccepted_iff]
      omega
  refine ⟨fun h => ?_, fun h hr => ?_, fun h hr hv hlt => ?_, fun h hr hv hge hno => ?_⟩
  · exact waits (sampleRun_ends h) (.inl rfl)
  · exact waits (sampleRun_begins h hr) (.inr hq)
  · exact waits (sampleRun_continues h hr hv) (.inr hlt)
  · rw [sampled]
    simp only [takeSample, sampleRun_continues (t := t) h hr hv]
    rw [if_pos (runAccepted_iff.mpr ⟨by simp, hge⟩), if_neg hno]
    rfl

/-! ### Crossings (R4 to R6, R8, R10) -/

/-- R1: the HIGH sample that completes a LOW-to-HIGH run is a crossing, under either of its names. -/
theorem exec_highSample {t : Time} {c : Instr} {s : State} (live : s.nrstLow = false)
    (hc : IsHighSample t c) (ready : CrossingReady s.lcu) :
    exec c s = .next (crossing s.lcu.runStart { s with
      now := t, lcu := { s.lcu with accepted := .high, runLength := 0 } }) := by
  obtain ⟨low, level, begun, full⟩ := ready
  have differs : s.lcu.accepted ≠ acceptLevel .high := by simp [low, acceptLevel]
  have run := sampleRun_continues (t := t) differs begun level
  have accepted : runAccepted (sampleRun t .high s.lcu) = true := by
    rw [run, runAccepted_iff]
    exact ⟨by simp, full⟩
  have taken : takeSample .high { s with now := t } = crossing s.lcu.runStart { s with
      now := t, lcu := { s.lcu with accepted := .high, runLength := 0 } } := by
    simp only [takeSample]
    rw [if_pos accepted, run, if_pos ⟨low, trivial⟩]
    rfl
  rcases hc with rfl | rfl
  · rw [exec_live live, effect, ← taken]
    exact congrArg _ (if_pos (by simp [crossingDue, low, Instr.time, accepted]))
  · rw [exec_live live, ← taken]
    rfl

/-- Settles O8: the crossing's first case. -/
theorem crossingStartsAcquiring : Obligations.CrossingStartsAcquiring := by
  intro t c s live hc ready hl
  refine ⟨?_, fun shape => ⟨(shape.noLine hl).2.1, fun u => phaseAt_eq_none u (.inl hl)⟩⟩
  rw [exec_highSample live hc ready]
  simp only [crossing, hl]
  rfl

/-- R3: P16 after a period update, as the rule writes it. -/
theorem periodUpdate_eq {p16 m p : Nat}
    (hp : (p : Int) = min 355552 (max 246160 ((p16 : Int) + (16 * (m : Int) - p16).tdiv 8))) :
    periodUpdate p16 m = p := by
  unfold periodUpdate clampTo p16Min p16Max
  omega

theorem withinTolerance_iff {p16 : Nat} {x y : Int} :
    withinTolerance p16 x y = true ↔ (x - y).natAbs ≤ p16 / 50 := by
  simp [withinTolerance]

theorem crossing_of_acquiring {t0 : Time} {s : State} (t : Time) (hl : s.lcu.lock = .acquiring)
    (h0 : s.lcu.tPrev = some t0) : crossing t s = crossingAcquiring t0 t s := by
  simp only [crossing, hl, h0]

theorem crossing_of_locked {t0 : Time} {s : State} (t : Time) (hl : s.lcu.lock = .locked)
    (h0 : s.lcu.tLast = some t0) : crossing t s = crossingLocked t0 t s := by
  simp only [crossing, hl, h0]

theorem crossing_of_holdover {t0 : Time} {s : State} (t : Time) (hl : s.lcu.lock = .holdover)
    (h0 : s.lcu.tLast = some t0) : crossing t s = crossingHoldover t0 t s := by
  simp only [crossing, hl, h0]

/-- R5: a crossing in ACQUIRING that does not lock. -/
theorem crossingAcquiring_stays {t0 t : Time} {s : State} {count p16 : Nat}
    (hm : acquireMeasure s.lcu (elapsed t0 t) = (count, p16)) (hn : count ≠ 8) :
    crossingAcquiring t0 t s = { s with
      lcu := { s.lcu with accCount := count, p16 := p16, tPrev := some t } } := by
  simp only [crossingAcquiring, hm]
  rw [if_neg hn]
  rfl

/-- R6: the eighth consecutive measurement within tolerance locks. -/
theorem crossingAcquiring_locks {t0 t : Time} {s : State} {p16 : Nat}
    (hm : acquireMeasure s.lcu (elapsed t0 t) = (8, p16)) :
    crossingAcquiring t0 t s = { s with
      lcu := { s.lcu with accCount := 8, p16 := p16, tPrev := none, tLast := some t, lock := .locked }
      mgu := latch .lineLocked s.mgu } := by
  simp only [crossingAcquiring, hm]
  rfl

theorem acquireMeasure_invalid {l : Lcu} {m : Nat} (h : ¬(15385 ≤ m ∧ m ≤ 22222)) :
    acquireMeasure l m = (0, l.p16) := if_pos (by simpa using mt measureValid_iff.mp h)

/-- R5: a valid measurement seeds P16 at count 0, and out of tolerance. -/
theorem acquireMeasure_seeds {l : Lcu} {m : Nat} (hv : 15385 ≤ m ∧ m ≤ 22222)
    (h : l.accCount = 0 ∨ ¬(16 * (m : Int) - l.p16).natAbs ≤ l.p16 / 50) :
    acquireMeasure l m = (1, 16 * m) := by
  have valid := measureValid_iff.mpr hv
  rw [acquireMeasure, if_neg (by simp [valid])]
  split
  · rfl
  · rw [if_neg]
    exact mt withinTolerance_iff.mp (h.resolve_left ‹_›)

/-- R5: a valid measurement within tolerance is accepted. -/
theorem acquireMeasure_accepts {l : Lcu} {m : Nat} (hv : 15385 ≤ m ∧ m ≤ 22222) (hc : 1 ≤ l.accCount)
    (h : (16 * (m : Int) - l.p16).natAbs ≤ l.p16 / 50) :
    acquireMeasure l m = (l.accCount + 1, periodUpdate l.p16 m) := by
  have valid := measureValid_iff.mpr hv
  rw [acquireMeasure, if_neg (by simp [valid]), if_neg (by omega), if_pos (withinTolerance_iff.mpr h)]

/-- Settles O9: the four outcomes of a measurement, and the one that locks. -/
theorem crossingInAcquiring : Obligations.CrossingInAcquiring := by
  intro t t0 c s m p live hc ready hl h0 hm hp valid within stays
  have update : periodUpdate s.lcu.p16 m = p := periodUpdate_eq hp
  have crossed := (exec_highSample live hc ready).trans
    (congrArg _ (crossing_of_acquiring s.lcu.runStart (by exact hl) (by exact h0)))
  have stays_of {count p16 : Nat} (h : acquireMeasure s.lcu m = (count, p16)) (hn : count ≠ 8) :
      stays count p16 :=
    crossed.trans (congrArg _ (crossingAcquiring_stays (by rw [← hm, ← h]; rfl) hn))
  refine ⟨fun h => stays_of (acquireMeasure_invalid h) (by decide),
    fun hv h => stays_of (acquireMeasure_seeds hv (.inl h)) (by decide),
    fun hv h hw => stays_of (acquireMeasure_seeds hv (.inr hw)) (by decide),
    fun hv h hw hc => stays_of (by rw [acquireMeasure_accepts hv h hw, update]) (by omega),
    fun hv hw hc => crossed.trans (congrArg _ (crossingAcquiring_locks ?_))⟩
  rw [← hm, ← update, show (8 : Nat) = s.lcu.accCount + 1 by omega,
    ← acquireMeasure_accepts hv (by omega) hw]
  rfl

/-- Settles O10: within tolerance of one period in LOCKED, of the nearest number of periods in HOLDOVER. -/
theorem crossingWhileFollowing : Obligations.CrossingWhileFollowing := by
  intro t t0 c s d p k live hc ready h0 hd hp hlo hhi
  have update : periodUpdate s.lcu.p16 d = p := periodUpdate_eq hp
  have nearest : nearestPeriods s.lcu.p16 d = k :=
    Nat.div_eq_of_lt_le (by linarith) (by linarith)
  have crossed := exec_highSample live hc ready
  refine ⟨fun hl hw => ?_, fun hl hw => ?_, fun hl hw => ?_, fun hl hw => ?_⟩
  · rw [crossed, crossing_of_locked _ (by exact hl) (by exact h0)]
    simp only [crossingLocked, ← hd]
    rw [if_pos (withinTolerance_iff.mpr (by simpa using hw)), ← update]
    rfl
  · rw [crossed, crossing_of_locked _ (by exact hl) (by exact h0)]
    simp only [crossingLocked, ← hd]
    rw [if_neg (mt withinTolerance_iff.mp (by simpa using hw))]
    rfl
  · rw [crossed, crossing_of_holdover _ (by exact hl) (by exact h0)]
    simp only [crossingHoldover, ← hd, nearest]
    rw [if_pos (withinTolerance_iff.mpr hw)]
    rfl
  · rw [crossed, crossing_of_holdover _ (by exact hl) (by exact h0)]
    simp only [crossingHoldover, ← hd, nearest]
    rw [if_neg (mt withinTolerance_iff.mp (Nat.not_le.mpr hw))]
    rfl

/-! ### Instants (R7, R9, R11) -/

theorem acquiringTimeout_due {s : State} {t0 : Time} (hl : s.lcu.lock = .acquiring)
    (h0 : s.lcu.tPrev = some t0) (hd : acquiringLimit ≤ elapsed t0 s.now) :
    acquiringTimeout s =
      s.mapLcu fun l => { l with lock := .noLine, accCount := 0, tPrev := none } := by
  simp only [acquiringTimeout, hl, h0]
  exact if_pos hd

theorem holdoverInstant_due {s : State} {t0 : Time} (hl : s.lcu.lock = .locked)
    (h0 : s.lcu.tLast = some t0) (hd : reached s.now (holdoverAt t0 s.lcu.p16) = true) :
    holdoverInstant s = raise .holdoverEntered (s.mapLcu fun l => { l with lock := .holdover }) := by
  simp only [holdoverInstant, hl, h0]
  exact if_pos hd

theorem lossInstant_due {s : State} {t0 : Time} (hl : s.lcu.lock = .holdover)
    (h0 : s.lcu.tLast = some t0) (hd : reached s.now (lossAt t0 s.lcu.p16) = true) :
    lossInstant s = raise .lineLost
      (s.mapLcu fun l => { l with lock := .noLine, tLast := none, accCount := 0 }) := by
  simp only [lossInstant, hl, h0]
  exact if_pos hd

/-- Settles O11: the instants of ACQUIRING, LOCKED and HOLDOVER. -/
theorem lineTimers : Obligations.LineTimers := fun t _ _ live =>
  ⟨fun hl h0 hd => exec_eq (c := .acquiringTimeout t) live (acquiringTimeout_due hl h0 hd),
    fun hl h0 hd => exec_eq (c := .holdoverInstant t) live (holdoverInstant_due hl h0 hd),
    fun hl h0 hd => exec_eq (c := .lossInstant t) live (lossInstant_due hl h0 hd)⟩

end Sys2Proof.Machine
end

section
/-! What the operations of the Transmit Scheduler leave of its own state: the floor, the lifetimes, the
broadcast tag counters and the burst on line. -/

namespace Sys2Proof.Machine

/-- What a claim decision, an admission, a release and an expiry leave of the scheduler: its floor, its
lifetimes and the burst on line. -/
structure TscStands (t t' : Tsc) : Prop where
  floor : t'.floor = t.floor
  lifetimes : t'.lifetimes = t.lifetimes
  onLine : t'.onLine = t.onLine

theorem TscStands.refl (t : Tsc) : TscStands t t := ⟨rfl, rfl, rfl⟩

theorem TscStands.trans {t u v : Tsc} (a : TscStands t u) (b : TscStands u v) : TscStands t v :=
  ⟨b.floor.trans a.floor, b.lifetimes.trans a.lifetimes, b.onLine.trans a.onLine⟩

theorem popIfComplete_stands (t : Tsc) : TscStands t (popIfComplete t) := by
  unfold popIfComplete
  split
  · split <;> exact ⟨rfl, rfl, rfl⟩
  · exact .refl t

theorem dropFrames_stands (p : Frame → Bool) (t : Tsc) : TscStands t (dropFrames p t) := by
  unfold dropFrames
  refine .trans ?_ (popIfComplete_stands _)
  exact ⟨rfl, rfl, rfl⟩

theorem advanceTags_stands (d : Dest) (l n : Nat) (s : State) :
    TscStands s.tsc (advanceTags d l n s).tsc := by
  cases d with
  | peer i => exact ⟨by simp [advanceTags], by simp [advanceTags], by simp [advanceTags]⟩
  | broadcast => exact ⟨rfl, rfl, rfl⟩

theorem formTrain_stands (l : Nat) (s : State) : TscStands s.tsc (formTrain l s).tsc := by
  unfold formTrain
  split
  · exact .refl _
  · exact .trans (u := (State.mapTsc _ s).tsc) ⟨rfl, rfl, rfl⟩ (advanceTags_stands _ _ _ _)

theorem claimDecision_stands (s : State) : TscStands s.tsc (claimDecision s).1.tsc := by
  unfold claimDecision
  split
  · exact (formTrain_stands _ _).trans ⟨rfl, rfl, rfl⟩
  · exact ⟨rfl, rfl, rfl⟩

/-- R37: what a claim at an instant can do: the decision alone, or the decision and a mark. -/
theorem openClaim_cases (t : Time) (s : State) :
    (prospectiveLevel s.tsc = none ∧ openClaim t s = (claimDecision s).1) ∨
    ∃ l, prospectiveLevel s.tsc = some l ∧ openClaim t s = startMark t l (claimDecision s).1 := by
  unfold openClaim
  have level := claimDecision_level s
  split
  next s' l h =>
    rw [h] at level
    exact .inr ⟨l, level.symm, by rw [h]⟩
  next s' h =>
    rw [h] at level
    exact .inl ⟨level.symm, by rw [h]⟩

theorem openClaim_stands (t : Time) (s : State) : TscStands s.tsc (openClaim t s).tsc := by
  rcases openClaim_cases t s with ⟨-, h⟩ | ⟨l, -, h⟩
  · rw [h]; exact claimDecision_stands s
  · rw [h]; simpa using claimDecision_stands s

theorem recompute_stands (s : State) : TscStands s.tsc (recompute s).tsc := by
  rcases recompute_cases s with ⟨-, h⟩ | ⟨-, h | ⟨-, -, -, h⟩⟩
  · rw [h]; exact .refl _
  · rw [h]; exact ⟨rfl, rfl, rfl⟩
  · rw [h]; exact .trans (u := (s.mapTsc _).tsc) ⟨rfl, rfl, rfl⟩ (openClaim_stands _ _)

theorem admitData_stands (l : Nat) (d : Dest) (b : List Byte) (n : Nat) (x : Bool) (s : State) :
    TscStands s.tsc (admitData l d b n x s).tsc := by
  unfold admitData
  dsimp only
  split
  · refine .trans ?_ (recompute_stands _)
    exact ⟨rfl, rfl, rfl⟩
  · exact ⟨by simp, by simp, by simp⟩

theorem admitNotice_stands (i : Nat) (b : List Byte) (s : State) :
    TscStands s.tsc (admitNotice i b s).tsc := by
  unfold admitNotice
  dsimp only
  split
  · exact ⟨rfl, rfl, rfl⟩
  · split
    · refine .trans ?_ (recompute_stands _)
      exact ⟨rfl, rfl, rfl⟩
    · exact .refl _

theorem queueCurrentSet_stands (i : Nat) (s : State) : TscStands s.tsc (queueCurrentSet i s).tsc := by
  unfold queueCurrentSet
  split
  · exact .refl _
  · simpa using admitNotice_stands i _ (s.mapPeer i _)

theorem frameExpiry_stands (k : FrameKind) (d : Nat) (s : State) :
    TscStands s.tsc (frameExpiry k d s).tsc := by
  unfold frameExpiry
  split
  · exact .refl _
  · split
    · split
      · exact ⟨rfl, rfl, rfl⟩
      · refine .trans ?_ (recompute_stands _)
        simpa using dropFrames_stands (fun g => g.holds k d) s.tsc
    · exact .refl _

theorem releasePeer_stands (i : Nat) (s : State) : TscStands s.tsc (releasePeer i s).tsc := by
  unfold releasePeer
  refine .trans ?_ (recompute_stands _)
  simpa [releaseFrames] using dropFrames_stands (fun f => f.isFor i) s.tsc

end Sys2Proof.Machine
end

section
/-! Activity, medium, claim state and bursts go together (tables of 2.6.1, chapter 3, 10.2): every step
keeps it. -/

namespace Sys2Proof.Machine

/-! ### Changes of one block -/

/-- The tables speak of the station state, the activity, the burst in hand, the receipt expectation, the
medium and the burst on line alone. -/
theorem ModeShape.of_parts {s s' : State} (h : ModeShape s) (station : s'.suc.station = s.suc.station)
    (activity : s'.lmd.activity = s.lmd.activity)
    (hand : s'.lmd.inHand.isSome = s.lmd.inHand.isSome)
    (expect : s'.lmd.expect.isSome = s.lmd.expect.isSome) (clc : s'.clc = s.clc)
    (onLine : s'.tsc.onLine.isSome = s.tsc.onLine.isSome) : ModeShape s' := by
  constructor
  · rw [station, activity, clc]; exact h.offline
  · rw [station, activity]; exact h.online
  · rw [hand, activity]; exact h.hand
  · rw [expect, activity]; exact h.expect
  · rw [activity, clc]; exact h.waiting
  · rw [activity, clc]; exact h.bursting
  · rw [onLine, clc]; exact h.onLine
  all_goals rw [clc]
  · exact h.claiming
  · exact h.contending
  · exact h.occupied
  · exact h.gap
  · exact h.listening
  · exact h.counted

/-- What the medium state, with a claim period or without, needs to go with an unchanged modem. -/
structure ClcFits (s : State) (c : Clc) : Prop where
  online : s.suc.station = .online
  awaits : c.medium = .awaitReceipt ↔ s.clc.medium = .awaitReceipt
  sending : c.medium = .sending ↔ s.clc.medium = .sending
  claiming : c.claim ≠ .none → c.medium = .claiming
  contending : c.claim = .contending →
    c.markStart.isSome = true ∧ c.word.isSome = true ∧ c.level.isSome = true
  occupied : c.occupancyEnd.isSome = true ↔ c.medium = .occupied
  gap : c.medium = .gap → c.freeInstant.isSome = true
  listening : c.markListen = true → c.medium = .gap
  counted : c.lossCounted = true → c.claim = .out

theorem ModeShape.mapClc {s : State} (h : ModeShape s) {f : Clc → Clc} (fits : ClcFits s (f s.clc)) :
    ModeShape (s.mapClc f) where
  offline n := absurd fits.online n
  online := h.online
  hand := h.hand
  expect := h.expect
  waiting := h.waiting.trans fits.awaits.symm
  bursting b := fits.sending.mpr (h.bursting b)
  onLine := by
    rw [State.mapClc_clc, fits.sending, fits.awaits]
    exact h.onLine
  claiming := fits.claiming
  contending := fits.contending
  occupied := fits.occupied
  gap := fits.gap
  listening := fits.listening
  counted := fits.counted

/-- A medium state with no claim period under way. -/
theorem ModeShape.clearTo {s : State} (h : ModeShape s) (online : s.suc.station = .online) {c : Clc}
    (awaits : c.medium = .awaitReceipt ↔ s.clc.medium = .awaitReceipt)
    (sending : c.medium = .sending ↔ s.clc.medium = .sending)
    (claim : c.claim = .none) (listen : c.markListen = false) (counted : c.lossCounted = false)
    (occupied : c.occupancyEnd.isSome = true ↔ c.medium = .occupied)
    (gap : c.medium = .gap → c.freeInstant.isSome = true) :
    ModeShape (s.mapClc fun _ => c) :=
  h.mapClc ⟨online, awaits, sending, by simp [claim], by simp [claim], occupied, gap, by simp [listen],
    by simp [counted]⟩

/-- A medium that is in a claim period, in GAP, IDLE or OCCUPIED is that of a station ONLINE. -/
theorem ModeShape.online_of_medium {s : State} (h : ModeShape s) (hm : s.clc.medium ≠ .sensedBusy) :
    s.suc.station = .online := by
  by_contra n
  exact hm (h.offline n).2.1

/-! ### The modem's side -/

/-- The modem may return to LISTEN: the station is ONLINE and waits for no receipt. -/
def MayListen (s : State) : Prop := s.suc.station = .online ∧ s.clc.medium ≠ .awaitReceipt

theorem ModeShape.not_waiting {s : State} (h : ModeShape s) (m : s.clc.medium ≠ .awaitReceipt) :
    s.lmd.activity ≠ .receiptWait := mt h.waiting.mp m

theorem ModeShape.no_expect {s : State} (h : ModeShape s) (m : s.clc.medium ≠ .awaitReceipt) :
    s.lmd.expect.isSome = false := by
  simpa using mt h.expect.mp (h.not_waiting m)

/-- The modem in LISTEN with nothing in hand. -/
theorem ModeShape.listen {s s' : State} (h : ModeShape s) (may : MayListen s)
    (station : s'.suc.station = s.suc.station) (activity : s'.lmd.activity = .listen)
    (hand : s'.lmd.inHand = none) (expect : s'.lmd.expect.isSome = s.lmd.expect.isSome)
    (clc : s'.clc = s.clc) (onLine : s'.tsc.onLine.isSome = s.tsc.onLine.isSome) : ModeShape s' := by
  have none := h.no_expect may.2
  constructor
  · rw [station]; exact fun n => absurd may.1 n
  · simp [activity]
  · simp [activity, hand]
  · simp [activity, expect, none]
  · simp [activity, clc, may.2]
  · simp [activity]
  · rw [onLine, clc]; exact h.onLine
  all_goals rw [clc]
  · exact h.claiming
  · exact h.contending
  · exact h.occupied
  · exact h.gap
  · exact h.listening
  · exact h.counted

theorem endReception_modeShape {s : State} (h : ModeShape s) (may : MayListen s) :
    ModeShape (endReception s) := h.listen may rfl rfl rfl rfl rfl rfl

/-- A burst in hand dropped, or nothing. -/
theorem dropBurstInHand_modeShape {s : State} (h : ModeShape s) (m : s.clc.medium ≠ .awaitReceipt) :
    ModeShape (dropBurstInHand s) := by
  unfold dropBurstInHand
  split
  · exact h
  next b hb =>
    have online : s.suc.station = .online := by
      by_contra n
      have := h.hand.mp (by simp [hb])
      simp [(h.offline n).1] at this
    exact h.listen ⟨online, m⟩ rfl rfl rfl rfl rfl rfl

theorem sendClaimSignal_modeShape {s : State} (t : Time) (h : ModeShape s)
    (m : s.clc.medium ≠ .awaitReceipt) : ModeShape (sendClaimSignal t s) :=
  (dropBurstInHand_modeShape h m).of_parts rfl rfl rfl rfl rfl rfl

theorem silence_modeShape {s : State} (h : ModeShape s) : ModeShape (silence s) :=
  h.of_parts rfl rfl rfl rfl rfl rfl

/-! ### Claims -/

/-- A station may mark: ONLINE, and the line free of its own burst. -/
def MayMark (s : State) : Prop :=
  s.suc.station = .online ∧ (s.clc.medium = .idle ∨ s.clc.medium = .gap)

theorem startMark_modeShape {s : State} (t : Time) (l : Nat) (h : ModeShape s) (may : MayMark s) :
    ModeShape (startMark t l s) := by
  obtain ⟨online, m⟩ := may
  have free : s.clc.occupancyEnd.isSome = false := by
    simpa using mt h.occupied.mp (by rcases m with m | m <;> simp [m])
  refine sendClaimSignal_modeShape t (h.mapClc ⟨online, ?_, ?_, ?_, ?_, ?_, ?_, ?_, ?_⟩) (by simp)
  all_goals rcases m with m | m <;> simp [m]
  all_goals simpa using free

theorem claimDecision_modeShape {s : State} (h : ModeShape s) : ModeShape (claimDecision s).1 :=
  h.of_parts (by simp) (by simp) (by simp) (by simp) (by simp)
    (by rw [(claimDecision_stands s).onLine])

theorem openClaim_modeShape {s : State} (t : Time) (h : ModeShape s) (may : MayMark s) :
    ModeShape (openClaim t s) := by
  rcases openClaim_cases t s with ⟨-, e⟩ | ⟨l, -, e⟩
  · rw [e]; exact claimDecision_modeShape h
  · rw [e]; exact startMark_modeShape t l (claimDecision_modeShape h) (by simpa [MayMark] using may)

theorem recompute_modeShape {s : State} (h : ModeShape s) : ModeShape (recompute s) := by
  rcases recompute_cases s with ⟨-, e⟩ | ⟨-, e | ⟨m, -, o, e⟩⟩
  · rwa [e]
  · rw [e]; exact h.of_parts rfl rfl rfl rfl rfl rfl
  · rw [e]
    exact openClaim_modeShape _ (h.of_parts rfl rfl rfl rfl rfl rfl)
      ⟨of_decide_eq_true o, .inl m⟩

/-! ### Energy and quiet -/

/-- R43: what energy at `t` can do to a station. -/
theorem heardAt_cases (t : Time) (c : Clc) :
    heardAt t c = c ∨
    (c.medium = .claiming ∧ c.claim = .contending ∧ heardAt t c = { c with claim := .out }) := by
  unfold heardAt
  split
  next hm hc _ _ =>
    split
    · exact .inr ⟨hm, hc, rfl⟩
    · exact .inl rfl
  · exact .inl rfl

/-- R39: what energy in the mark slot can do. -/
theorem markHeard_cases (n : Nat) (t : Time) (c : Clc) :
    markHeard n t c = c ∨
    (c.medium = .gap ∧ c.markListen = true ∧ markHeard n t c = othersMark (openingOf c) c) := by
  unfold markHeard
  split
  next h => exact .inr ⟨h.1, h.2.1, rfl⟩
  · exact .inl rfl

theorem ModeShape.mapClc_same {s : State} (h : ModeShape s) {f : Clc → Clc} (e : f s.clc = s.clc) :
    ModeShape (s.mapClc f) := h.of_parts rfl rfl rfl rfl e rfl

theorem ModeShape.heard {s : State} (t : Time) (h : ModeShape s) : ModeShape (s.mapClc (heardAt t)) := by
  rcases heardAt_cases t s.clc with e | ⟨m, c, e⟩
  · exact h.mapClc_same e
  · have online := h.online_of_medium (by simp [m])
    refine h.mapClc ?_
    rw [e]
    exact ⟨online, .rfl, .rfl, fun _ => m, by simp, h.occupied, h.gap, h.listening, fun _ => rfl⟩

theorem ModeShape.others {s : State} (t : Time) (h : ModeShape s) (m : s.clc.medium = .gap ∨ s.clc.medium = .idle) :
    ModeShape (s.mapClc (othersMark t)) := by
  have online := h.online_of_medium (by rcases m with m | m <;> simp [m])
  have free : s.clc.occupancyEnd.isSome = false := by
    simpa using mt h.occupied.mp (by rcases m with m | m <;> simp [m])
  refine h.mapClc ⟨online, ?_, ?_, ?_, ?_, ?_, ?_, ?_, ?_⟩
  all_goals rcases m with m | m <;> simp [othersMark, m]
  all_goals simpa using free

theorem ModeShape.markHeard {s : State} (n : Nat) (t : Time) (h : ModeShape s) :
    ModeShape (s.mapClc (Machine.markHeard n t)) := by
  rcases markHeard_cases n t s.clc with e | ⟨m, -, e⟩
  · exact h.mapClc_same e
  · exact (h.others (openingOf s.clc) (.inl m)).of_parts rfl rfl rfl rfl e rfl

theorem lapse_modeShape {s : State} (h : ModeShape s) : ModeShape (lapse s) := by
  unfold lapse
  split
  · split
    · exact h
    · exact (h.heard _).markHeard _ _
  · exact h

/-- The quiet flag has no part in the tables. -/
theorem ModeShape.quiet {s : State} (q : Bool) (h : ModeShape s) :
    ModeShape (s.mapClc fun c => { c with quietFlag := q }) :=
  ⟨h.offline, h.online, h.hand, h.expect, h.waiting, h.bursting, h.onLine, h.claiming, h.contending,
    h.occupied, h.gap, h.listening, h.counted⟩

/-- R38 to R40, R43: what an energy report can do to the CLC, beside clearing the quiet flag. -/
theorem energyToClc_cases (t : Time) (onset : Bool) (c : Clc) :
    energyToClc t onset c = { c with quietFlag := false } ∨
    ((c.medium = .gap ∨ c.medium = .idle) ∧
      energyToClc t onset c = othersMark t { c with quietFlag := false }) ∨
    energyToClc t onset c = markHeard listenGuard t { c with quietFlag := false } ∨
    energyToClc t onset c = heardAt t { c with quietFlag := false } := by
  cases hm : c.medium <;> simp only [energyToClc, hm]
  case idle => cases onset <;> simp
  case gap => cases hl : c.markListen <;> cases onset <;> simp
  all_goals simp

theorem energyToClc_modeShape {s : State} (t : Time) (onset : Bool) (h : ModeShape s) :
    ModeShape (s.mapClc (energyToClc t onset)) := by
  have hq := h.quiet false
  rcases energyToClc_cases t onset s.clc with e | ⟨m, e⟩ | e | e
  · exact hq.of_parts rfl rfl rfl rfl e rfl
  · exact (hq.others t m).of_parts rfl rfl rfl rfl e rfl
  · exact (hq.markHeard _ t).of_parts rfl rfl rfl rfl e rfl
  · exact (hq.heard t).of_parts rfl rfl rfl rfl e rfl

theorem energyReport_modeShape {s : State} (a b : Bool) (h : ModeShape s) :
    ModeShape (energyReport a b s) := by
  have hl := lapse_modeShape h
  unfold energyReport
  dsimp only
  split
  · exact h
  · split
    · exact hl
    · split
      · exact energyToClc_modeShape _ _ (hl.of_parts rfl rfl rfl rfl rfl rfl)
      · split
        · exact hl.of_parts rfl rfl rfl rfl rfl rfl
        · exact hl

/-- A free instant: GAP, with no claim period. -/
theorem freeAt_modeShape {s : State} (t : Time) (h : ModeShape s) (online : s.suc.station = .online)
    (awaits : s.clc.medium ≠ .awaitReceipt) (sending : s.clc.medium ≠ .sending) :
    ModeShape (s.mapClc (freeAt t)) :=
  h.clearTo online (by simp [freeAt, awaits]) (by simp [freeAt, sending]) rfl rfl rfl
    (by simp [freeAt]) (by simp [freeAt])

theorem ModeShape.not_occupied {s : State} (h : ModeShape s) (m : s.clc.medium ≠ .occupied) :
    s.clc.occupancyEnd.isSome = false := by
  simpa using mt h.occupied.mp m

theorem sensedBusy_modeShape {s : State} (h : ModeShape s) (online : s.suc.station = .online)
    (awaits : s.clc.medium ≠ .awaitReceipt) (sending : s.clc.medium ≠ .sending)
    (occupied : s.clc.medium ≠ .occupied) : ModeShape (s.mapClc sensedBusy) :=
  h.clearTo online (by simp [sensedBusy, awaits]) (by simp [sensedBusy, sending]) rfl rfl rfl
    (by simpa [sensedBusy, clearClaim] using h.not_occupied occupied) (by simp [sensedBusy])

theorem occupyUntil_modeShape {s : State} (t : Time) (h : ModeShape s) (online : s.suc.station = .online)
    (awaits : s.clc.medium ≠ .awaitReceipt) (sending : s.clc.medium ≠ .sending) :
    ModeShape (s.mapClc (occupyUntil t)) :=
  h.clearTo online (by simp [occupyUntil, awaits]) (by simp [occupyUntil, sending]) rfl rfl rfl
    (by simp [occupyUntil]) (by simp [occupyUntil])

/-- A modem that watches is that of a station ONLINE. -/
theorem ModeShape.online_of_watches {s : State} (h : ModeShape s) (w : s.watches = true) :
    s.suc.station = .online := by
  by_contra n
  simp [State.watches, (h.offline n).1, watching] at w

theorem quietReport_modeShape {s : State} (h : ModeShape s) : ModeShape (quietReport s) := by
  unfold quietReport
  split
  next w =>
    have online := h.online_of_watches w.1
    have hq := (h.of_parts (s' := s.mapLmd fun m => { m with listenFrom := none })
      rfl rfl rfl rfl rfl rfl).quiet true
    dsimp only
    split
    next m => exact freeAt_modeShape _ hq online (by simp [m]) (by simp [m])
    next m =>
      split
      · exact openClaim_modeShape _ hq ⟨online, .inl m⟩
      · exact hq
    · exact hq
  · exact h

theorem gapTailCheck_modeShape {s : State} (h : ModeShape s) : ModeShape (gapTailCheck s) := by
  unfold gapTailCheck
  split
  next m _ =>
    have online := h.online_of_medium (by simp [m])
    split
    · exact sensedBusy_modeShape h online (by simp [m]) (by simp [m]) (by simp [m])
    · exact h
  · exact h

theorem openingInstant_modeShape {s : State} (h : ModeShape s) : ModeShape (openingInstant s) := by
  unfold openingInstant
  split
  next m _ =>
    have online := h.online_of_medium (by simp [m])
    have hd := claimDecision_modeShape h
    have keeps : (claimDecision s).1.clc = s.clc ∧ (claimDecision s).1.suc = s.suc := by simp
    split
    · split
      next s' l e =>
        rw [e] at hd keeps
        exact startMark_modeShape _ _ hd ⟨by rw [keeps.2, online], .inr (by rw [keeps.1, m])⟩
      next s' e =>
        rw [e] at hd keeps
        have m' : s'.clc.medium = .gap := by rw [keeps.1, m]
        exact hd.mapClc ⟨by rw [keeps.2, online], .rfl, .rfl, hd.claiming, hd.contending, hd.occupied,
          hd.gap, fun _ => m', hd.counted⟩
    · exact h
  · exact h

theorem markSlotListenEnd_modeShape {s : State} (h : ModeShape s) : ModeShape (markSlotListenEnd s) := by
  unfold markSlotListenEnd
  split
  · have hl := lapse_modeShape h
    dsimp only
    split
    next m =>
      have online := hl.online_of_medium (by simp [m])
      have free : (lapse s).clc.occupancyEnd.isSome = false := hl.not_occupied (by simp [m])
      have claim : (lapse s).clc.claim = .none := by
        by_contra n
        simpa [m] using hl.claiming n
      have hi : ModeShape ((lapse s).mapClc fun c => { c with medium := .idle, markListen := false }) :=
        hl.mapClc ⟨online, by simp [m], by simp [m], by simp [claim], by simp [claim], by simp [free],
          by simp, by simp, hl.counted⟩
      split
      · exact openClaim_modeShape _ hi ⟨online, .inl rfl⟩
      · exact hi
    · exact hl
  · exact h

theorem claimBitSlot_modeShape {s : State} (h : ModeShape s) : ModeShape (claimBitSlot s) := by
  have hl := lapse_modeShape h
  unfold claimBitSlot
  dsimp only
  split
  next m _ _ _ =>
    split
    · split
      · exact sendClaimSignal_modeShape _ hl (by simp [m])
      · exact silence_modeShape hl
    · exact hl
  · exact silence_modeShape hl
  · exact hl

/-! ### Periods lost and won -/

theorem losePeriod_modeShape {s : State} (h : ModeShape s) : ModeShape (losePeriod s) := by
  have hc : ModeShape (count (fun c => { c with claimsLost := satInc c.claimsLost }) s) :=
    h.of_parts rfl rfl rfl rfl rfl rfl
  refine silence_modeShape ⟨hc.offline, hc.online, hc.hand, hc.expect, hc.waiting, hc.bursting, hc.onLine,
    hc.claiming, hc.contending, hc.occupied, hc.gap, hc.listening, hc.counted⟩

theorem settleLoss_modeShape {s : State} (h : ModeShape s) : ModeShape (settleLoss s) := by
  unfold settleLoss
  split
  · exact losePeriod_modeShape h
  · exact h

@[simp] theorem losePeriod_medium (s : State) : (losePeriod s).clc.medium = s.clc.medium := rfl

@[simp] theorem settleLoss_medium (s : State) : (settleLoss s).clc.medium = s.clc.medium := by
  unfold settleLoss
  split <;> rfl

theorem declaredToClc_modeShape {s : State} (t : Time) (h : ModeShape s)
    (online : s.suc.station = .online) : ModeShape (declaredToClc t s) := by
  unfold declaredToClc
  split
  next m => exact occupyUntil_modeShape t h online (by simp [m]) (by simp [m])
  next m => exact occupyUntil_modeShape t h online (by simp [m]) (by simp [m])
  next m => exact occupyUntil_modeShape t h online (by simp [m]) (by simp [m])
  next m =>
    exact h.mapClc ⟨online, .rfl, .rfl, h.claiming, h.contending, by simp [m], h.gap, h.listening,
      h.counted⟩
  next m =>
    split
    · exact occupyUntil_modeShape t (losePeriod_modeShape h) (by simp [online]) (by simp [m]) (by simp [m])
    · split
      · exact h
      · exact occupyUntil_modeShape t (settleLoss_modeShape h) (by simp [online]) (by simp [m])
          (by simp [m])
  · exact h
  · exact h

theorem undecodedToClc_modeShape {s : State} (h : ModeShape s) : ModeShape (undecodedToClc s) := by
  unfold undecodedToClc
  split
  next m =>
    have online := h.online_of_medium (by simp [m])
    split
    · exact sensedBusy_modeShape (settleLoss_modeShape h) (by simp [online]) (by simp [m]) (by simp [m])
        (by simp [m])
    · split
      · exact sensedBusy_modeShape (losePeriod_modeShape h) (by simp [online]) (by simp [m])
          (by simp [m]) (by simp [m])
      · exact h
  · exact h

theorem hiddenWinnerDeadline_modeShape {s : State} (h : ModeShape s) :
    ModeShape (hiddenWinnerDeadline s) := by
  unfold hiddenWinnerDeadline
  split
  next m _ =>
    have online := h.online_of_medium (by simp [m])
    have hs := settleLoss_modeShape h
    dsimp only
    split
    · split
      · exact sensedBusy_modeShape hs (by simp [online]) (by simp [m]) (by simp [m]) (by simp [m])
      · exact freeAt_modeShape _ hs (by simp [online]) (by simp [m]) (by simp [m])
    · exact h
  · exact h

theorem occupancyEnd_modeShape {s : State} (h : ModeShape s) : ModeShape (occupancyEnd s) := by
  unfold occupancyEnd
  split
  next m _ =>
    have online := h.online_of_medium (by simp [m])
    split
    · exact freeAt_modeShape _ h online (by simp [m]) (by simp [m])
    · exact h
  · exact h

end Sys2Proof.Machine
end

section
/-! Activity, medium, claim state and bursts go together: bursts won, sent and received, and the commands of
the other blocks. -/

namespace Sys2Proof.Machine

/-! ### What reports the prospective claim level -/

/-- A property that rests on the station state, the activity, the burst in hand, the receipt expectation, the
medium and the burst on line alone, and that a report of the prospective claim level keeps. -/
structure Follows (P : State → Prop) : Prop where
  parts : ∀ {s s' : State}, P s → s'.suc = s.suc → s'.lmd.activity = s.lmd.activity →
    s'.lmd.inHand.isSome = s.lmd.inHand.isSome → s'.lmd.expect.isSome = s.lmd.expect.isSome →
    s'.clc = s.clc → s'.tsc.onLine.isSome = s.tsc.onLine.isSome → P s'
  recompute : ∀ {s : State}, P s → P (recompute s)

theorem modeShape_follows : Follows ModeShape :=
  ⟨fun h suc => h.of_parts (by rw [suc]), recompute_modeShape⟩

section Follows

variable {P : State → Prop} {s : State} (f : Follows P)
include f

theorem Follows.releasePeer (i : Nat) (h : P s) : P (releasePeer i s) := by
  unfold Machine.releasePeer
  exact f.recompute (f.parts h (by simp) (by simp) (by simp) (by simp) (by simp)
    (by simp [releaseFrames, (dropFrames_stands _ _).onLine]))

theorem Follows.learnSender (a : Addr) (here : Bool) (h : P s) : P (learnSender a here s).1 := by
  unfold Machine.learnSender
  split
  · exact f.parts h (by simp) (by simp) (by simp) (by simp) (by simp) (by simp)
  · split
    · exact f.parts h (by simp) (by simp) (by simp) (by simp) (by simp) (by simp)
    · split
      next i _ =>
        exact f.parts (f.releasePeer i h) (by simp) (by simp) (by simp) (by simp) (by simp) (by simp)
      · exact f.parts h (by simp) (by simp) (by simp) (by simp) (by simp) (by simp)

theorem Follows.admitNotice (i : Nat) (b : List Byte) (h : P s) : P (admitNotice i b s) := by
  unfold Machine.admitNotice
  dsimp only
  split
  · exact f.parts h rfl rfl rfl rfl rfl rfl
  · split
    · exact f.recompute (f.parts h rfl rfl rfl rfl rfl rfl)
    · exact h

theorem Follows.queueCurrentSet (i : Nat) (h : P s) : P (queueCurrentSet i s) := by
  unfold Machine.queueCurrentSet
  split
  · exact h
  · exact f.admitNotice i _ (f.parts h (by simp) (by simp) (by simp) (by simp) (by simp) (by simp))

theorem Follows.noticeDecision (i : Nat) (h : P s) : P (noticeDecision i s) := by
  unfold Machine.noticeDecision
  split
  · exact h
  · split
    · exact f.queueCurrentSet i h
    · exact f.parts h (by simp) (by simp) (by simp) (by simp) (by simp) (by simp)

theorem Follows.completeReview (i : Nat) (h : P s) : P (completeReview i s) := by
  unfold Machine.completeReview
  split
  · dsimp only
    split
    · exact f.noticeDecision i (f.parts h (by simp) (by simp) (by simp) (by simp) (by simp) (by simp))
    · exact f.parts h rfl rfl rfl rfl rfl rfl
  · exact h

theorem Follows.recoverNotices (i : Nat) (x : Header) (t : MapTest) (h : P s) :
    P (recoverNotices i x t s) := by
  unfold Machine.recoverNotices
  split
  · exact h
  next p hp =>
    have hr : P (s.mapPeer i fun p => { p with robustResend := some s.now }) :=
      f.parts h (by simp) (by simp) (by simp) (by simp) (by simp) (by simp)
    dsimp only
    split
    · split
      · exact f.queueCurrentSet i hr
      · exact hr
    · split
      · exact f.queueCurrentSet i h
      · exact h

theorem Follows.admitData (l : Nat) (d : Dest) (b : List Byte) (n : Nat) (x : Bool) (h : P s) :
    P (admitData l d b n x s) := by
  unfold Machine.admitData
  dsimp only
  split
  · exact f.recompute (f.parts h rfl rfl rfl rfl rfl rfl)
  · exact f.parts h (by simp) (by simp) (by simp) (by simp) (by simp) (by simp)

theorem Follows.classify (g : Ingress) (h : P s) : P (classify g s) := by
  unfold Machine.classify
  split
  · exact f.parts h (by simp) (by simp) (by simp) (by simp) (by simp) (by simp)
  · split
    · exact f.parts h (by simp) (by simp) (by simp) (by simp) (by simp) (by simp)
    · split
      · exact f.parts h (by simp) (by simp) (by simp) (by simp) (by simp) (by simp)
      · split
        · exact f.parts h (by simp) (by simp) (by simp) (by simp) (by simp) (by simp)
        · split
          · exact f.parts h (by simp) (by simp) (by simp) (by simp) (by simp) (by simp)
          · exact f.admitData _ _ _ _ _ h

theorem Follows.portFrameReceived (b : List Byte) (x : Bool) (h : P s) : P (portFrameReceived b x s) := by
  unfold Machine.portFrameReceived
  dsimp only
  split
  · exact f.parts h (by simp) (by simp) (by simp) (by simp) (by simp) (by simp)
  · exact f.classify _ (f.parts h (by simp) (by simp) (by simp) (by simp) (by simp) (by simp))

theorem Follows.silenceInstant (i : Nat) (h : P s) : P (silenceInstant i s) := by
  unfold Machine.silenceInstant
  split
  · exact h
  · split
    · split
      · exact f.parts h (by simp) (by simp) (by simp) (by simp) (by simp) (by simp)
      · exact f.releasePeer i h
    · exact h

theorem Follows.frameExpiry (k : FrameKind) (d : Nat) (h : P s) : P (frameExpiry k d s) := by
  unfold Machine.frameExpiry
  split
  · exact h
  · split
    · split
      · exact f.parts h rfl rfl rfl rfl rfl rfl
      · exact f.recompute (f.parts h (by simp) (by simp) (by simp) (by simp) (by simp)
          (by simp [(dropFrames_stands _ _).onLine]))
    · exact h

end Follows

/-! ### The modem's activity -/

@[simp] theorem silence_lmd (s : State) : (silence s).lmd = { s.lmd with lineOut := .silent } := rfl

@[simp] theorem enterListen_lmd (s : State) :
    (enterListen s).lmd = { s.lmd with activity := .listen, listenFrom := some s.now } := rfl

@[simp] theorem resumeListen_lmd (s : State) :
    (resumeListen s).lmd = { s.lmd with
      activity := .listen, listenFrom := some s.now, energy := none, quietFrom := s.now } := rfl

@[simp] theorem endReception_lmd (s : State) :
    (endReception s).lmd = { s.lmd with
      activity := .listen, listenFrom := some s.now, inHand := none } := rfl

/-! ### A period won -/

/-- R117: what cutting a burst can do. -/
theorem cutBurst_cases (s : State) :
    cutBurst s = s ∨ ∃ a b, s.tsc.active = some a ∧ burstFor s a = some b ∧
      cutBurst s = countBurst a b (s.mapTsc fun t => { t with
        active := some { a with frames := a.frames.map fun f => goOnLine f b.refs }
        onLine := some b }) := by
  unfold cutBurst
  split
  · exact .inl rfl
  next a ha =>
    split
    · exact .inl rfl
    next b hb => exact .inr ⟨a, b, ha, hb, rfl⟩

@[simp] theorem dropBurstInHand_hand (s : State) : (dropBurstInHand s).lmd.inHand = none := by
  unfold dropBurstInHand
  split
  next h => exact h
  · rfl

/-- R18, R32: what dropping a burst in hand does to the modem rests on the modem alone. -/
theorem dropBurstInHand_congr {s s' : State} (now : s'.now = s.now) (lmd : s'.lmd = s.lmd) :
    (dropBurstInHand s').lmd = (dropBurstInHand s).lmd := by
  cases h : s.lmd.inHand <;> simp [dropBurstInHand, lmd, h, enterListen, now]

/-- The medium SENDING, from a claim period. -/
theorem ModeShape.toSending {s s' : State} (h : ModeShape s) (m : s.clc.medium = .claiming)
    (station : s'.suc.station = s.suc.station) (activity : s'.lmd.activity = s.lmd.activity)
    (hand : s'.lmd.inHand = s.lmd.inHand) (expect : s'.lmd.expect = s.lmd.expect)
    (clc : s'.clc = { clearClaim s.clc with medium := .sending })
    (onLine : s'.tsc.onLine.isSome = true) : ModeShape s' := by
  have online := h.online_of_medium (by simp [m])
  have waits := h.not_waiting (by simp [m])
  have free := h.not_occupied (by simp [m])
  constructor
  · simp [station, online]
  · rw [station, activity]; exact h.online
  · rw [hand, activity]; exact h.hand
  · rw [expect, activity]; exact h.expect
  · simp [activity, waits, clc]
  all_goals simp [clc, onLine, clearClaim]
  simpa using free

theorem winPeriod_modeShape {s : State} (m : Time) (h : ModeShape s) (hm : s.clc.medium = .claiming) :
    ModeShape (winPeriod m s) := by
  have online := h.online_of_medium (by simp [hm])
  have hw : ModeShape (s.mapClc wonPeriod) :=
    h.mapClc ⟨online, .rfl, .rfl, by simp [wonPeriod], by simp [wonPeriod], h.occupied, h.gap, h.listening,
      by simp [wonPeriod]⟩
  unfold winPeriod
  generalize hr : ((count _ s).mapClc wonPeriod).mapLcu _ = r
  have hr' : ModeShape r := hr ▸ hw.of_parts rfl rfl rfl rfl rfl rfl
  have hrm : r.clc.medium = .claiming := by rw [← hr]; exact hm
  rcases cutBurst_cases r with e | ⟨a, b, -, -, e⟩
  · have idle : r.tsc.onLine = none := by
      simpa [hrm] using hr'.onLine
    simpa [e, settleWin, idle] using hr'
  · have onLine : (cutBurst r).tsc.onLine = some b := by simp [e]
    have same : (dropBurstInHand (cutBurst r)).lmd = (dropBurstInHand r).lmd :=
      dropBurstInHand_congr (by simp) (by simp [e])
    refine (dropBurstInHand_modeShape hr' (by simp [hrm])).toSending (by simp [hrm]) (by simp) ?_ ?_ ?_ ?_ ?_
    all_goals simp [settleWin, onLine, same]

theorem claimPeriodEnd_modeShape {s : State} (h : ModeShape s) : ModeShape (claimPeriodEnd s) := by
  have hl := lapse_modeShape h
  rcases claimPeriodEnd_cases s with e | ⟨m, hm, -, -, e⟩ | ⟨hm, hc, e⟩
  · rwa [e]
  · rw [e]
    exact winPeriod_modeShape m (silence_modeShape hl) hm
  · rw [e]
    have hs := settleLoss_modeShape hl
    have out : (settleLoss (lapse s)).clc.claim = .out := by
      unfold settleLoss
      split
      · exact hc
      · exact hc
    exact hs.mapClc ⟨by simpa using hl.online_of_medium (by simp [hm]), .rfl, .rfl, hs.claiming,
      hs.contending, hs.occupied, hs.gap, hs.listening, fun _ => out⟩

/-! ### The station's own burst -/

theorem burstStart_modeShape {s : State} (h : ModeShape s) : ModeShape (burstStart s) := by
  unfold burstStart
  split
  · exact h
  · split
    next c =>
      have hd := dropBurstInHand_modeShape h (by simp [c.1])
      have online := h.online_of_medium (by simp [c.1])
      have none := hd.no_expect (by simp [c.1])
      constructor
      · simp [online]
      · simp
      · simp
      · simpa using none
      · simp [c.1]
      · simp [c.1]
      · simpa using h.onLine
      · simpa using h.claiming
      · simpa using h.contending
      · simpa using h.occupied
      · simpa using h.gap
      · simpa using h.listening
      · simpa using h.counted
    · exact h

/-- GAP at the end of a burst, nothing in hand and nothing on line. -/
theorem modeShape_of_gap {s s' : State} (online : s.suc.station = .online) (t : Time)
    (station : s'.suc.station = s.suc.station) (activity : s'.lmd.activity = .listen)
    (hand : s'.lmd.inHand = none) (expect : s'.lmd.expect = none) (clc : s'.clc = freeAt t s.clc)
    (onLine : s'.tsc.onLine = none) : ModeShape s' := by
  constructor
  all_goals simp [station, online, activity, hand, expect, clc, onLine, freeAt, clearClaim]

/-- R121 to R123: outside IDLE a result leaves the modem and the CLC, and nothing on line. -/
theorem applyResult_onLine (b : BurstOnLine) (acc : List Bool) {s : State} (m : s.clc.medium ≠ .idle) :
    (applyResult b acc s).lmd = s.lmd ∧ (applyResult b acc s).clc = s.clc ∧
    (applyResult b acc s).tsc.onLine = none := by
  unfold applyResult
  split
  · rw [recompute_of_not_idle (by exact m)]
    exact ⟨rfl, rfl, rfl⟩
  next a _ =>
    dsimp only
    rw [recompute_of_not_idle (by simpa using m)]
    refine ⟨by simp, by simp, ?_⟩
    exact (popIfComplete_stands _).onLine

theorem applyReceipt_onLine (i : Nat) (b : BurstOnLine) (r : Option Receipt) {s : State}
    (m : s.clc.medium ≠ .idle) :
    (applyReceipt i b r s).lmd = s.lmd ∧ (applyReceipt i b r s).clc = s.clc ∧
    (applyReceipt i b r s).tsc.onLine = none := by
  unfold applyReceipt
  split
  · simpa [applyNoReceipt] using applyResult_onLine b [] (s := (countPeer i _ s).mapPeer i _) (by simpa using m)
  · split
    · simpa [applyReceived] using applyResult_onLine b _ (s := s.mapPeer i _) (by simpa using m)
    · simpa [applyMapUnknown] using applyResult_onLine b []
        (s := raise .mapUnknownSeen ((countPeer i _ s).mapPeer i _)) (by simpa using m)

theorem endOwnPayload_modeShape {s : State} (b : BurstOnLine) (t : Time) (h : ModeShape s)
    (ha : s.lmd.activity = .sendBurst) : ModeShape (endOwnPayload b t s) := by
  have m := h.bursting ha
  have online := h.online_of_medium (by simp [m])
  have hand : s.lmd.inHand = none := by simpa [ha] using h.hand
  have claim : s.clc.claim = .none := by
    by_contra n
    simpa [m] using h.claiming n
  unfold endOwnPayload
  split
  · have onLine : s.tsc.onLine.isSome = true := h.onLine.mpr (.inl m)
    have listen : s.clc.markListen = false := by
      by_contra n
      simpa [m] using h.listening (by simpa using n)
    have counted : s.clc.lossCounted = false := by
      by_contra n
      simpa [claim] using h.counted (by simpa using n)
    constructor <;> simp [online, hand, onLine, claim, h.not_occupied, m, listen, counted]
  · have expect : s.lmd.expect = none := by simpa [ha] using h.expect
    obtain ⟨lmd, clc, onLine⟩ : (applyBroadcastEnd b (resumeListen (silence s))).lmd = _ ∧
        (applyBroadcastEnd b (resumeListen (silence s))).clc = _ ∧ _ :=
      applyResult_onLine b (List.replicate b.refs.length true) (by simp [m])
    exact modeShape_of_gap online t (by simp) (by simp [lmd]) (by simp [lmd, hand]) (by simp [lmd, expect])
      (by simp [clc]) onLine

theorem ownPayloadEnd_modeShape {s : State} (h : ModeShape s) : ModeShape (ownPayloadEnd s) := by
  unfold ownPayloadEnd
  split
  · exact h
  · dsimp only
    split
    next c => exact endOwnPayload_modeShape _ _ h c.1
    · exact h

theorem takeDeferred_modeShape {s : State} (i : Nat) (h : ModeShape s) : ModeShape (takeDeferred i s) := by
  unfold takeDeferred
  split
  · split
    · exact modeShape_follows.releasePeer i h
    · exact h
  · exact h

theorem receiptSlotEnd_modeShape {s : State} (heard : Option ReceiptHeard) (h : ModeShape s) :
    ModeShape (receiptSlotEnd heard s) := by
  unfold receiptSlotEnd
  split
  next b x _ _ =>
    split
    · exact h
    next i _ =>
      dsimp only
      split
      next c =>
        have m := h.waiting.mp c.1
        have online := h.online_of_medium (by simp [m])
        have hand : s.lmd.inHand = none := by simpa [c.1] using h.hand
        refine takeDeferred_modeShape i ?_
        generalize receivedReceipt s x heard = r
        obtain ⟨lmd, clc, onLine⟩ := applyReceipt_onLine i b r
          (s := (enterListen (s.mapLmd fun m => { m with expect := none })).mapClc (freeAt _)) (by simp [freeAt])
        exact modeShape_of_gap online _ (by simp) (by rw [lmd]; rfl) (by rw [lmd]; exact hand) (by rw [lmd]; rfl) clc
          onLine
      · exact h
  · exact h

/-! ### Reception -/

theorem burstDetected_modeShape {s : State} (t : Time) (a b : Bool) (x y : List Int) (h : ModeShape s) :
    ModeShape (burstDetected t a b x y s) := by
  unfold burstDetected
  split
  next c =>
    have online := h.online_of_watches c.2.1
    have m : s.clc.medium ≠ .awaitReceipt := mt h.waiting.mpr (by simp [c.1])
    have expect := h.no_expect m
    exact ⟨fun n => absurd online n, by simp, by simp, by simp [expect], by simp [m], by simp, h.onLine,
      h.claiming, h.contending, h.occupied, h.gap, h.listening, h.counted⟩
  · exact h

/-- A burst in hand may be dropped or go on: the tables hold, and the modem may return to LISTEN. -/
def Receives (s : State) : Prop := ModeShape s ∧ MayListen s

theorem MayListen.of_eq {s s' : State} (h : MayListen s) (suc : s'.suc = s.suc) (clc : s'.clc = s.clc) :
    MayListen s' := by
  rwa [MayListen, suc, clc]

theorem Receives.of_parts {s s' : State} (h : Receives s) (suc : s'.suc = s.suc)
    (activity : s'.lmd.activity = s.lmd.activity) (hand : s'.lmd.inHand.isSome = s.lmd.inHand.isSome)
    (expect : s'.lmd.expect.isSome = s.lmd.expect.isSome) (clc : s'.clc = s.clc)
    (onLine : s'.tsc.onLine.isSome = s.tsc.onLine.isSome) : Receives s' :=
  ⟨h.1.of_parts (by rw [suc]) activity hand expect clc onLine, h.2.of_eq suc clc⟩

theorem Receives.endReception {s : State} (h : Receives s) : ModeShape (endReception s) :=
  endReception_modeShape h.1 h.2

theorem ModeShape.receives {s : State} (h : ModeShape s) (a : s.lmd.activity = .receive) : Receives s := by
  refine ⟨h, ?_, mt h.waiting.mpr (by simp [a])⟩
  by_contra n
  simpa [a] using (h.offline n).1

theorem openClaim_medium (t : Time) (s : State) :
    (openClaim t s).clc.medium = s.clc.medium ∨ (openClaim t s).clc.medium = .claiming := by
  rcases openClaim_cases t s with ⟨-, e⟩ | ⟨l, -, e⟩
  · exact .inl (by simp [e])
  · exact .inr (by simp [e, startMark, sendClaimSignal])

theorem Receives.recompute {s : State} (h : Receives s) : Receives (recompute s) := by
  refine ⟨recompute_modeShape h.1, by simpa using h.2.1, ?_⟩
  rcases recompute_cases s with ⟨-, e⟩ | ⟨-, e | ⟨m, -, -, e⟩⟩
  · rw [e]; exact h.2.2
  · rw [e]; exact h.2.2
  · rw [e]
    rcases openClaim_medium s.now (s.mapTsc fun t => { t with prospective := prospectiveLevel s.tsc })
      with e | e
    · rw [e]; exact h.2.2
    · simp [e]

theorem receives_follows : Follows Receives := ⟨Receives.of_parts, Receives.recompute⟩

theorem Receives.afterMapTest {s : State} (x : Header) (here : Bool) (t : MapTest) (h : Receives s) :
    ModeShape (afterMapTest x here t s) := by
  unfold Machine.afterMapTest
  split
  · exact h.1.of_parts rfl rfl (by simp [goOnReceiving]) rfl rfl rfl
  · exact h.1.of_parts rfl rfl (by simp [goOnReceiving]) rfl rfl rfl
  · exact h.endReception

theorem Receives.serveHeader {s : State} (i : Nat) (x : Header) (here : Bool) (h : Receives s) :
    ModeShape (serveHeader i x here s) := by
  unfold Machine.serveHeader
  split
  · exact h.endReception
  next p hp =>
    dsimp only
    have ho : Receives (openService i x here (mapTest p x.selector)
        (s.mapPeer i (discardPrevious x.selector))) :=
      h.of_parts (by simp) (by simp) (by simp) (by simp) (by simp) (by simp)
    refine Receives.afterMapTest x here _ ?_
    split
    · exact receives_follows.recoverNotices i x _ ho
    · exact ho

theorem Receives.ownLabel {s : State} (x : Header) (m : List Nat) (h : Receives s) :
    ModeShape (ownLabel x m s) := by
  unfold Machine.ownLabel
  have hl := receives_follows.learnSender x.sender (addressedHere s x) h
  dsimp only
  split
  next s' e =>
    rw [e] at hl
    exact hl.endReception
  next s' i e =>
    rw [e] at hl
    have hf : Receives (fileMeasurement i m x.stamp s') :=
      hl.of_parts (by simp) (by simp) (by simp) (by simp) (by simp) (by simp)
    split
    · exact hf.serveHeader i x _
    · exact hf.endReception

/-- R46 to R48: a declared free instant makes the medium OCCUPIED, or has no effect. -/
theorem declaredToClc_medium (t : Time) (s : State) :
    (declaredToClc t s).clc.medium = .occupied ∨ declaredToClc t s = s := by
  unfold declaredToClc
  split
  next => exact .inl rfl
  next => exact .inl rfl
  next => exact .inl rfl
  next m => exact .inl m
  next =>
    split
    · exact .inl rfl
    · split
      · exact .inr rfl
      · exact .inl rfl
  next => exact .inr rfl
  next => exact .inr rfl

theorem Receives.declaredToClc {s : State} (t : Time) (h : Receives s) : Receives (declaredToClc t s) := by
  refine ⟨declaredToClc_modeShape t h.1 h.2.1, by simpa using h.2.1, ?_⟩
  rcases declaredToClc_medium t s with e | e
  · simp [e]
  · rw [e]; exact h.2.2

/-- R46, R48: a header not decoded makes the medium SENSED_BUSY, or has no effect. -/
theorem undecodedToClc_medium (s : State) :
    (undecodedToClc s).clc.medium = .sensedBusy ∨ undecodedToClc s = s := by
  unfold undecodedToClc
  split
  · split
    · exact .inl rfl
    · split
      · exact .inl rfl
      · exact .inr rfl
  · exact .inr rfl

theorem Receives.undecodedToClc {s : State} (h : Receives s) : Receives (undecodedToClc s) := by
  refine ⟨undecodedToClc_modeShape h.1, by simpa using h.2.1, ?_⟩
  rcases undecodedToClc_medium s with e | e
  · simp [e]
  · rw [e]; exact h.2.2

theorem headerOutcome_modeShape {s : State} (x : HeaderHeard) (h : ModeShape s) :
    ModeShape (headerOutcome x s) := by
  unfold headerOutcome
  split
  · exact h
  next b _ =>
    split
    next c =>
      have hr := h.receives c.1
      have counted (f : Counters → Counters) : Receives (count f s) := hr.of_parts rfl rfl rfl rfl rfl rfl
      unfold takeHeader
      split
      · exact (counted _).undecodedToClc.endReception
      · split
        · exact ((counted _).declaredToClc _).endReception
        · exact (hr.declaredToClc _).ownLabel _ _
    · exact h

theorem blockHanded_modeShape {s : State} (x : SymbolsHeard) (h : ModeShape s) :
    ModeShape (blockHanded x s) := by
  unfold blockHanded
  split
  · exact h
  next b hb =>
    split
    · exact h
    · dsimp only
      split
      · exact h.of_parts (by simp) (by simp) (by simp [hb]) (by simp) (by simp) (by simp)
      · exact h

theorem rxPayloadEnd_modeShape {s : State} (h : ModeShape s) : ModeShape (rxPayloadEnd s) := by
  unfold rxPayloadEnd
  split
  · exact h
  next b hb =>
    split
    · exact h
    · split
      next c =>
        split
        · exact Receives.endReception ((h.receives c.1).of_parts rfl rfl rfl rfl rfl rfl)
        · exact h.of_parts rfl rfl (by simp [hb]) rfl rfl rfl
      · exact h

/-- The modem in SEND_RECEIPT with nothing in hand. -/
theorem startReceipt_modeShape {s : State} (t : Time) (r : Receipt) (h : ModeShape s)
    (a : s.lmd.activity = .receive) : ModeShape (startReceipt t r s) := by
  obtain ⟨-, online, m⟩ := h.receives a
  have expect := h.no_expect m
  exact ⟨fun n => absurd online n, by simp [startReceipt], by simp [startReceipt],
    by simp [startReceipt, expect], by simp [startReceipt, m], by simp [startReceipt], h.onLine, h.claiming,
    h.contending, h.occupied, h.gap, h.listening, h.counted⟩

theorem sendReceipt_modeShape {s : State} (h : ModeShape s) : ModeShape (sendReceipt s) := by
  unfold sendReceipt
  split
  · split
    · exact h
    · dsimp only
      split
      next c => exact startReceipt_modeShape _ _ h c.1
      · exact h
  · exact h

theorem receiptEnd_modeShape {s : State} (h : ModeShape s) : ModeShape (receiptEnd s) := by
  unfold receiptEnd
  split
  next c =>
    have online : s.suc.station = .online := by
      by_contra n
      simpa [c.1] using (h.offline n).1
    have hand : s.lmd.inHand = none := by simpa [c.1] using h.hand
    exact h.listen ⟨online, mt h.waiting.mpr (by simp [c.1])⟩ rfl rfl hand rfl rfl rfl
  · exact h

/-! ### Configuration, resets and requests -/

/-- R163: an apply at a station that is not ONLINE. -/
theorem applyConfig_modeShape {s : State} (c : ConfigImage) (h : ModeShape s)
    (n : s.suc.station ≠ .online) : ModeShape (applyConfig c s) := by
  obtain ⟨off, medium, claim⟩ := h.offline n
  have hand : s.lmd.inHand = none := by simpa [off] using h.hand
  have expect : s.lmd.expect = none := by simpa [off] using h.expect
  unfold applyConfig
  refine recompute_modeShape ⟨?_, ?_, ?_, ?_, ?_, ?_, ?_, ?_, ?_, ?_, ?_, ?_, ?_⟩
  case refine_10 => exact h.occupied
  case refine_7 => exact h.onLine
  case refine_12 => exact h.listening
  case refine_13 => exact h.counted
  all_goals simp [hand, expect, medium, claim]

/-- A station that is not ONLINE stays so. -/
theorem ModeShape.mapSuc_offline {s : State} (h : ModeShape s) {f : Suc → Suc}
    (n : s.suc.station ≠ .online) (n' : (f s.suc).station ≠ .online) : ModeShape (s.mapSuc f) :=
  ⟨fun _ => h.offline n, fun o => absurd o n', h.hand, h.expect, h.waiting, h.bursting, h.onLine,
    h.claiming, h.contending, h.occupied, h.gap, h.listening, h.counted⟩

theorem flashReadStart_modeShape {s : State} (h : ModeShape s) : ModeShape (flashReadStart s) := by
  unfold flashReadStart
  split
  · split
    next c => exact h.mapSuc_offline (by simp [c.1]) (by simp [c.1])
    · exact h
  · exact h

theorem flashReadEnd_modeShape {s : State} (bs : List Byte) (h : ModeShape s) :
    ModeShape (flashReadEnd bs s) := by
  unfold flashReadEnd
  split
  · split
    next c =>
      have hr : ModeShape (s.mapSuc fun u => { u with flashRead := none }) :=
        h.mapSuc_offline (by simp [c.1]) (by simp [c.1])
      dsimp only
      split
      · exact applyConfig_modeShape _ hr (by simp [c.1])
      · exact (hr.mapSuc_offline (f := fun u => { u with station := .configWait }) (by simp [c.1])
          (by simp)).of_parts rfl rfl rfl rfl rfl rfl
    · exact h
  · exact h

theorem answer_modeShape {s : State} (r : Request) (c : ResultCode) (b : List Byte) (h : ModeShape s) :
    ModeShape (answer r c b s) :=
  h.of_parts (by simp) (by simp) (by simp) (by simp) (by simp) (by simp)

theorem answerConfigLoad_modeShape {s : State} (r : Request) (h : ModeShape s) :
    ModeShape (answerConfigLoad r s) := by
  unfold answerConfigLoad
  split
  next c =>
    split
    · exact answer_modeShape _ _ _ (applyConfig_modeShape _ h (by simp [c]))
    · exact answer_modeShape _ _ _ (h.of_parts rfl rfl rfl rfl rfl rfl)
  · exact answer_modeShape _ _ _ h

theorem answerFloor_modeShape {s : State} (r : Request) (h : ModeShape s) :
    ModeShape (answerFloor r s) := by
  refine withArgs_keeps h (fun _ _ _ => answer_modeShape _ _ _) fun h => answer_modeShape _ _ _ ?_
  exact recompute_modeShape (h.of_parts rfl rfl rfl rfl rfl rfl)

/-- What a reset leaves has the tables hold. -/
theorem modeShape_of_reset {s : State} {strap : Strap} {due : Time} (lmd : s.lmd = resetLmd)
    (clc : s.clc = resetClc) (tsc : s.tsc = resetTsc) (suc : s.suc = resetSuc strap due) : ModeShape s := by
  constructor <;> simp [lmd, clc, tsc, suc, resetLmd, resetClc, resetTsc, resetSuc]
  cases strap <;> simp

theorem restartTaken_modeShape {s : State} (h : ModeShape s) : ModeShape (restartTaken s) := by
  unfold restartTaken
  split
  · exact modeShape_of_reset rfl rfl rfl rfl
  · exact h

theorem effect_modeShape (c : Instr) {s : State} (h : ModeShape s) : ModeShape (effect c s) := by
  have stands {s' : State} (suc : s'.suc = s.suc) (lmd : s'.lmd = s.lmd) (clc : s'.clc = s.clc)
      (tsc : s'.tsc = s.tsc) : ModeShape s' :=
    h.of_parts (by rw [suc]) (by rw [lmd]) (by rw [lmd]) (by rw [lmd]) clc (by rw [tsc])
  cases c with
  | qualifiedCrossing t =>
    simp only [effect]
    split
    · exact stands (by simp) (by simp) (by simp) (by simp)
    · exact h
  | energyReport t a b => exact energyReport_modeShape a b h
  | quietReport t => exact quietReport_modeShape h
  | gapTailCheck t => exact gapTailCheck_modeShape h
  | openingInstant t => exact openingInstant_modeShape h
  | markSlotListenEnd t => exact markSlotListenEnd_modeShape h
  | claimBitSlot t => exact claimBitSlot_modeShape h
  | claimPeriodEnd t => exact claimPeriodEnd_modeShape h
  | burstStart t => exact burstStart_modeShape h
  | hiddenWinnerDeadline t => exact hiddenWinnerDeadline_modeShape h
  | occupancyEnd t => exact occupancyEnd_modeShape h
  | burstDetected t start a b x y => exact burstDetected_modeShape start a b x y h
  | headerOutcome t x => exact headerOutcome_modeShape x h
  | reviewComplete t i => exact modeShape_follows.completeReview i h
  | blockHanded t x => exact blockHanded_modeShape x h
  | rxPayloadEnd t => exact rxPayloadEnd_modeShape h
  | sendReceipt t => exact sendReceipt_modeShape h
  | receiptEnd t => exact receiptEnd_modeShape h
  | ownPayloadEnd t => exact ownPayloadEnd_modeShape h
  | receiptSlotEnd t x => exact receiptSlotEnd_modeShape x h
  | silenceInstant t i => exact modeShape_follows.silenceInstant i h
  | frameExpiry t k d => exact modeShape_follows.frameExpiry k d h
  | portFrameReceived t b x => exact modeShape_follows.portFrameReceived b x h
  | nrstAssert t => exact h.of_parts rfl rfl rfl rfl rfl rfl
  | hardwareReset t strap => exact modeShape_of_reset rfl rfl rfl rfl
  | flashReadStart t => exact flashReadStart_modeShape h
  | flashReadEnd t bs => exact flashReadEnd_modeShape bs h
  | floor t =>
    exact takeRequest_keeps h (fun _ h => h.of_parts rfl rfl rfl rfl rfl rfl) fun r _ =>
      answerFloor_modeShape r
  | configLoad t =>
    exact takeRequest_keeps h (fun _ h => h.of_parts rfl rfl rfl rfl rfl rfl) fun r _ =>
      answerConfigLoad_modeShape r
  | restartTaken t => exact restartTaken_modeShape h
  | _ => exact stands (by simp [effect]) (by simp [effect]) (by simp [effect]) (by simp [effect])

theorem modeShape_kept : KeptBy ModeShape where
  time _ _ h := h.of_parts rfl rfl rfl rfl rfl rfl
  queue _ _ h := h.of_parts rfl rfl rfl rfl rfl rfl
  receiving _ _ h := h.of_parts rfl rfl rfl rfl rfl rfl
  nrst _ _ h := h.of_parts rfl rfl rfl rfl rfl rfl
  reset _ _ _ _ := modeShape_of_reset rfl rfl rfl rfl
  effect c _ _ h := effect_modeShape c h

/-- Settles O22: every effect keeps the tables. -/
theorem modeShapeKept : Obligations.ModeShapeKept := fun _ _ => modeShape_kept.step

end Sys2Proof.Machine
end

section
/-! The changes that every effect is made of. An invariant is kept by a step when each of these changes keeps
it: the commands are walked through once, here and in the section after this one. -/

namespace Sys2Proof.Machine

/-! ### Rules for counters, records and the line -/

/-- What a change of the station counters keeps: the counters of each level, and every counter's range. -/
structure CountersKeep (c d : Counters) : Prop where
  levels : d.levels.length = c.levels.length
  range : (∀ n ∈ counterList c, n ≤ counterMax) → ∀ n ∈ counterList d, n ≤ counterMax

/-- The slots that an announced window list names hold current maps (R80). -/
def AnnouncedIn (p : Peer) : Prop :=
  p.rxMaps.length = slotCount ∧
    ∀ k : Nat, some k ∈ p.announced → ∃ r m, p.rxMaps[k]? = some r ∧ r.current = some m

/-- What a change of a record keeps. -/
structure RecordKeeps (p q : Peer) : Prop where
  address : q.address = p.address
  versions : (p.fallback ≤ 2 ∧ ∀ r ∈ p.rxMaps, SlotVersions r) → q.fallback ≤ 2 ∧ ∀ r ∈ q.rxMaps, SlotVersions r
  shape : PeerShape p → PeerShape q
  announced : AnnouncedIn p → AnnouncedIn q
  recent : p.recent.length ≤ recentCapacity → q.recent.length ≤ recentCapacity
  counters : (∀ n ∈ peerCounterList p.counters, n ≤ counterMax) → ∀ n ∈ peerCounterList q.counters, n ≤ counterMax

/-- A change of a record's times, tags, flags and filing count keeps the rest. -/
theorem RecordKeeps.of_fields {p q : Peer} (address : q.address = p.address)
    (fallback : q.fallback = p.fallback) (rxMaps : q.rxMaps = p.rxMaps) (announced : q.announced = p.announced)
    (store : q.store = p.store) (txMaps : q.txMaps = p.txMaps) (recent : q.recent = p.recent)
    (counters : q.counters = p.counters) : RecordKeeps p q where
  address := address
  versions := by rw [fallback, rxMaps]; exact id
  shape h := by
    obtain ⟨a, b, c, d, e⟩ := h
    exact ⟨by rwa [store], by rwa [rxMaps], by rwa [rxMaps], by rwa [txMaps], by rwa [txMaps]⟩
  announced := by rw [AnnouncedIn, AnnouncedIn, rxMaps, announced]; exact id
  recent := by rw [recent]; exact id
  counters := by rw [counters]; exact id

/-- R20: a notched group carries nothing in what is sent. -/
def Notched (notch : List Bool) (out : LineOut) : Prop :=
  ∀ x ∈ out.symbols, ∀ g, notch.getD g false = true → x.getD g .silent = .silent

/-- What the admission, the trains and the bursts of the scheduler keep of its tables. -/
structure TscKeeps (t u : Tsc) : Prop where
  queues : u.queues.length = t.queues.length
  lifetimes : u.lifetimes.length = t.lifetimes.length
  bcastTags : u.bcastTags.length = t.bcastTags.length
  floor : t.floor ≤ 7 → u.floor ≤ 7

/-- The entries have the same key (R131). -/
def Entry.sameKey (e f : Entry) : Prop :=
  e.sender = f.sender ∧ e.level = f.level ∧ e.tag = f.tag ∧ e.bcast = f.bcast

/-- The state with the entry at a position gone from the table. -/
def clearedAt (pos : Nat) (s : State) : State :=
  s.mapRxa fun r => { r with table := tableSet r.table pos none }

/-- An image as a valid block gives it (R162, R163). -/
def IsImage (c : ConfigImage) : Prop := ∃ source bs, c = readConfig source bs

/-- The state with an image applied, but for the claim level that follows (R163). -/
def configured (c : ConfigImage) (s : State) : State :=
  let s := s.mapSuc fun u => { u with
    station := .online, image := some c, address := some c.address, label := some c.label }
  let s := s.mapLcu fun l => { l with q := c.q }
  let s := resumeListen (s.mapLmd fun m => { m with notch := c.notch, path := c.path })
  let s := s.mapClc fun k => { k with rng := rngSeed c.address }
  let s := s.mapLae fun l => { l with margin := c.margin }
  let s := s.mapTsc fun t => { t with lifetimes := c.lifetimes, floor := c.floor }
  let s := s.mapPtu fun p => { p with priority := c.priority, defaultLevel := c.defaultLevel }
  s.mapMgu fun m => judgeAttn { m with mask := c.mask }

theorem applyConfig_eq (c : ConfigImage) (s : State) : applyConfig c s = recompute (configured c s) := rfl

/-- One change, in the course of a command that was taken in the state `σ`. -/
inductive Change (σ : State) : State → State → Prop where
  /-- The LCU. -/
  | lcu (s : State) (f : Lcu → Lcu) : Change σ s (s.mapLcu f)
  /-- The modem, which goes on sending what it sends, or falls silent. -/
  | modem (s : State) (f : Lmd → Lmd) (notch : (f s.lmd).notch = s.lmd.notch)
      (line : (f s.lmd).lineOut = s.lmd.lineOut ∨ (f s.lmd).lineOut = .silent) : Change σ s (s.mapLmd f)
  /-- The modem of a station ONLINE begins to send. -/
  | sends (s : State) (f : Lmd → Lmd) (notch : (f s.lmd).notch = s.lmd.notch)
      (online : (ModeShape σ → σ.suc.station = .online) ∨ s.suc.station = .online)
      (out : Notched s.lmd.notch (f s.lmd).lineOut) : Change σ s (s.mapLmd f)
  /-- The CLC, its generator as it was or four steps on. -/
  | medium (s : State) (f : Clc → Clc)
      (rng : (f s.clc).rng = s.clc.rng ∨ (f s.clc).rng = rngDraw s.clc.rng) : Change σ s (s.mapClc f)
  /-- A record. -/
  | record (s : State) (i : Nat) (f : Peer → Peer)
      (keeps : ∀ p, s.peer i = some p → RecordKeeps p (f p)) : Change σ s (s.mapPeer i f)
  /-- A vacant record is claimed for an address that none holds (R56). -/
  | claimed (s : State) (i : Nat) (a : Addr) (now : Time) (here : Bool) (vacant : s.peer i = none)
      (new : ∀ j p, s.peer j = some p → p.address ≠ a) :
      Change σ s (s.mapPeers fun l => tableSet l i (some (claimedPeer a now here)))
  /-- A record is released, with the forwarding entries behind it (R60). -/
  | released (s : State) (i : Nat) :
      Change σ s ((s.mapPtu fun p => { p with fwd := vacate (fun e => decide (e.peer = i)) p.fwd }).mapPeers
        fun l => tableSet l i none)
  /-- The LAE. -/
  | reviews (s : State) (f : Lae → Lae) (length : (f s.lae).reviews.length = s.lae.reviews.length) :
      Change σ s (s.mapLae f)
  /-- The scheduler. -/
  | scheduler (s : State) (f : Tsc → Tsc) (keeps : TscKeeps s.tsc (f s.tsc)) : Change σ s (s.mapTsc f)
  /-- The pools but the receive pool. -/
  | pools (s : State) (f : Bpm → Bpm) (rxFree : (f s.bpm).rxFree = s.bpm.rxFree) : Change σ s (s.mapBpm f)
  /-- The burst in service. -/
  | service (s : State) (f : Rxa → Rxa) (table : (f s.rxa).table = s.rxa.table) : Change σ s (s.mapRxa f)
  /-- Reassembly entries are freed without delivery (R131). -/
  | abandons (s : State) (p : Entry → Bool) : Change σ s (abandonEntries p s)
  /-- The entry at a position is freed without delivery (R131). -/
  | abandonsAt (s : State) (pos : Nat) : Change σ s (abandonAt pos s)
  /-- An entry takes one block more (R132, case 3). -/
  | stored (s : State) (pos : Nat) (e d : Entry) (at_pos : tableGet s.rxa.table pos = some e)
      (free : s.bpm.rxFree ≠ 0) (key : d.sameKey e) (one : d.blocks.length = e.blocks.length + 1) :
      Change σ s ((s.mapBpm fun b => { b with rxFree := b.rxFree - 1 }).mapRxa
        fun r => { r with table := tableSet r.table pos (some d) })
  /-- An entry with one block is opened at a vacant position, no entry having its key (R132, case 5). -/
  | opened (s : State) (pos : Nat) (d : Entry) (vacant : lowestVacant s.rxa.table = some pos)
      (free : s.bpm.rxFree ≠ 0) (one : d.blocks.length = 1)
      (new : EntriesSound σ → ∀ n e, tableGet s.rxa.table n = some e → ¬e.sameKey d) :
      Change σ s ((s.mapBpm fun b => { b with rxFree := b.rxFree - 1 }).mapRxa
        fun r => { r with table := tableSet r.table pos (some d) })
  /-- The blocks of an entry go into the egress FIFO with its frame (R139). -/
  | delivered (s : State) (pos : Nat) (e : Entry) (at_pos : tableGet s.rxa.table pos = some e)
      (room : s.ptu.fifo.length < fifoCapacity) :
      Change σ s (clearedAt pos (s.mapPtu fun p => { p with
        fifo := p.fifo ++ [⟨e.frameBytes, e.blocks.length, e.level⟩] }))
  /-- The blocks of an entry return to the receive pool (R139, R140). -/
  | returned (s : State) (pos : Nat) (e : Entry) (at_pos : tableGet s.rxa.table pos = some e) :
      Change σ s (clearedAt pos (s.mapBpm fun b => { b with rxFree := b.rxFree + e.blocks.length }))
  /-- The port, but for what it forwards, sends and queues for the line. -/
  | port (s : State) (f : Ptu → Ptu) (fwd : (f s.ptu).fwd = s.ptu.fwd) (fifo : (f s.ptu).fifo = s.ptu.fifo)
      (egress : (f s.ptu).egress = s.ptu.egress) (priority : (f s.ptu).priority = s.ptu.priority)
      (level : (f s.ptu).defaultLevel = s.ptu.defaultLevel)
      (slot : s.ptu.slot.length ≤ slotCapacity → (f s.ptu).slot.length ≤ slotCapacity) :
      Change σ s (s.mapPtu f)
  /-- The egress arbiter makes a choice (R155). -/
  | choice (s : State) : Change σ s (egressChoice s)
  /-- The sending of a data frame is over (R153). -/
  | dataSent (s : State) (x : EgressFrame) (sending : s.ptu.egress = .sendingData x) :
      Change σ s (beginGap (s.mapBpm fun b => { b with rxFree := b.rxFree + x.blocks }))
  /-- The sending of a reply is over, or the gap (R154, R155). -/
  | egressTo (s : State) (e : Egress) (now : egressBlocks s.ptu.egress = 0) (next : egressBlocks e = 0) :
      Change σ s (s.mapPtu fun p => { p with egress := e })
  /-- An address is learned (R151). -/
  | learned (s : State) (pos : Nat) (a : Addr) (i : Nat) (now : Time) (individual : isGroup a = false)
      (active : (s.peer i).isSome = true)
      (place : ∀ n e, tableGet s.ptu.fwd n = some e → e.address = a → ForwardSound s → n = pos) :
      Change σ s (s.mapPtu fun p => { p with fwd := tableSet p.fwd pos (some ⟨a, i, now⟩) })
  /-- A forwarding entry is aged out (R152). -/
  | aged (s : State) (pos : Nat) : Change σ s (s.mapPtu fun p => { p with fwd := tableSet p.fwd pos none })
  /-- The station counters. -/
  | counts (s : State) (f : Counters → Counters) (keeps : CountersKeep s.mgu.counters (f s.mgu.counters)) :
      Change σ s (count f s)
  /-- Flags or mask change, and ATTN is judged afresh (R168). -/
  | judged (s : State) (f : Mgu → Mgu) (queue : (f s.mgu).queue = s.mgu.queue)
      (counters : (f s.mgu).counters = s.mgu.counters) : Change σ s (s.mapMgu fun m => judgeAttn (f m))
  /-- Requests and the RESTART (R159, R164). -/
  | requests (s : State) (f : Mgu → Mgu) (flags : (f s.mgu).flags = s.mgu.flags)
      (mask : (f s.mgu).mask = s.mgu.mask) (attn : (f s.mgu).attn = s.mgu.attn)
      (counters : (f s.mgu).counters = s.mgu.counters)
      (queue : s.mgu.queue.length ≤ requestCapacity → (f s.mgu).queue.length ≤ requestCapacity) :
      Change σ s (s.mapMgu f)
  /-- The station starts up, and is not ONLINE yet (R160). -/
  | startUp (s : State) (f : Suc → Suc) (before : s.suc.station ≠ .online)
      (later : (f s.suc).station ≠ .online) : Change σ s (s.mapSuc f)
  /-- A configuration is applied (R163). -/
  | configures (s : State) (c : ConfigImage) (image : IsImage c) (before : s.suc.station ≠ .online) :
      Change σ s (configured c s)

/-- Changes, one after another. -/
abbrev Changes (σ : State) : State → State → Prop := Relation.ReflTransGen (Change σ)

theorem Change.changes {σ s s' : State} (h : Change σ s s') : Changes σ s s' := .single h

/-- Changes of one state, and one more. -/
theorem Changes.then {σ s s' s'' : State} (h : Changes σ s s') (c : Change σ s' s'') : Changes σ s s'' := h.tail c

theorem Changes.trans {σ s s' s'' : State} (h : Changes σ s s') (h' : Changes σ s' s'') : Changes σ s s'' :=
  Relation.ReflTransGen.trans h h'

/-- What every change keeps, changes keep. -/
theorem Changes.keep {P : State → Prop} {σ s s' : State} (h : Changes σ s s')
    (keeps : ∀ s s', Change σ s s' → P s → P s') (hs : P s) : P s' := by
  induction h with
  | refl => exact hs
  | tail _ c ih => exact keeps _ _ c ih

end Sys2Proof.Machine
end

section
/-! What each change of a record, of the counters and of the scheduler keeps. -/

namespace Sys2Proof.Machine

/-! ### Lists and tables -/

/-- A list with one element changed holds its old elements and the changed one. -/
theorem mem_updAt {α : Type} {l : List α} {i : Nat} {f : α → α} {x : α} (h : x ∈ updAt l i f) :
    x ∈ l ∨ ∃ y ∈ l, x = f y := by
  unfold updAt at h
  split at h
  next y hy =>
    rcases List.mem_or_eq_of_mem_set h with h | h
    · exact .inl h
    · exact .inr ⟨y, List.mem_of_getElem? hy, h⟩
  · exact .inl h

/-- The entries of a table are what stands at its positions. -/
theorem mem_table {α : Type} {l : List (Option α)} {x : α} :
    x ∈ l.filterMap id ↔ ∃ n, tableGet l n = some x := by
  rw [List.mem_filterMap]
  simp only [id_eq, exists_eq_right, List.mem_iff_getElem?]
  constructor
  · rintro ⟨k, hk⟩
    exact ⟨k + 1, by simp [tableGet, hk]⟩
  · rintro ⟨n, hn⟩
    cases n with
    | zero => simp [tableGet] at hn
    | succ k =>
      refine ⟨k, ?_⟩
      cases hk : l[k]? with
      | none => simp [tableGet, hk] at hn
      | some y => simpa [tableGet, hk] using hn

theorem mem_tableEntries {α : Type} {l : List (Option α)} {e : Nat × α} :
    e ∈ tableEntries l ↔ tableGet l e.1 = some e.2 := by
  unfold tableEntries
  simp only [List.mem_filterMap, Prod.exists, List.mem_zipIdx_iff_getElem?, Option.map_eq_some_iff]
  constructor
  · rintro ⟨x, k, hk, y, rfl, rfl⟩
    simp [tableGet, hk]
  · intro h
    obtain ⟨k, hk⟩ : ∃ k, e.1 = k + 1 := ⟨e.1 - 1, by have := tableGet_range h; omega⟩
    rw [hk, tableGet, Option.join_eq_some_iff] at h
    exact ⟨some e.2, k, h, e.2, rfl, Prod.ext hk.symm rfl⟩

/-- A rule for every record is one for what stands at each index. -/
theorem forall_records {s : State} {P : Peer → Prop} :
    (∀ p ∈ s.peers.filterMap id, P p) ↔ ∀ i p, s.peer i = some p → P p := by
  simp only [mem_table, forall_exists_index]
  exact forall_comm

/-- The lowest vacant position is a vacant one of the table. -/
theorem lowestVacant_eq_some {α : Type} {l : List (Option α)} {i : Nat} (h : lowestVacant l = some i) :
    tableGet l i = none ∧ 1 ≤ i ∧ i ≤ l.length := by
  obtain ⟨k, hk, rfl⟩ := Option.map_eq_some_iff.mp h
  obtain ⟨hl, hv, -⟩ := List.findIdx?_eq_some_iff_getElem.mp hk
  refine ⟨?_, by omega, by omega⟩
  simpa [tableGet, hl] using hv

/-- Where a search of a table fails, no entry satisfies the test. -/
theorem not_of_tableFind_none {α : Type} {p : α → Bool} {l : List (Option α)} (h : tableFind p l = none)
    {n : Nat} {x : α} (hx : tableGet l n = some x) : p x = false := by
  simpa using List.find?_eq_none.mp h (n, x) (mem_tableEntries.mpr hx)

/-- What a search of a table finds stands at its position and satisfies the test. -/
theorem tableFind_eq_some {α : Type} {p : α → Bool} {l : List (Option α)} {e : Nat × α}
    (h : tableFind p l = some e) : tableGet l e.1 = some e.2 ∧ p e.2 = true :=
  ⟨mem_tableEntries.mp (List.mem_of_find?_eq_some h), by
    simpa using List.find?_some (show List.find? (fun e => p e.2) (tableEntries l) = some e from h)⟩

/-! ### Counters -/

/-- The range of the station counters, counter by counter. -/
theorem counters_range_iff (c : Counters) : (∀ n ∈ counterList c, n ≤ counterMax) ↔
    c.spuriousCrossings ≤ counterMax ∧ c.undecodedBursts ≤ counterMax ∧ c.foreignBursts ≤ counterMax ∧
    c.claimsWon ≤ counterMax ∧ c.claimsLost ≤ counterMax ∧ c.unlearnedBursts ≤ counterMax ∧
    c.framesReleased ≤ counterMax ∧ c.noticesRejected ≤ counterMax ∧
    (∀ l ∈ c.levels, l.sent ≤ counterMax ∧ l.admissionDrops ≤ counterMax ∧ l.expiries ≤ counterMax ∧
      l.retryDrops ≤ counterMax) ∧
    c.lineDelivered ≤ counterMax ∧ c.egressOverflows ≤ counterMax ∧ c.abandoned ≤ counterMax ∧
    c.bufferRefusals ≤ counterMax ∧ c.portReceived ≤ counterMax ∧ c.portErrors ≤ counterMax ∧
    c.portControl ≤ counterMax ∧ c.portToStation ≤ counterMax ∧ c.portOffline ≤ counterMax ∧
    c.managementLost ≤ counterMax ∧ c.forwardReplacements ≤ counterMax ∧ c.portSent ≤ counterMax ∧
    c.repliesSent ≤ counterMax ∧ c.requestsDropped ≤ counterMax := by
  simp only [counterList, List.forall_mem_append, List.forall_mem_cons, List.forall_mem_flatMap,
    List.not_mem_nil, false_implies, implies_true, and_true, and_assoc]

/-- R126: a counter of one level that increases, saturating. -/
theorem countersKeep_levels (c : Counters) (l : Nat) {f : LevelCounters → LevelCounters}
    (range : ∀ x, (∀ n ∈ [x.sent, x.admissionDrops, x.expiries, x.retryDrops], n ≤ counterMax) →
      ∀ n ∈ [(f x).sent, (f x).admissionDrops, (f x).expiries, (f x).retryDrops], n ≤ counterMax) :
    CountersKeep c { c with levels := updAt c.levels l f } where
  levels := by simp
  range h n hn := by
    simp only [counterList, List.mem_append, List.mem_flatMap] at h hn
    rcases hn with (hn | ⟨x, hx, hn⟩) | hn
    · exact h n (.inl (.inl hn))
    · rcases mem_updAt hx with hx | ⟨y, hy, rfl⟩
      · exact h n (.inl (.inr ⟨x, hx, hn⟩))
      · exact range y (fun m hm => h m (.inl (.inr ⟨y, hy, hm⟩))) n hn
    · exact h n (.inr hn)

/-! ### Records -/

theorem RecordKeeps.trans {p q r : Peer} (a : RecordKeeps p q) (b : RecordKeeps q r) : RecordKeeps p r where
  address := b.address.trans a.address
  versions := b.versions ∘ a.versions
  shape := b.shape ∘ a.shape
  announced := b.announced ∘ a.announced
  recent := b.recent ∘ a.recent
  counters := b.counters ∘ a.counters

/-- R64: counters that increase, saturating. -/
theorem RecordKeeps.count (p : Peer) {f : PeerCounters → PeerCounters}
    (range : (∀ n ∈ peerCounterList p.counters, n ≤ counterMax) →
      ∀ n ∈ peerCounterList (f p.counters), n ≤ counterMax) :
    RecordKeeps p { p with counters := f p.counters } where
  address := rfl
  versions := id
  shape h := ⟨h.windows, h.rxSlots, h.rxMaps, h.txWindows, h.txSlots⟩
  announced := id
  recent := id
  counters := range

/-- The transmit map set is discarded or the fallback count changed within its range. -/
theorem RecordKeeps.transmit {p q : Peer} (hq : q = { p with txMaps := q.txMaps, fallback := q.fallback })
    (fallback : p.fallback ≤ 2 → q.fallback ≤ 2) (txMaps : q.txMaps = p.txMaps ∨ q.txMaps = none) :
    RecordKeeps p q := by
  rw [hq]
  refine ⟨rfl, fun h => ⟨fallback h.1, h.2⟩, fun h => ?_, id, id, id⟩
  refine ⟨h.windows, h.rxSlots, h.rxMaps, ?_, ?_⟩
  all_goals
    intro x hx
    rcases txMaps with e | e
  · exact h.txWindows x (e ▸ hx)
  · simp [e] at hx
  · exact h.txSlots x (e ▸ hx)
  · simp [e] at hx

/-- R137: a pair joins the recent-completion list. -/
theorem appendRecent_length (x : Nat × Nat) {l : List (Nat × Nat)} (h : l.length ≤ recentCapacity) :
    (appendRecent x l).length ≤ recentCapacity := by
  unfold appendRecent
  split
  · simp; omega
  · have : 0 < recentCapacity := by decide
    simp; omega

theorem RecordKeeps.recently (p : Peer) (x : Nat × Nat) :
    RecordKeeps p { p with recent := appendRecent x p.recent } where
  address := rfl
  versions := id
  shape h := ⟨h.windows, h.rxSlots, h.rxMaps, h.txWindows, h.txSlots⟩
  announced := id
  recent := appendRecent_length x
  counters := id

/-- R67: a filing leaves the store its places. -/
theorem RecordKeeps.files (p : Peer) (w : Nat) (m : List Nat) (n : Nat) :
    RecordKeeps p { p with store := updAt p.store w (fileWindow m), filings := n } where
  address := rfl
  versions := id
  shape h := by
    refine ⟨⟨by simpa using h.windows.1, fun x hx => ?_⟩, h.rxSlots, h.rxMaps, h.txWindows, h.txSlots⟩
    rcases mem_updAt hx with hx | ⟨y, hy, rfl⟩
    · exact h.windows.2 x hx
    · simpa [fileWindow] using h.windows.2 y hy
  announced := id
  recent := id
  counters := id

/-- R96: a header that names the current version leaves every map its range, and the current ones. -/
theorem RecordKeeps.discards (p : Peer) (sel : MapSelector) : RecordKeeps p (discardPrevious sel p) := by
  cases sel with
  | robust => exact .of_fields rfl rfl rfl rfl rfl rfl rfl rfl
  | slot k v =>
    have current (r : RxSlot) : (if (holdsVersion r.current v).isSome then { r with previous := none } else r).current
        = r.current := by split <;> rfl
    have previous (r : RxSlot) : (if (holdsVersion r.current v).isSome then { r with previous := none }
        else r).previous = r.previous ∨ (if (holdsVersion r.current v).isSome then { r with previous := none }
        else r).previous = none := by split <;> simp
    refine ⟨rfl, fun h => ⟨h.1, fun r hr => ?_⟩, fun h => ?_, fun h => ?_, id, id⟩
    · rcases mem_updAt hr with hr | ⟨y, hy, rfl⟩
      · exact h.2 r hr
      · obtain ⟨a, b, c⟩ := h.2 y hy
        split
        · exact ⟨a, by simp, by simp⟩
        · exact ⟨a, b, c⟩
    · refine ⟨h.windows, by simpa [discardPrevious] using h.rxSlots, fun r hr m hm => ?_, h.txWindows, h.txSlots⟩
      rcases mem_updAt hr with hr | ⟨y, hy, rfl⟩
      · exact h.rxMaps r hr m hm
      · rw [current] at hm
        rcases previous y with e | e
        · exact h.rxMaps y hy m (e ▸ hm)
        · exact h.rxMaps y hy m (.inl (by simpa [e] using hm))
    · refine ⟨by simpa [discardPrevious] using h.1, fun j hj => ?_⟩
      obtain ⟨r, m, hr, hm⟩ := h.2 j hj
      simp only [discardPrevious, updAt]
      split
      next y hy =>
        by_cases e : k = j
        · subst e
          obtain rfl : y = r := by simpa [hr] using hy.symm
          obtain ⟨hk, -⟩ := List.getElem?_eq_some_iff.mp hr
          exact ⟨_, m, by simp [hk], (current y).trans hm⟩
        · exact ⟨r, m, by simp [e, hr], hm⟩
      · exact ⟨r, m, hr, hm⟩

/-! ### Sets of maps -/

/-- R77: what the candidates have and merging keeps, the slots opened for them have. -/
theorem groupWindows_forall {P : List Nat → Prop} (merge : ∀ a b, P a → P b → P (mergeMaps a b))
    {slots : List (List Nat)} {ws : List (Option (List Nat))} (hs : ∀ m ∈ slots, P m)
    (hw : ∀ w, some w ∈ ws → P w) : ∀ m ∈ (groupWindows slots ws).1, P m := by
  induction ws generalizing slots with
  | nil => exact hs
  | cons x ws ih =>
    have hrest (w : List Nat) (h : some w ∈ ws) : P w := hw w (List.mem_cons_of_mem _ h)
    cases x with
    | none => exact ih hs hrest
    | some w =>
      have hx : P w := hw w List.mem_cons_self
      refine ih ?_ hrest
      have updated (k : Nat) : ∀ m ∈ updAt slots k (fun m => mergeMaps m w), P m := fun m hm => by
        rcases mem_updAt hm with hm | ⟨y, hy, rfl⟩
        · exact hs m hm
        · exact merge _ _ (hs y hy) hx
      unfold placeWindow
      split
      · exact updated _
      · split
        · intro m hm
          rcases List.mem_append.mp hm with hm | hm
          · exact hs m hm
          · rwa [List.mem_singleton.mp hm]
        · split
          · exact updated _
          · exact hs

/-- A slot map's loadings: one for each group, none above 10 (R74). -/
def LoadsInRange (m : List Nat) : Prop := m.length = groupCount ∧ ∀ b ∈ m, b ≤ 10

theorem loading_le (margin e : Nat) : loading margin e ≤ 10 :=
  (List.length_filter_le _ _).trans (by decide)

theorem windowLoads_inRange (notch : List Bool) (margin : Nat) (w : WindowStore) :
    LoadsInRange (windowLoads notch margin w) := by
  refine ⟨by simp [windowLoads], fun b hb => ?_⟩
  obtain ⟨g, -, rfl⟩ := List.mem_map.mp hb
  split
  · exact Nat.zero_le _
  · exact loading_le _ _

theorem mergeMaps_inRange (a b : List Nat) (ha : LoadsInRange a) (hb : LoadsInRange b) :
    LoadsInRange (mergeMaps a b) := by
  refine ⟨by simp [mergeMaps, ha.1, hb.1], fun x hx => ?_⟩
  obtain ⟨i, hi, rfl⟩ := List.mem_iff_getElem.mp hx
  simp only [mergeMaps, List.length_zipWith] at hi
  simp only [mergeMaps, List.getElem_zipWith]
  exact (min_le_left _ _).trans (ha.2 _ (List.getElem_mem _))

/-- R73, R76: a candidate is the loadings of its window, when they beat the robust map. -/
theorem candidate_eq_some {notch : List Bool} {margin : Nat} {w : WindowStore} {m : List Nat} :
    candidate notch margin w = some m ↔
      m = windowLoads notch margin w ∧ 4 ≤ w.count ∧ beatsRobust (groupsOn notch) m = true := by
  unfold candidate
  dsimp only
  split
  next h =>
    constructor
    · intro e
      cases e
      exact ⟨rfl, h⟩
    · rintro ⟨rfl, -⟩
      rfl
  next h =>
    constructor
    · intro e; cases e
    · rintro ⟨rfl, e⟩
      exact absurd e h

/-- R79: a slot of a settled set holds a slot opened, one that beats the robust map. -/
theorem settleSet_slot {gOn : Nat} {slots : List (List Nat)} {ws : WindowList} {k : Nat} {m : List Nat} :
    (settleSet gOn slots ws).slots.getD k none = some m ↔
      k < slotCount ∧ slots[k]? = some m ∧ beatsRobust gOn m = true := by
  unfold settleSet
  by_cases hk : k < slotCount
  · simp only [List.getD_eq_getElem?_getD, List.getElem?_map, List.getElem?_range hk, Option.map_some,
      Option.getD_some, hk, true_and]
    cases slots[k]? with
    | none => simp
    | some x =>
      simp only [Option.some.injEq]
      split
      next b =>
        simp only [Option.some.injEq]
        exact ⟨fun e => ⟨e, e ▸ b⟩, fun e => e.1⟩
      next b =>
        simp only [reduceCtorEq, false_iff]
        rintro ⟨rfl, e⟩
        exact b e
  · simp [hk]

/-- R79: a settled window list names slots that hold a map. -/
theorem settleSet_window {gOn : Nat} {slots : List (List Nat)} {ws : WindowList} {k : Nat}
    (h : some k ∈ (settleSet gOn slots ws).windows) :
    ∃ m, (settleSet gOn slots ws).slots.getD k none = some m := by
  simp only [settleSet, List.mem_map] at h
  obtain ⟨w, -, hw⟩ := h
  split at hw
  next j =>
    split at hw
    next hj =>
      cases hw
      exact Option.isSome_iff_exists.mp hj
    · cases hw
  · cases hw

/-- R79: the maps of a new set are in range. -/
theorem reviewSet_inRange {notch : List Bool} {margin : Nat} {store : Store} {k : Nat} {m : List Nat}
    (h : (reviewSet notch margin store).slots.getD k none = some m) : LoadsInRange m := by
  obtain ⟨-, hm, -⟩ := settleSet_slot.mp h
  refine groupWindows_forall mergeMaps_inRange (by simp) (fun w hw => ?_) m (List.mem_of_getElem? hm)
  obtain ⟨x, -, hx⟩ := List.mem_map.mp hw
  rw [(candidate_eq_some.mp hx).1]
  exact windowLoads_inRange _ _ _

/-! ### Announcement and versions -/

theorem nextVersion_lt (r : RxSlot) : nextVersion r < 16 := by
  unfold nextVersion
  split
  · exact Nat.mod_lt _ (by decide)
  · exact Nat.mod_lt _ (by decide)
  · decide

/-- R82: what the maps of a slot are after an announcement. -/
theorem announceSlot_maps (r : RxSlot) (new : Option (List Nat)) :
    ((announceSlot r new).current = r.current ∨ (announceSlot r new).current = none ∨
      ∃ n, new = some n ∧ (announceSlot r new).current = some ⟨nextVersion r, n⟩) ∧
    ((announceSlot r new).previous = r.previous ∨ (announceSlot r new).previous = r.current) := by
  unfold announceSlot
  split
  next n c _ =>
    split <;> simp_all
  all_goals simp_all

theorem announceSlot_versions {r : RxSlot} (new : Option (List Nat)) (h : SlotVersions r) :
    SlotVersions (announceSlot r new) := by
  obtain ⟨hc, hp, hd⟩ := h
  unfold announceSlot
  split
  next n c heq =>
    split
    · exact ⟨hc, hp, hd⟩
    · have := hc c heq
      refine ⟨?_, ?_, ?_⟩ <;> simp [nextVersion, heq] <;> omega
  next n heq =>
    refine ⟨by simp [nextVersion_lt], hp, ?_⟩
    rintro m p ⟨⟩ hq
    have := hp p hq
    simp [nextVersion, heq, show r.previous = some p from hq]
    omega
  next c heq => exact ⟨by simp, by simpa using hc c heq, by simp⟩
  · exact ⟨hc, hp, hd⟩

/-- R82: a slot that takes a map of the new set has a current one. -/
theorem announceSlot_current {r : RxSlot} (n : List Nat) : ∃ m, (announceSlot r (some n)).current = some m := by
  cases h : r.current with
  | none => exact ⟨⟨nextVersion r, n⟩, by simp [announceSlot, h]⟩
  | some c =>
    by_cases e : c.loads = n
    · exact ⟨c, by simp [announceSlot, h, e]⟩
    · exact ⟨⟨nextVersion r, n⟩, by simp [announceSlot, h, e]⟩

theorem announceSet_rxMaps (n : NewSet) (p : Peer) (k : Nat) :
    (announceSet n p).rxMaps[k]? = p.rxMaps[k]?.map fun r => announceSlot r (n.slots.getD k none) := by
  simp only [announceSet, List.getElem?_map, List.getElem?_zipIdx, Option.map_map]
  congr
  funext r
  simp

theorem RecordKeeps.announces (p : Peer) (notch : List Bool) (margin : Nat) (store : Store) :
    RecordKeeps p (announceSet (reviewSet notch margin store) p) := by
  generalize hn : reviewSet notch margin store = n
  have range {k : Nat} {m : List Nat} (h : n.slots.getD k none = some m) : LoadsInRange m :=
    reviewSet_inRange (hn ▸ h)
  have named {k : Nat} (h : some k ∈ n.windows) : ∃ m, n.slots.getD k none = some m := by
    rw [← hn] at h ⊢
    exact settleSet_window h
  have slots {r : RxSlot} (h : r ∈ (announceSet n p).rxMaps) :
      ∃ q k, q ∈ p.rxMaps ∧ r = announceSlot q (n.slots.getD k none) := by
    obtain ⟨k, hk⟩ := List.mem_iff_getElem?.mp h
    rw [announceSet_rxMaps, Option.map_eq_some_iff] at hk
    obtain ⟨q, hq, rfl⟩ := hk
    exact ⟨q, k, List.mem_of_getElem? hq, rfl⟩
  refine ⟨rfl, fun h => ⟨h.1, fun r hr => ?_⟩, fun h => ?_, fun h => ?_, id, id⟩
  · obtain ⟨q, k, hq, rfl⟩ := slots hr
    exact announceSlot_versions _ (h.2 q hq)
  · refine ⟨h.windows, by simpa [announceSet] using h.rxSlots, fun r hr m hm => ?_, h.txWindows, h.txSlots⟩
    obtain ⟨q, k, hq, rfl⟩ := slots hr
    obtain ⟨hc, hp⟩ := announceSlot_maps q (n.slots.getD k none)
    rcases hm with hm | hm
    · rcases hc with e | e | ⟨x, hx, e⟩
      · exact h.rxMaps q hq m (.inl (e ▸ hm))
      · cases e.symm.trans hm
      · cases e.symm.trans hm
        obtain ⟨length, le⟩ := range hx
        exact ⟨Nat.lt_succ_iff.mp (nextVersion_lt q), length, le⟩
    · rcases hp with e | e
      · exact h.rxMaps q hq m (.inr (e ▸ hm))
      · exact h.rxMaps q hq m (.inl (e ▸ hm))
  · refine ⟨by simpa [announceSet] using h.1, fun k hk => ?_⟩
    obtain ⟨x, hx⟩ := named hk
    have bound : k < slotCount := by
      rw [← hn] at hx
      exact (settleSet_slot.mp hx).1
    obtain ⟨r, hr⟩ : ∃ r, p.rxMaps[k]? = some r := ⟨_, List.getElem?_eq_getElem (h.1 ▸ bound)⟩
    obtain ⟨m, hm⟩ := announceSlot_current (r := r) x
    exact ⟨_, m, by rw [announceSet_rxMaps, hr, Option.map_some, hx], hm⟩

/-! ### A transmit map set installed -/

/-- R93, R171: a notice that is not rejected has its maps in range. -/
theorem readNotice_inRange {notch : List Bool} {bs : List Byte}
    (h : noticeRejected notch (readNotice bs).2 = false) :
    ∀ m, some m ∈ (readNotice bs).2 → MapInRange m := by
  intro m hm
  simp only [noticeRejected, List.any_eq_false] at h
  have hx := h _ hm
  simp only [Bool.or_eq_true, decide_eq_true_eq, not_or, List.any_eq_true, not_exists, not_and] at hx
  obtain ⟨⟨version, loads⟩, -⟩ := hx
  refine ⟨by omega, ?_, fun b hb => by have := loads b hb; omega⟩
  obtain ⟨k, -, hk⟩ := List.mem_map.mp hm
  unfold readSlotRecord at hk
  split at hk
  · cases hk
    simp
  · cases hk

/-- R94: a settled window list names slots that the notice named. -/
theorem settleWindows_named {gOn : Nat} {slots : List (Option VersionedMap)} {ws : WindowList} {k : Nat}
    (h : some k ∈ settleWindows gOn slots ws) : some k ∈ ws := by
  obtain ⟨w, hw, e⟩ := List.mem_map.mp h
  split at e
  · cases e
  · split at e
    · cases e
    · split at e
      · cases e
      · cases e
        exact hw

theorem readNotice_named {bs : List Byte} {k : Nat} (h : some k ∈ (readNotice bs).1) : k ≤ 3 := by
  obtain ⟨w, -, e⟩ := List.mem_map.mp h
  dsimp only at e
  split at e
  next hk =>
    cases e
    exact Nat.lt_succ_iff.mp hk
  · cases e

theorem RecordKeeps.installs (p : Peer) {notch : List Bool} {bs : List Byte} (gOn : Nat) (now : Time)
    (h : noticeRejected notch (readNotice bs).2 = false) :
    RecordKeeps p { p with txMaps := some (installedSet gOn now (readNotice bs)), fallback := 0 } where
  address := rfl
  versions h := ⟨by simp, h.2⟩
  shape hp := by
    refine ⟨hp.windows, hp.rxSlots, hp.rxMaps, ?_, ?_⟩
    · rintro x ⟨⟩
      exact ⟨by simp [installedSet, settleWindows, readNotice],
        fun k hk => readNotice_named (settleWindows_named hk)⟩
    · rintro x ⟨⟩
      exact ⟨by simp [installedSet, readNotice], readNotice_inRange h⟩
  announced := id
  recent := id
  counters := id

/-! ### The scheduler -/

theorem TscKeeps.refl (t : Tsc) : TscKeeps t t := ⟨rfl, rfl, rfl, id⟩

theorem TscKeeps.trans {t u v : Tsc} (a : TscKeeps t u) (b : TscKeeps u v) : TscKeeps t v :=
  ⟨b.queues.trans a.queues, b.lifetimes.trans a.lifetimes, b.bcastTags.trans a.bcastTags, b.floor ∘ a.floor⟩

theorem popIfComplete_tables (t : Tsc) : TscKeeps t (popIfComplete t) := by
  unfold popIfComplete
  split
  · split <;> exact ⟨rfl, rfl, rfl, id⟩
  · exact .refl t

theorem dropFrames_tables (p : Frame → Bool) (t : Tsc) : TscKeeps t (dropFrames p t) := by
  unfold dropFrames
  refine .trans ?_ (popIfComplete_tables _)
  exact ⟨by simp [purgeStack], rfl, rfl, id⟩

end Sys2Proof.Machine
end

section
/-! The changes that the operations of the line, the scheduler and the peer table are made of. -/

namespace Sys2Proof.Machine

/-! ### Notched groups (R20) -/

theorem plainSymbol_notched (x : GroupSignal) {notch : List Bool} {g : Nat} (h : notch.getD g false = true) :
    (plainSymbol x notch).getD g .silent = .silent := by
  rw [List.getD_eq_getElem?_getD] at h ⊢
  cases hn : notch[g]? with
  | none => simp [plainSymbol, hn]
  | some n =>
    obtain rfl : n = true := by simpa [hn] using h
    simp [plainSymbol, hn]

theorem placeRobust_notched {notch : List Bool} (coded : List Bool) {g : Nat} (h : notch.getD g false = true) :
    (placeRobust notch coded).getD g .silent = .silent := by
  induction notch generalizing coded g with
  | nil => simp at h
  | cons n notch ih =>
    cases g with
    | zero =>
      obtain rfl : n = true := by simpa using h
      rfl
    | succ g => cases n <;> simpa [placeRobust] using ih _ (by simpa using h)

theorem placeLoads_notched {notch : List Bool} (loads : List Nat) (coded : List Bool) {g : Nat}
    (h : notch.getD g false = true) :
    (placeLoads (maskLoads notch loads) coded).getD g .silent = .silent := by
  induction notch generalizing loads coded g with
  | nil => simp at h
  | cons n notch ih =>
    cases loads with
    | nil => simp [maskLoads, placeLoads]
    | cons b loads =>
      cases g with
      | zero =>
        obtain rfl : n = true := by simpa using h
        simp [maskLoads, placeLoads]
      | succ g =>
        have hg := ih loads (g := g) (h := by simpa using h)
        simp only [maskLoads, List.zipWith_cons_cons] at hg ⊢
        cases (if n then 0 else b) <;> simpa [placeLoads] using hg _

theorem mapSymbol_notched {notch : List Bool} (map : PayloadMap) (data : List Bool) {g : Nat}
    (h : notch.getD g false = true) : (mapSymbol notch map data).getD g .silent = .silent := by
  cases map with
  | robust => exact placeRobust_notched _ h
  | window loads => exact placeLoads_notched _ _ h

theorem mapSymbols_notched {notch : List Bool} (map : PayloadMap) (k : Nat) (data : List Bool) :
    ∀ x ∈ mapSymbols notch map k data, ∀ g, notch.getD g false = true → x.getD g .silent = .silent := by
  intro x hx g hg
  obtain ⟨i, -, rfl⟩ := List.mem_map.mp hx
  exact mapSymbol_notched map _ hg

theorem claim_notched (notch : List Bool) : Notched notch (.claimSignal (claimSymbol notch)) := by
  intro x hx g hg
  rw [List.mem_singleton.mp hx]
  exact plainSymbol_notched _ hg

theorem burst_notched (notch : List Bool) (map : PayloadMap) (k : Nat) (header payload : List Bool) :
    Notched notch (.burst (List.replicate 2 (preambleSymbol notch)) (mapSymbols notch .robust 2 header)
      (mapSymbols notch map k payload)) := by
  intro x hx
  simp only [LineOut.symbols, List.mem_append] at hx
  rcases hx with (hx | hx) | hx
  · rw [List.eq_of_mem_replicate hx]
    exact fun g => plainSymbol_notched _
  · exact mapSymbols_notched _ _ _ x hx
  · exact mapSymbols_notched _ _ _ x hx

theorem receipt_notched (notch data : List Bool) :
    Notched notch (.receipt (preambleSymbol notch) (robustSymbol notch data)) := by
  intro x hx g hg
  simp only [LineOut.symbols, List.mem_cons, List.not_mem_nil, or_false] at hx
  rcases hx with rfl | rfl
  · exact plainSymbol_notched _ hg
  · exact placeRobust_notched _ hg

/-! ### Flags, counters and records -/

variable {σ s : State}

theorem raise_change (e : Event) : Change σ s (raise e s) :=
  .judged s (fun m => { m with flags := m.flags ||| e.bit }) rfl rfl

theorem countPeer_change (i : Nat) {f : PeerCounters → PeerCounters}
    (range : ∀ c, (∀ n ∈ peerCounterList c, n ≤ counterMax) → ∀ n ∈ peerCounterList (f c), n ≤ counterMax) :
    Change σ s (countPeer i f s) :=
  .record s i _ fun p _ => .count p (range p.counters)

/-- The station counters increase, saturating. -/
theorem count_change {f : Counters → Counters} (levels : ∀ c, (f c).levels.length = c.levels.length)
    (range : ∀ c, (∀ n ∈ counterList c, n ≤ counterMax) → ∀ n ∈ counterList (f c), n ≤ counterMax) :
    Change σ s (count f s) :=
  .counts s f ⟨levels _, range _⟩

/-- A level's counter increases (R126). -/
theorem countLevel_change (l : Nat) {f : LevelCounters → LevelCounters}
    (range : ∀ x, (∀ n ∈ [x.sent, x.admissionDrops, x.expiries, x.retryDrops], n ≤ counterMax) →
      ∀ n ∈ [(f x).sent, (f x).admissionDrops, (f x).expiries, (f x).retryDrops], n ≤ counterMax) :
    Change σ s (countLevel l f s) :=
  .counts s (fun c => { c with levels := updAt c.levels l f }) (countersKeep_levels _ l range)

/-! ### The Line-Cycle Unit -/

theorem spurious_change : Change σ s (spurious s) :=
  count_change (f := fun c => { c with spuriousCrossings := satInc c.spuriousCrossings }) (fun _ => rfl)
    (by simp_all [counters_range_iff, satInc_le])

theorem crossing_changes (t : Time) : Changes σ s (crossing t s) := by
  unfold crossing
  split
  · exact (Change.lcu s _).changes
  · split
    · unfold crossingAcquiring
      dsimp only
      split
      · exact (Change.lcu s _).changes.then (raise_change _)
      · exact (Change.lcu s _).changes
    · exact .refl
  · split
    · unfold crossingLocked
      dsimp only
      split
      · exact (Change.lcu s _).changes
      · exact spurious_change.changes
    · exact .refl
  · split
    · unfold crossingHoldover
      dsimp only
      split
      · exact (Change.lcu s _).changes
      · exact spurious_change.changes
    · exact .refl

theorem takeSample_changes (level : ZcLevel) : Changes σ s (takeSample level s) := by
  unfold takeSample
  dsimp only
  split
  · split
    · exact (Change.lcu s _).changes.trans (crossing_changes _)
    · exact (Change.lcu s _).changes
  · exact (Change.lcu s _).changes

theorem acquiringTimeout_changes : Changes σ s (acquiringTimeout s) := by
  unfold acquiringTimeout
  split
  · split
    · exact (Change.lcu s _).changes
    · exact .refl
  · exact .refl

theorem holdoverInstant_changes : Changes σ s (holdoverInstant s) := by
  unfold holdoverInstant
  split
  · split
    · exact (Change.lcu s _).changes.then (raise_change _)
    · exact .refl
  · exact .refl

theorem lossInstant_changes : Changes σ s (lossInstant s) := by
  unfold lossInstant
  split
  · split
    · exact (Change.lcu s _).changes.then (raise_change _)
    · exact .refl
  · exact .refl

/-! ### Claims -/

theorem enterListen_change : Change σ s (enterListen s) := .modem s _ rfl (.inl rfl)

theorem resumeListen_changes : Changes σ s (resumeListen s) :=
  (Change.modem s _ rfl (.inl rfl)).changes.then enterListen_change

theorem silence_change : Change σ s (silence s) := .modem s _ rfl (.inr rfl)

theorem dropBurstInHand_changes : Changes σ s (dropBurstInHand s) := by
  unfold dropBurstInHand
  split
  · exact .refl
  · exact ((Change.modem s _ rfl (.inl rfl)).changes.then (.service _ _ rfl)).then enterListen_change

theorem sendClaimSignal_changes (t : Time)
    (online : (ModeShape σ → σ.suc.station = .online) ∨ s.suc.station = .online) :
    Changes σ s (sendClaimSignal t s) :=
  dropBurstInHand_changes.then (.sends _ _ rfl (by simpa using online) (claim_notched _))

theorem startMark_changes (t : Time) (l : Nat) (online : s.suc.station = .online) :
    Changes σ s (startMark t l s) :=
  (Change.medium s _ (.inr rfl)).changes.trans (sendClaimSignal_changes t (.inr online))

theorem advanceTags_change (d : Dest) (l n : Nat) : Change σ s (advanceTags d l n s) := by
  cases d with
  | broadcast =>
    exact .scheduler s (fun t => { t with bcastTags := updAt t.bcastTags l fun k => (k + n) % 256 })
      ⟨rfl, rfl, updAt_length _ _ _, id⟩
  | peer i => exact .record s i _ fun p _ => .of_fields rfl rfl rfl rfl rfl rfl rfl rfl

theorem formTrain_changes (l : Nat) : Changes σ s (formTrain l s) := by
  unfold formTrain
  split
  · exact .refl
  · exact (Change.scheduler s _ ⟨by simp, rfl, rfl, id⟩).changes.then (advanceTags_change _ _ _)

theorem claimDecision_changes : Changes σ s (claimDecision s).1 := by
  unfold claimDecision
  dsimp only
  split
  · exact (formTrain_changes _).then (.scheduler _ _ ⟨rfl, rfl, rfl, id⟩)
  · exact (Change.scheduler s _ ⟨rfl, rfl, rfl, id⟩).changes

theorem openClaim_changes (t : Time) (online : s.suc.station = .online) : Changes σ s (openClaim t s) := by
  rcases openClaim_cases t s with ⟨-, e⟩ | ⟨l, -, e⟩
  · rw [e]
    exact claimDecision_changes
  · rw [e]
    exact claimDecision_changes.trans (startMark_changes t l (by simpa using online))

theorem recompute_changes : Changes σ s (recompute s) := by
  rcases recompute_cases s with ⟨-, e⟩ | ⟨-, e | ⟨-, -, online, e⟩⟩
  · rw [e]
  · rw [e]
    exact (Change.scheduler s _ ⟨rfl, rfl, rfl, id⟩).changes
  · rw [e]
    exact (Change.scheduler s _ ⟨rfl, rfl, rfl, id⟩).changes.trans
      (openClaim_changes _ (of_decide_eq_true online))

theorem heardAt_rng (t : Time) (c : Clc) : (heardAt t c).rng = c.rng := by
  rcases heardAt_cases t c with h | ⟨-, -, h⟩ <;> rw [h]

theorem markHeard_rng (n : Nat) (t : Time) (c : Clc) : (markHeard n t c).rng = c.rng := by
  unfold markHeard
  split <;> rfl

theorem lapse_changes : Changes σ s (lapse s) := by
  unfold lapse
  split
  · split
    · exact .refl
    · exact (Change.medium s _ (.inl (by rw [markHeard_rng, heardAt_rng]))).changes
  · exact .refl

theorem energyToClc_rng (t : Time) (onset : Bool) (c : Clc) : (energyToClc t onset c).rng = c.rng := by
  unfold energyToClc
  dsimp only
  split
  · split <;> rfl
  · split
    · exact markHeard_rng _ _ _
    · split <;> rfl
  · exact heardAt_rng _ _
  all_goals rfl

theorem energyReport_changes (a b : Bool) : Changes σ s (energyReport a b s) := by
  unfold energyReport
  split
  · exact .refl
  · dsimp only
    refine (lapse_changes (s := s)).trans ?_
    split
    · exact .refl
    · split
      · exact (Change.modem (lapse s) (fun m => { m with
            energy := some (m.energy.getD (lapse s).now), lastEnergy := some (lapse s).now })
          rfl (.inl rfl)).changes.then (.medium _ _ (.inl (energyToClc_rng _ _ _)))
      · split
        · exact (Change.modem (lapse s) (fun m => { m with
            energy := none, lastEnergy := some (lapse s).now, quietFrom := (lapse s).now })
            rfl (.inl rfl)).changes
        · exact .refl

theorem quietReport_changes : Changes σ s (quietReport s) := by
  unfold quietReport
  split
  · dsimp only
    refine ((Change.modem s (fun m => { m with listenFrom := none }) rfl (.inl rfl)).changes.then
      (.medium _ (fun c => { c with quietFlag := true }) (.inl rfl))).trans ?_
    split
    · exact (Change.medium _ (freeAt s.now) (.inl rfl)).changes
    · split
      next online => exact openClaim_changes _ (of_decide_eq_true online)
      · exact .refl
    · exact .refl
  · exact .refl

theorem gapTailCheck_changes : Changes σ s (gapTailCheck s) := by
  unfold gapTailCheck
  split
  · split
    · exact (Change.medium s _ (.inl rfl)).changes
    · exact .refl
  · exact .refl

theorem openingInstant_changes : Changes σ s (openingInstant s) := by
  unfold openingInstant
  split
  · split
    next c =>
      refine (claimDecision_changes (s := s)).trans ?_
      split
      next s' l e =>
        rw [e]
        have hs : s'.suc = s.suc := by
          rw [← show (claimDecision s).1 = s' by rw [e]]
          simp
        exact startMark_changes _ _ (by rw [hs]; exact of_decide_eq_true c.2.2)
      next s' e =>
        rw [e]
        exact (Change.medium s' _ (.inl rfl)).changes
    · exact .refl
  · exact .refl

theorem markSlotListenEnd_changes : Changes σ s (markSlotListenEnd s) := by
  unfold markSlotListenEnd
  split
  · dsimp only
    refine (lapse_changes (s := s)).trans ?_
    split
    · refine (Change.medium _ (fun c => { c with medium := .idle, markListen := false })
        (.inl rfl)).changes.trans ?_
      split
      next c => exact openClaim_changes _ (of_decide_eq_true c.2.2)
      · exact .refl
    · exact .refl
  · exact .refl

theorem claimBitSlot_changes : Changes s s (claimBitSlot s) := by
  have hl := lapse_changes (σ := s) (s := s)
  unfold claimBitSlot
  dsimp only
  split
  next hm _ _ _ =>
    split
    · split
      · refine hl.trans (sendClaimSignal_changes _ (.inl fun h => ?_))
        simpa using (lapse_modeShape h).online_of_medium (by simp [hm])
      · exact hl.then silence_change
    · exact hl
  · exact hl.then silence_change
  · exact hl

theorem losePeriod_changes : Changes σ s (losePeriod s) :=
  ((count_change (f := fun c => { c with claimsLost := satInc c.claimsLost }) (fun _ => rfl)
    (by simp_all [counters_range_iff, satInc_le])).changes.then (.medium _ lostPeriod (.inl rfl))).then silence_change

theorem settleLoss_changes : Changes σ s (settleLoss s) := by
  unfold settleLoss
  split
  · exact losePeriod_changes
  · exact .refl

theorem hiddenWinnerDeadline_changes : Changes σ s (hiddenWinnerDeadline s) := by
  unfold hiddenWinnerDeadline
  split
  · dsimp only
    split
    · refine settleLoss_changes.then (.medium _ _ (.inl ?_))
      split <;> rfl
    · exact .refl
  · exact .refl

theorem occupancyEnd_changes : Changes σ s (occupancyEnd s) := by
  unfold occupancyEnd
  split
  · split
    · exact (Change.medium s _ (.inl rfl)).changes
    · exact .refl
  · exact .refl

theorem declaredToClc_changes (t : Time) : Changes σ s (declaredToClc t s) := by
  unfold declaredToClc
  split
  iterate 3 exact (Change.medium s _ (.inl rfl)).changes
  · exact (Change.medium s _ (.inl rfl)).changes
  · split
    · exact losePeriod_changes.then (.medium _ _ (.inl rfl))
    · split
      · exact .refl
      · exact settleLoss_changes.then (.medium _ _ (.inl rfl))
  · exact .refl
  · exact .refl

theorem undecodedToClc_changes : Changes σ s (undecodedToClc s) := by
  unfold undecodedToClc
  split
  · split
    · exact settleLoss_changes.then (.medium _ _ (.inl rfl))
    · split
      · exact losePeriod_changes.then (.medium _ _ (.inl rfl))
      · exact .refl
  · exact .refl

/-! ### Admission, bursts and expiry -/

theorem joinQueue_tables (f : Frame) (t : Tsc) : TscKeeps t (joinQueue f t) :=
  ⟨by simp [joinQueue], rfl, rfl, id⟩

theorem admitData_changes (l : Nat) (d : Dest) (b : List Byte) (n : Nat) (x : Bool) :
    Changes σ s (admitData l d b n x s) := by
  unfold admitData
  dsimp only
  split
  · exact ((Change.pools s _ (by rfl)).changes.then (.scheduler _ _ (joinQueue_tables _ _))).trans
      recompute_changes
  · exact ((Change.pools s _ (by rfl)).changes.then
      (countLevel_change _ (by simp_all [satInc_le]))).then (raise_change _)

theorem admitNotice_changes (i : Nat) (b : List Byte) : Changes σ s (admitNotice i b s) := by
  unfold admitNotice
  dsimp only
  split
  · exact (Change.scheduler s _ ⟨by simp, rfl, rfl, id⟩).changes
  · split
    · exact ((Change.pools s _ (by rfl)).changes.then (.scheduler _ _ (joinQueue_tables _ _))).trans
        recompute_changes
    · exact .refl

theorem countBurst_changes (a : Train) (b : BurstOnLine) : Changes σ s (countBurst a b s) := by
  unfold countBurst
  split
  · exact .refl
  · exact (countPeer_change (f := fun c => { c with
      burstsSent := satInc c.burstsSent
      blocksSent := satAdd b.refs.length c.blocksSent
      blocksRetried := satAdd ((a.frames.map (retriedIn b.refs)).sum) c.blocksRetried }) _
      (by simp_all [peerCounterList, satInc_le, satAdd_le])).changes

theorem cutBurst_changes : Changes σ s (cutBurst s) := by
  rcases cutBurst_cases s with e | ⟨a, b, -, -, e⟩
  · rw [e]
  · rw [e]
    exact (Change.scheduler s (fun t => { t with
      active := some { a with frames := a.frames.map fun f => goOnLine f b.refs }, onLine := some b })
      ⟨rfl, rfl, rfl, id⟩).changes.trans (countBurst_changes a b)

theorem returnToPool_rxFree (f : Frame) (b : Bpm) : (returnToPool f b).rxFree = b.rxFree := by
  unfold returnToPool
  split <;> rfl

theorem freeFrame_change (f : Frame) : Change σ s (freeFrame s f) := .pools s _ (returnToPool_rxFree f _)

theorem foldl_changes {α : Type} {g : State → α → State} (step : ∀ s x, Changes σ s (g s x)) (l : List α) :
    Changes σ s (l.foldl g s) := by
  induction l generalizing s with
  | nil => exact .refl
  | cons x l ih => exact (step s x).trans ih

theorem dropExpired_changes (f : Frame) : Changes σ s (dropExpired s f) :=
  ((freeFrame_change f).changes.then (countLevel_change _ (by simp_all [satInc_le]))).then
    (raise_change _)

theorem resolveFrame_changes (b : BurstOnLine) (s : State) (f : Frame) :
    Changes σ s (resolveFrame b s f) := by
  unfold resolveFrame
  split
  · exact (freeFrame_change f).changes.then (countLevel_change _ (by simp_all [satInc_le]))
  · exact dropExpired_changes f
  · exact ((freeFrame_change f).changes.then (countLevel_change _ (by simp_all [satInc_le]))).then
      (raise_change _)
  · exact .refl

theorem applyResult_changes (b : BurstOnLine) (acc : List Bool) : Changes σ s (applyResult b acc s) := by
  unfold applyResult
  split
  · exact (Change.scheduler s _ ⟨rfl, rfl, rfl, id⟩).changes.trans recompute_changes
  · refine Relation.ReflTransGen.trans ?_ recompute_changes
    refine (foldl_changes (resolveFrame_changes b) _).then (.scheduler _ _ ?_)
    refine .trans ?_ (popIfComplete_tables _)
    exact ⟨rfl, rfl, rfl, id⟩

/-- The transmit map set is discarded or the fallback count changed within its range. -/
theorem transmit_change (i : Nat) {f : Peer → Peer}
    (eq : ∀ p, f p = { p with txMaps := (f p).txMaps, fallback := (f p).fallback })
    (fallback : ∀ p, (f p).fallback ≤ 2) (txMaps : ∀ p, (f p).txMaps = p.txMaps ∨ (f p).txMaps = none) :
    Change σ s (s.mapPeer i f) :=
  .record s i f fun p _ => .transmit (eq p) (fun _ => fallback p) (txMaps p)

theorem applyReceipt_changes (i : Nat) (b : BurstOnLine) (r : Option Receipt) :
    Changes σ s (applyReceipt i b r s) := by
  unfold applyReceipt
  split
  · exact ((countPeer_change i (f := fun c => { c with noReceipts := satInc c.noReceipts })
      (by simp_all [peerCounterList, satInc_le])).changes.then
      (transmit_change i (f := fun p => { p with fallback := min 2 (p.fallback + 1) }) (fun _ => rfl)
        (fun _ => min_le_left _ _) fun _ => .inl rfl)).trans (applyResult_changes b _)
  · split
    · exact (transmit_change i (f := fun p => { p with fallback := 0 }) (fun _ => rfl)
        (fun _ => Nat.zero_le _) fun _ => .inl rfl).changes.trans (applyResult_changes b _)
    · exact (((countPeer_change i (f := fun c => { c with mapUnknown := satInc c.mapUnknown })
        (by simp_all [peerCounterList, satInc_le])).changes.then
        (transmit_change i (f := fun p => { p with txMaps := none, fallback := 0 }) (fun _ => rfl)
          (fun _ => Nat.zero_le _) fun _ => .inr rfl)).then
        (raise_change _)).trans (applyResult_changes b _)

theorem frameExpiry_changes (k : FrameKind) (d : Nat) : Changes σ s (frameExpiry k d s) := by
  unfold frameExpiry
  split
  · exact .refl
  · split
    · split
      · exact (Change.scheduler s _ ⟨rfl, rfl, rfl, id⟩).changes
      · exact ((dropExpired_changes _).then (.scheduler _ _ (dropFrames_tables _ _))).trans recompute_changes
    · exact .refl

/-! ### The peer table -/

theorem releaseFrames_changes (i : Nat) : Changes σ s (releaseFrames i s) := by
  unfold releaseFrames
  dsimp only
  generalize (framesHeld s.tsc).filter _ = gone
  exact ((foldl_changes (fun _ f => (freeFrame_change f).changes) gone).then
    (.scheduler _ _ (dropFrames_tables _ _))).then (count_change
      (f := fun c => { c with framesReleased := satAdd gone.length c.framesReleased }) (fun _ => rfl)
      (by simp_all [counters_range_iff, satAdd_le]))

/-- R60: a release up to the report of the prospective claim level. -/
def releasing (i : Nat) (s : State) : State :=
  raise .peerReleased ((((abandonEntries (fun e => decide (e.sender = i)) (releaseFrames i s)).mapPtu
    fun p => { p with fwd := vacate (fun e => decide (e.peer = i)) p.fwd }).mapPeers
      fun l => tableSet l i none).mapLae fun l => { l with reviews := tableSet l.reviews i none })

theorem releasePeer_eq (i : Nat) (s : State) : releasePeer i s = recompute (releasing i s) := rfl

theorem releasing_changes (i : Nat) : Changes σ s (releasing i s) :=
  ((((releaseFrames_changes i).then (.abandons _ _)).then (.released _ i)).then
    (.reviews _ _ (tableSet_length _ _ _))).then (raise_change _)

theorem releasePeer_changes (i : Nat) : Changes σ s (releasePeer i s) := by
  rw [releasePeer_eq]
  exact (releasing_changes i).trans recompute_changes

/-- Each record of the later state is one of the earlier state, at the same address. -/
def SameAddresses (s s' : State) : Prop :=
  ∀ i p, s'.peer i = some p → ∃ q, s.peer i = some q ∧ q.address = p.address

theorem SameAddresses.of_peers {s s' : State} (h : s'.peers = s.peers) : SameAddresses s s' :=
  fun i p hp => ⟨p, by rwa [State.peer, ← h], rfl⟩

theorem SameAddresses.trans {s s' s'' : State} (a : SameAddresses s s') (b : SameAddresses s' s'') :
    SameAddresses s s'' := fun i p hp => by
  obtain ⟨q, hq, e⟩ := b i p hp
  obtain ⟨r, hr, e'⟩ := a i q hq
  exact ⟨r, hr, e'.trans e⟩

theorem advanceTags_addresses (d : Dest) (l n : Nat) (s : State) : SameAddresses s (advanceTags d l n s) := by
  cases d with
  | broadcast => exact .of_peers rfl
  | peer j =>
    intro i p hp
    by_cases e : j = i
    · subst e
      rw [advanceTags, State.mapPeer_peer_same, Option.map_eq_some_iff] at hp
      obtain ⟨q, hq, rfl⟩ := hp
      exact ⟨q, hq, rfl⟩
    · rw [advanceTags, State.mapPeer_peer_other _ _ e] at hp
      exact ⟨p, hp, rfl⟩

theorem claimDecision_addresses (s : State) : SameAddresses s (claimDecision s).1 := by
  unfold claimDecision
  split
  · unfold formTrain
    split
    · exact .of_peers rfl
    · exact .trans (s' := State.mapTsc _ s) (.of_peers rfl) (advanceTags_addresses _ _ _ _)
  · exact .of_peers rfl

theorem recompute_addresses (s : State) : SameAddresses s (recompute s) := by
  rcases recompute_cases s with ⟨-, e⟩ | ⟨-, e | ⟨-, -, -, e⟩⟩
  · exact .of_peers (by rw [e])
  · exact .of_peers (by rw [e]; rfl)
  · rw [e]
    generalize hr : s.mapTsc _ = r
    have hd : SameAddresses s (claimDecision r).1 :=
      .trans (.of_peers (by rw [← hr]; rfl)) (claimDecision_addresses r)
    rcases openClaim_cases s.now r with ⟨-, e⟩ | ⟨l, -, e⟩
    · rwa [e]
    · rw [e]
      exact hd.trans (.of_peers (by simp))

/-- R60: what a release leaves of the records, at their addresses: all but the one released. -/
theorem releasePeer_addresses (i : Nat) (s : State) (j : Nat) (p : Peer)
    (h : (releasePeer i s).peer j = some p) : j ≠ i ∧ ∃ q, s.peer j = some q ∧ q.address = p.address := by
  rw [releasePeer_eq] at h
  obtain ⟨q, hq, e⟩ := recompute_addresses _ j p h
  have hq : tableGet (tableSet s.peers i none) j = some q := by
    simpa [releasing, State.peer] using hq
  by_cases hj : i = j
  · subst hj
    have := tableGet_range hq
    rw [tableGet_tableSet_same _ this.1 (by simpa using this.2)] at hq
    cases hq
  · rw [tableGet_tableSet_other _ _ hj] at hq
    exact ⟨Ne.symm hj, q, hq, e⟩

theorem claimRecord_changes (i : Nat) (a : Addr) (here : Bool) (vacant : s.peer i = none)
    (new : ∀ j p, s.peer j = some p → p.address ≠ a) : Changes σ s (claimRecord i a here s) :=
  (Change.claimed s i a s.now here vacant new).changes.then (raise_change _)

theorem refreshPeer_change (i : Nat) (here : Bool) : Change σ s (refreshPeer i here s) :=
  .record s i _ fun _ _ => .of_fields rfl rfl rfl rfl rfl rfl rfl rfl

/-- Times, tags, flags and the filing count of a record change. -/
theorem fields_change (i : Nat) {f : Peer → Peer} (same : ∀ p, f p = { p with
      lastHeard := (f p).lastHeard, lastUnicast := (f p).lastUnicast, nextTag := (f p).nextTag
      filings := (f p).filings, lastNotice := (f p).lastNotice, noticePending := (f p).noticePending
      robustResend := (f p).robustResend, deferred := (f p).deferred }) : Change σ s (s.mapPeer i f) :=
  .record s i f fun p _ => by rw [same p]; exact .of_fields rfl rfl rfl rfl rfl rfl rfl rfl

theorem learnSender_changes (a : Addr) (here : Bool) : Changes σ s (learnSender a here s).1 := by
  unfold learnSender
  split
  · exact (refreshPeer_change _ here).changes
  next none =>
    have new (j : Nat) (p : Peer) (hp : s.peer j = some p) : p.address ≠ a := by
      simpa using not_of_tableFind_none none hp
    split
    next i hi => exact claimRecord_changes i a here (lowestVacant_eq_some hi).1 new
    · split
      next i hi =>
        refine (releasePeer_changes i).trans (claimRecord_changes i a here ?_ ?_)
        · by_contra h
          obtain ⟨p, hp⟩ := Option.ne_none_iff_exists'.mp h
          exact (releasePeer_addresses i s i p hp).1 rfl
        · intro j p hp
          obtain ⟨-, q, hq, e⟩ := releasePeer_addresses i s j p hp
          exact e ▸ new j q hq
      · exact (count_change (f := fun c => { c with unlearnedBursts := satInc c.unlearnedBursts })
          (fun _ => rfl) (by simp_all [counters_range_iff, satInc_le])).changes.then (raise_change _)

theorem silenceInstant_changes (i : Nat) : Changes σ s (silenceInstant i s) := by
  unfold silenceInstant
  split
  · exact .refl
  · split
    · split
      · exact (fields_change i (f := fun p => { p with deferred := true }) fun _ => rfl).changes
      · exact releasePeer_changes i
    · exact .refl

theorem takeDeferred_changes (i : Nat) : Changes σ s (takeDeferred i s) := by
  unfold takeDeferred
  split
  · split
    · exact releasePeer_changes i
    · exact .refl
  · exact .refl

/-! ### Adaptation -/

theorem fileMeasurement_changes (i : Nat) (m : List Nat) (st : Option Nat) :
    Changes σ s (fileMeasurement i m st s) := by
  unfold fileMeasurement
  split
  next st r hr =>
    have files (n : Nat) : Change σ s (s.mapPeer i fun q => { q with
        store := updAt r.store (filingWindow st) (fileWindow m), filings := n }) :=
      .record s i _ fun q hq => by
        obtain rfl : r = q := by simpa [hr] using hq
        exact .files r _ m n
    dsimp only
    split
    · exact (files 0).changes.then (.reviews _ _ (tableSet_length _ _ _))
    · exact (files _).changes
  · exact .refl

theorem queueCurrentSet_changes (i : Nat) : Changes σ s (queueCurrentSet i s) := by
  unfold queueCurrentSet
  split
  · exact .refl
  · exact (fields_change i (f := fun p => { p with lastNotice := some s.now, noticePending := false })
      fun _ => rfl).changes.trans (admitNotice_changes i _)

theorem noticeDecision_changes (i : Nat) : Changes σ s (noticeDecision i s) := by
  unfold noticeDecision
  split
  · exact .refl
  · split
    · exact queueCurrentSet_changes i
    · exact (fields_change i (f := fun p => { p with noticePending := true }) fun _ => rfl).changes

theorem completeReview_changes (i : Nat) : Changes σ s (completeReview i s) := by
  unfold completeReview
  split
  · dsimp only
    have cleared : Change σ s (s.mapLae fun l => { l with reviews := tableSet l.reviews i none }) :=
      .reviews s _ (tableSet_length _ _ _)
    split
    · exact (cleared.changes.then (.record _ i _ fun q _ => .announces q _ _ _)).trans
        (noticeDecision_changes i)
    · exact cleared.changes
  · exact .refl

theorem recoverNotices_changes (i : Nat) (h : Header) (t : MapTest) :
    Changes σ s (recoverNotices i h t s) := by
  unfold recoverNotices
  split
  · exact .refl
  · dsimp only
    have resent : Change σ s (s.mapPeer i fun p => { p with robustResend := some s.now }) :=
      fields_change i fun _ => rfl
    split
    · split
      · exact resent.changes.trans (queueCurrentSet_changes i)
      · exact resent.changes
    · split
      · exact queueCurrentSet_changes i
      · exact .refl

end Sys2Proof.Machine
end

section
/-! The changes that the commands of the assembler, the modem, the port and the management are made of, and with
them those of every effect but a reset. -/

namespace Sys2Proof.Machine

variable {σ s : State}

/-! ### Egress and the forwarding table -/

theorem egressGapEnd_changes : Changes σ s (egressGapEnd s) := by
  unfold egressGapEnd
  split
  next h => exact (Change.egressTo s .idle (by simp [h, egressBlocks]) rfl).changes.then (.choice _)
  · exact .refl

/-- The pause end, the transmit error, the frame in ingress and the reception change, and the slot within its
capacity. -/
theorem port_change {f : Ptu → Ptu} (fwd : (f s.ptu).fwd = s.ptu.fwd) (fifo : (f s.ptu).fifo = s.ptu.fifo)
    (egress : (f s.ptu).egress = s.ptu.egress) (priority : (f s.ptu).priority = s.ptu.priority)
    (level : (f s.ptu).defaultLevel = s.ptu.defaultLevel) (slot : (f s.ptu).slot = s.ptu.slot) :
    Change σ s (s.mapPtu f) := .port s f fwd fifo egress priority level (by rw [slot]; exact id)

theorem pauseEnd_changes : Changes σ s (pauseEnd s) := by
  unfold pauseEnd
  split
  · split
    · exact (port_change (f := fun p => { p with pauseEnd := none }) rfl rfl rfl rfl rfl rfl).changes.then
        (.choice _)
    · exact .refl
  · exact .refl

theorem egressLastByte_changes : Changes σ s (egressLastByte s) := by
  unfold egressLastByte
  split
  next f h =>
    exact (Change.dataSent s f h).changes.then (count_change
      (f := fun c => { c with portSent := satInc c.portSent }) (fun _ => rfl)
      (by simp_all [counters_range_iff, satInc_le]))
  next r h =>
    exact ((count_change (f := fun c => { c with repliesSent := satInc c.repliesSent }) (fun _ => rfl)
      (by simp_all [counters_range_iff, satInc_le])).changes.then
      (.requests _ (fun m => { m with restart := if r.restart then .due else m.restart }) rfl rfl rfl rfl id)).then
      (.egressTo _ .gap (by simp [h, egressBlocks]) rfl)
  · exact .refl
  · exact .refl

theorem learnAddress_changes (a : Addr) (i : Nat) : Changes σ s (learnAddress a i s) := by
  unfold learnAddress
  split
  next c =>
    have individual : isGroup a = false := by
      have := c.1
      simp [learnable] at this
      exact this.1.1
    dsimp only
    split
    next e he =>
      obtain ⟨at_e, same⟩ := tableFind_eq_some he
      exact (Change.learned s e.1 a i s.now individual c.2 fun n x hx hxa sound =>
        sound.distinct n e.1 x e.2 hx at_e (by simpa [hxa] using (of_decide_eq_true same).symm)).changes
    next none =>
      have absent (n : Nat) (x : ForwardEntry) (hx : tableGet s.ptu.fwd n = some x) : x.address ≠ a := by
        simpa using not_of_tableFind_none none hx
      have learn (pos : Nat) : Change σ s (s.mapPtu fun p => { p with
          fwd := tableSet p.fwd pos (some ⟨a, i, s.now⟩) }) :=
        .learned s pos a i s.now individual c.2 fun n x hx hxa => absurd hxa (absent n x hx)
      split
      · exact (learn _).changes
      · split
        · exact (learn _).changes.then (count_change
            (f := fun c => { c with forwardReplacements := satInc c.forwardReplacements }) (fun _ => rfl)
            (by simp_all [counters_range_iff, satInc_le]))
        · exact .refl
  · exact .refl

theorem forwardingAging_changes (pos : Nat) : Changes σ s (forwardingAging pos s) := by
  unfold forwardingAging
  split
  · split
    · exact (Change.aged s pos).changes
    · exact .refl
  · exact .refl

/-! ### Reassembly -/

theorem mapReceipt_change (f : Receipt → Receipt) : Change σ s (mapReceipt f s) := .service s _ rfl

theorem acceptBlock_changes (sv : Service) (i : Nat) : Changes σ s (acceptBlock sv i s) :=
  (mapReceipt_change _).changes.then (countPeer_change
    (f := fun c => { c with blocksAccepted := satInc c.blocksAccepted }) _ (by simp_all [peerCounterList, satInc_le]))

theorem refuseForBuffer_changes : Changes σ s (refuseForBuffer s) :=
  (mapReceipt_change _).changes.then (count_change
    (f := fun c => { c with bufferRefusals := satInc c.bufferRefusals }) (fun _ => rfl)
    (by simp_all [counters_range_iff, satInc_le]))

theorem takeNotice_changes (i : Nat) (b : List Byte) : Changes σ s (takeNotice i b s) := by
  unfold takeNotice
  dsimp only
  split
  · exact (count_change (f := fun c => { c with noticesRejected := satInc c.noticesRejected }) (fun _ => rfl)
      (by simp_all [counters_range_iff, satInc_le])).changes
  next h =>
    exact (Change.record s i _ fun p _ => .installs p _ _ (by simpa using h)).changes.then (raise_change _)

/-- What is done to records, flags and counters does not ask for the receive pool and the reassembly table. -/
theorem mapPeer_clearedAt (i pos : Nat) (f : Peer → Peer) (g : Bpm → Bpm) (s : State) :
    clearedAt pos ((s.mapPeer i f).mapBpm g) = (clearedAt pos (s.mapBpm g)).mapPeer i f := by
  unfold State.mapPeer
  rw [show (clearedAt pos (s.mapBpm g)).peer i = s.peer i from rfl]
  split <;> rfl

theorem takeNotice_clearedAt (i pos : Nat) (b : List Byte) (g : Bpm → Bpm) (s : State) :
    clearedAt pos ((takeNotice i b s).mapBpm g) = takeNotice i b (clearedAt pos (s.mapBpm g)) := by
  unfold takeNotice
  dsimp only
  rw [show (clearedAt pos (s.mapBpm g)).lmd = s.lmd from rfl]
  split
  · rfl
  · exact congrArg (raise .mapInstalled) (mapPeer_clearedAt i pos _ g s)

theorem learnAddress_clearedAt (a : Addr) (i pos : Nat) (s : State) :
    clearedAt pos (learnAddress a i s) = learnAddress a i (clearedAt pos s) := by
  unfold learnAddress
  dsimp only
  rw [show (clearedAt pos s).suc = s.suc from rfl, show (clearedAt pos s).peer = s.peer from rfl,
    show (clearedAt pos s).ptu = s.ptu from rfl, show (clearedAt pos s).now = s.now from rfl]
  split
  · split
    · rfl
    · split
      · rfl
      · split <;> rfl
  · rfl

theorem deliverData_changes (pos : Nat) (e : Entry) (at_pos : tableGet s.rxa.table pos = some e) :
    Changes σ s (clearedAt pos (deliverData e s)) := by
  unfold deliverData
  split
  next room =>
    dsimp only
    have delivered := (Change.delivered (σ := σ) s pos e at_pos room).changes.then (count_change
      (f := fun c => { c with lineDelivered := satInc c.lineDelivered }) (fun _ => rfl)
      (by simp_all [counters_range_iff, satInc_le]))
    generalize s.mapPtu _ = r at delivered
    have learned : Changes σ s (clearedAt pos (learnAddress (addrAt e.frameBytes 7) e.sender
        (count (fun c => { c with lineDelivered := satInc c.lineDelivered }) r))) := by
      rw [learnAddress_clearedAt]
      exact delivered.trans (learnAddress_changes _ _)
    exact learned.then (.choice _)
  · exact ((Change.returned s pos e at_pos).changes.then (count_change
      (f := fun c => { c with egressOverflows := satInc c.egressOverflows }) (fun _ => rfl)
      (by simp_all [counters_range_iff, satInc_le]))).then (raise_change _)

theorem deliverNotice_changes (pos : Nat) (e : Entry) (at_pos : tableGet s.rxa.table pos = some e) :
    Changes σ s (clearedAt pos (deliverNotice e s)) := by
  unfold deliverNotice
  rw [takeNotice_clearedAt]
  exact (Change.returned s pos e at_pos).changes.trans (takeNotice_changes _ _)

theorem completeFrame_changes (pos : Nat) (e : Entry) (at_pos : tableGet s.rxa.table pos = some e) :
    Changes σ s (completeFrame pos e s) := by
  unfold completeFrame
  dsimp only
  generalize hr : (if e.bcast then s else _) = r
  have recent : Changes σ s r := by
    rw [← hr]
    split
    · exact .refl
    · exact (Change.record s _ _ fun p _ => .recently p _).changes
  have at_r : tableGet r.rxa.table pos = some e := by
    rw [← hr]
    split
    · exact at_pos
    · simpa using at_pos
  refine recent.trans ?_
  split
  · exact deliverData_changes pos e at_r
  · exact deliverNotice_changes pos e at_r

/-- R132: a block stored in an entry that stands then, and the completion of its frame. -/
theorem storeBlock_changes (sv : Service) (i pos : Nat) (e : Entry)
    (stored : Changes σ s ((s.mapBpm fun b => { b with rxFree := b.rxFree - 1 }).mapRxa fun r =>
      { r with table := tableSet r.table pos (some e) })) (h1 : 1 ≤ pos) (h2 : pos ≤ s.rxa.table.length) :
    Changes σ s (storeBlock sv i pos e s) := by
  unfold storeBlock
  dsimp only
  have accepted := stored.trans (acceptBlock_changes sv i)
  split
  · refine accepted.trans (completeFrame_changes pos e ?_)
    simpa [acceptBlock, mapReceipt] using tableGet_tableSet_same _ h1 h2
  · exact accepted

theorem abandonAt_table (pos n : Nat) (s : State) (e : Entry)
    (h : tableGet (abandonAt pos s).rxa.table n = some e) : n ≠ pos ∧ tableGet s.rxa.table n = some e := by
  unfold abandonAt at h
  split at h
  next vacant =>
    refine ⟨?_, h⟩
    rintro rfl
    simp [vacant] at h
  next x at_pos =>
    simp only [count_keeps, State.mapRxa_rxa, State.mapBpm_rxa] at h
    by_cases e : pos = n
    · subst e
      have := tableGet_range at_pos
      rw [tableGet_tableSet_same _ this.1 this.2] at h
      cases h
    · rw [tableGet_tableSet_other _ _ e] at h
      exact ⟨Ne.symm e, h⟩

theorem makeRoom_changes : Changes σ s (makeRoom s) := by
  unfold makeRoom
  split
  · exact .refl
  · split
    · split
      · exact (Change.abandonsAt s _).changes
      · exact .refl
    · exact .refl

theorem makeRoom_table (n : Nat) (e : Entry) (h : tableGet (makeRoom s).rxa.table n = some e) :
    tableGet s.rxa.table n = some e := by
  unfold makeRoom at h
  split at h
  · exact h
  · split at h
    · split at h
      · exact (abandonAt_table _ _ _ _ h).2
      · exact h
    · exact h

theorem openEntry_changes (sv : Service) (i : Nat) (h : BlockHeader) (b : List Byte)
    (new : EntriesSound σ → ∀ n e, tableGet s.rxa.table n = some e → e.hasKey sv h = false) :
    Changes σ s (openEntry sv i h b s) := by
  unfold openEntry
  dsimp only
  refine (makeRoom_changes (s := s)).trans ?_
  split
  · exact refuseForBuffer_changes
  next pos vacant =>
    split
    · exact refuseForBuffer_changes
    next free =>
      obtain ⟨-, low, high⟩ := lowestVacant_eq_some vacant
      refine storeBlock_changes sv i pos _ (Change.opened _ pos _ vacant free rfl ?_).changes low high
      rintro sound n e he ⟨sender, level, tag, bcast⟩
      have := new sound n e (makeRoom_table n e he)
      simp [Entry.hasKey, sender, level, tag, bcast, newEntry] at this

theorem decideBlock_changes (sv : Service) (i : Nat) (h : BlockHeader) (b : List Byte)
    (table : s.rxa.table = σ.rxa.table) : Changes σ s (decideBlock sv i h b s) := by
  unfold decideBlock
  split
  · exact acceptBlock_changes sv i
  · split
    next none => exact openEntry_changes sv i h b fun _ n e he => not_of_tableFind_none none he
    next pos e he =>
      obtain ⟨at_pos, key⟩ := tableFind_eq_some he
      split
      · split
        · exact acceptBlock_changes sv i
        · split
          · exact refuseForBuffer_changes
          next free =>
            have hr := tableGet_range at_pos
            exact storeBlock_changes sv i pos _ (Change.stored s pos e
              { e with blocks := e.blocks ++ [(h.index, b)], lastTime := s.now } at_pos free
              ⟨rfl, rfl, rfl, rfl⟩ (by simp)).changes hr.1 hr.2
      · refine (Change.abandonsAt s pos).changes.trans (openEntry_changes sv i h b fun sound n f hf => ?_)
        obtain ⟨other, at_n⟩ := abandonAt_table _ _ _ _ hf
        by_contra same
        simp only [Entry.hasKey, Bool.and_eq_true, decide_eq_true_eq, beq_iff_eq, Bool.not_eq_false] at key same
        obtain ⟨⟨⟨a, b⟩, c⟩, d⟩ := key
        obtain ⟨⟨⟨a', b'⟩, c'⟩, d'⟩ := same
        exact other (sound.distinct n pos f e (table ▸ at_n) (table ▸ at_pos) (a'.trans a.symm)
          (b'.trans b.symm) (c'.trans c.symm) (d'.trans d.symm))

theorem takeBlock_changes (i : Nat) (b : List Byte) (x : Bool) (table : s.rxa.table = σ.rxa.table) :
    Changes σ s (takeBlock i b x s) := by
  unfold takeBlock
  split
  · exact .refl
  · dsimp only
    split
    · exact decideBlock_changes _ i _ _ table
    · exact .refl

theorem reassemblyTimeout_changes (pos : Nat) : Changes σ s (reassemblyTimeout pos s) := by
  unfold reassemblyTimeout
  split
  · split
    · exact (Change.abandonsAt s pos).changes
    · exact .refl
  · exact .refl

/-! ### The modem -/

theorem burstDetected_changes (t : Time) (a b : Bool) (x y : List Int) :
    Changes σ s (burstDetected t a b x y s) := by
  unfold burstDetected
  split
  · exact (Change.modem s _ rfl (.inl rfl)).changes
  · exact .refl

theorem endReception_changes : Changes σ s (endReception s) :=
  (Change.modem s _ rfl (.inl rfl)).changes.then enterListen_change

theorem goOnReceiving_change (h : Header) (g : RxStage) (m : PayloadMap) (d : Nat) :
    Change σ s (goOnReceiving h g m d s) := .modem s _ rfl (.inl rfl)

theorem openService_changes (i : Nat) (h : Header) (here : Bool) (t : MapTest) :
    Changes σ s (openService i h here t s) := by
  unfold openService
  split
  · exact (Change.service s (fun r => { r with service := some (servedBurst i here h.blocks) }) rfl).changes.then
      (countPeer_change (f := fun c => { c with burstsReceived := satInc c.burstsReceived }) _
        (by simp_all [peerCounterList, satInc_le]))
  · exact (Change.service s _ (by rfl)).changes
  · exact .refl

theorem afterMapTest_changes (h : Header) (here : Bool) (t : MapTest) :
    Changes σ s (afterMapTest h here t s) := by
  unfold afterMapTest
  split
  · exact (goOnReceiving_change _ _ _ _).changes
  · exact (goOnReceiving_change _ _ _ _).changes
  · exact endReception_changes

theorem serveHeader_changes (i : Nat) (h : Header) (here : Bool) : Changes σ s (serveHeader i h here s) := by
  unfold serveHeader
  split
  · exact endReception_changes
  next p _ =>
    dsimp only
    refine Changes.trans ?_ (afterMapTest_changes _ _ _)
    have opened := (Change.record (σ := σ) s i _ fun p _ => .discards p h.selector).changes.trans
      (openService_changes i h here (mapTest p h.selector))
    split
    · exact opened.trans (recoverNotices_changes i h _)
    · exact opened

theorem ownLabel_changes (h : Header) (m : List Nat) : Changes σ s (ownLabel h m s) := by
  unfold ownLabel
  have learned := learnSender_changes (σ := σ) (s := s) h.sender (addressedHere s h)
  dsimp only
  split
  next s' e =>
    rw [e] at learned
    exact learned.trans endReception_changes
  next s' i e =>
    rw [e] at learned
    have filed := learned.trans (fileMeasurement_changes i m h.stamp)
    split
    · exact filed.trans (serveHeader_changes i h _)
    · exact filed.trans endReception_changes

theorem headerOutcome_changes (x : HeaderHeard) : Changes σ s (headerOutcome x s) := by
  unfold headerOutcome
  split
  · exact .refl
  · split
    · unfold takeHeader
      split
      · exact ((count_change (f := fun c => { c with undecodedBursts := satInc c.undecodedBursts })
          (fun _ => rfl) (by simp_all [counters_range_iff, satInc_le])).changes.trans
          undecodedToClc_changes).trans endReception_changes
      · split
        · exact ((count_change (f := fun c => { c with foreignBursts := satInc c.foreignBursts })
            (fun _ => rfl) (by simp_all [counters_range_iff, satInc_le])).changes.trans
            (declaredToClc_changes _)).trans endReception_changes
        · exact (declaredToClc_changes _).trans (ownLabel_changes _ _)
    · exact .refl

theorem blockHanded_changes (x : SymbolsHeard) : Changes s s (blockHanded x s) := by
  unfold blockHanded
  split
  · exact .refl
  · split
    · exact .refl
    · dsimp only
      split
      · exact (Change.modem s _ (by rfl) (.inl rfl)).changes.trans (takeBlock_changes _ _ _ (by rfl))
      · exact .refl

theorem rxPayloadEnd_changes : Changes σ s (rxPayloadEnd s) := by
  unfold rxPayloadEnd
  split
  · exact .refl
  · split
    · exact .refl
    · split
      · split
        · exact (Change.service s _ (by rfl)).changes.trans endReception_changes
        · exact (Change.modem s _ rfl (.inl rfl)).changes
      · exact .refl

theorem sendReceipt_changes : Changes s s (sendReceipt s) := by
  unfold sendReceipt
  split
  next b r _ _ =>
    split
    · exact .refl
    · dsimp only
      split
      next c =>
        exact (Change.sends s _ rfl (.inl fun h => (h.receives c.1).2.1) (receipt_notched _ _)).changes.then
          (.service _ _ rfl)
      · exact .refl
  · exact .refl

theorem receiptEnd_changes : Changes σ s (receiptEnd s) := by
  unfold receiptEnd
  split
  · exact silence_change.changes.trans resumeListen_changes
  · exact .refl

theorem settleWin_changes : Changes σ s (settleWin s) := by
  unfold settleWin
  split
  · exact (dropBurstInHand_changes.then (.modem _ (fun m => { m with energy := none }) rfl (.inl rfl))).then
      (.medium _ (fun c => { clearClaim c with medium := .sending }) (.inl rfl))
  · exact .refl

theorem claimPeriodEnd_changes : Changes σ s (claimPeriodEnd s) := by
  rcases claimPeriodEnd_cases s with e | ⟨m, -, -, -, e⟩ | ⟨-, -, e⟩
  · rw [e]
    exact lapse_changes
  · rw [e]
    unfold winPeriod
    exact (((((lapse_changes.then silence_change).then (count_change
      (f := fun c => { c with claimsWon := satInc c.claimsWon }) (fun _ => rfl)
      (by simp_all [counters_range_iff, satInc_le]))).then (.medium _ wonPeriod (.inl rfl))).then
      (.lcu _ (takeLatch (after m (claimPeriod + turnaround))))).trans cutBurst_changes).trans settleWin_changes
  · rw [e]
    exact (lapse_changes.trans settleLoss_changes).then (.medium _ _ (.inl rfl))

theorem burstStart_changes : Changes s s (burstStart s) := by
  unfold burstStart
  split
  · exact .refl
  · split
    next c =>
      exact dropBurstInHand_changes.then (.sends _ _ rfl
        (.inl fun h => h.online_of_medium (by simp [c.1])) (burst_notched _ _ _ _ _))
    · exact .refl

theorem ownPayloadEnd_changes : Changes σ s (ownPayloadEnd s) := by
  unfold ownPayloadEnd
  split
  · exact .refl
  next b _ =>
    dsimp only
    split
    · unfold endOwnPayload
      split
      · exact (silence_change.changes.then (.modem _ (fun m => { m with
          activity := .receiptWait, energy := none, quietFrom := s.now
          expect := some { start := after _ 60, dest := b.destAddr, blocks := b.refs.length } })
          rfl (.inl rfl))).then (.medium _ (fun c => { c with medium := .awaitReceipt }) (.inl rfl))
      · exact ((silence_change.changes.trans resumeListen_changes).trans (applyResult_changes _ _)).then
          (.medium _ _ (.inl rfl))
    · exact .refl

theorem receiptSlotEnd_changes (x : Option ReceiptHeard) : Changes σ s (receiptSlotEnd x s) := by
  unfold receiptSlotEnd
  split
  · split
    · exact .refl
    · dsimp only
      split
      · exact ((((Change.modem s (fun m => { m with expect := none }) rfl (.inl rfl)).changes.then
          enterListen_change).then (.medium _ (freeAt _) (.inl rfl))).trans (applyReceipt_changes _ _ _)).trans
          (takeDeferred_changes _)
      · exact .refl
  · exact .refl

/-! ### The port -/

theorem withReceiving_change (u : Bool) : Change σ s (s.mapPtu fun p => p.withReceiving u) :=
  port_change rfl rfl rfl rfl rfl rfl

theorem arrive_changes (b : List Byte) (x : Bool) : Changes σ s (arrive b x s) := by
  unfold arrive
  dsimp only
  split
  · exact (port_change (f := fun p => p.withReceiving (receivingAfter b p)) rfl rfl rfl rfl rfl rfl).changes
  next g _ =>
    exact ((port_change (f := fun p => p.withReceiving (receivingAfter b p)) rfl rfl rfl rfl rfl rfl).changes.then
      (.pools _ (fun p => { p with txFree := p.txFree - moverDraw g b s.bpm.txFree }) rfl)).then
      (port_change (f := fun p => { p with ingress := some (g.grow b x (moverDraw g b s.bpm.txFree)) })
        rfl rfl rfl rfl rfl rfl)

theorem discardIngress_change (g : Ingress) : Change σ s (discardIngress g s) := .pools s _ rfl

theorem queueRequest_changes (r : Request) : Changes σ s (queueRequest r s) := by
  unfold queueRequest
  split
  next room =>
    exact (Change.requests s (fun m => { m with queue := m.queue ++ [r] }) rfl rfl rfl rfl fun _ => by
      simp; omega).changes
  · exact (count_change (f := fun c => { c with requestsDropped := satInc c.requestsDropped }) (fun _ => rfl)
      (by simp_all [counters_range_iff, satInc_le])).changes.then (raise_change _)

theorem controlFrame_changes (b : List Byte) : Changes σ s (controlFrame b s) := by
  unfold controlFrame
  split
  · dsimp only
    split
    · exact (port_change (f := fun p => { p with pauseEnd := none }) rfl rfl rfl rfl rfl rfl).changes.then
        (.choice _)
    · exact (port_change rfl rfl rfl rfl rfl rfl).changes
  · exact .refl

theorem divertFrame_changes (g : Ingress) : Changes σ s (divertFrame g s) := by
  unfold divertFrame
  split
  · exact (discardIngress_change g).changes.then (count_change
      (f := fun c => { c with managementLost := satInc c.managementLost }) (fun _ => rfl)
      (by simp_all [counters_range_iff, satInc_le]))
  · exact (queueRequest_changes _).then (discardIngress_change g)

theorem classify_changes (g : Ingress) : Changes σ s (classify g s) := by
  have discarded : Changes σ s (discardIngress g s) := (discardIngress_change g).changes
  unfold classify
  split
  · exact discarded.then (count_change (f := fun c => { c with portErrors := satInc c.portErrors })
      (fun _ => rfl) (by simp_all [counters_range_iff, satInc_le]))
  · split
    · exact (discarded.then (count_change (f := fun c => { c with portControl := satInc c.portControl })
        (fun _ => rfl) (by simp_all [counters_range_iff, satInc_le]))).trans
        (controlFrame_changes _)
    · split
      · exact divertFrame_changes g
      · split
        · exact discarded.then (count_change
            (f := fun c => { c with portToStation := satInc c.portToStation }) (fun _ => rfl)
            (by simp_all [counters_range_iff, satInc_le]))
        · split
          · exact discarded.then (count_change (f := fun c => { c with portOffline := satInc c.portOffline })
              (fun _ => rfl) (by simp_all [counters_range_iff, satInc_le]))
          · exact admitData_changes _ _ _ _ _

theorem portFrameReceived_changes (b : List Byte) (x : Bool) : Changes σ s (portFrameReceived b x s) := by
  unfold portFrameReceived
  dsimp only
  have arrived := (arrive_changes (σ := σ) (s := s) b x).then (withReceiving_change false)
  split
  · exact arrived
  · exact ((arrived.then (port_change (f := fun p => { p with ingress := none }) rfl rfl rfl rfl rfl rfl)).then
      (count_change (f := fun c => { c with portReceived := satInc c.portReceived }) (fun _ => rfl)
        (by simp_all [counters_range_iff, satInc_le]))).trans (classify_changes _)

/-! ### Configuration and requests -/

theorem applyConfig_changes (c : ConfigImage) (image : IsImage c) (before : s.suc.station ≠ .online) :
    Changes σ s (applyConfig c s) := by
  rw [applyConfig_eq]
  exact (Change.configures s c image before).changes.trans recompute_changes

theorem flashReadStart_changes : Changes σ s (flashReadStart s) := by
  unfold flashReadStart
  split
  · split
    next c => exact (Change.startUp s _ (by simp [c.1]) (by simp [c.1])).changes
    · exact .refl
  · exact .refl

theorem flashReadEnd_changes (bs : List Byte) : Changes σ s (flashReadEnd bs s) := by
  unfold flashReadEnd
  split
  · split
    next c =>
      have read : Change σ s (s.mapSuc fun u => { u with flashRead := none }) :=
        .startUp s _ (by simp [c.1]) (by simp [c.1])
      dsimp only
      split
      · exact read.changes.trans (applyConfig_changes _ ⟨_, _, rfl⟩ (by simp [c.1]))
      · exact (read.changes.then (.startUp _ (fun u => { u with station := .configWait }) (by simp [c.1])
          (by simp))).then (raise_change _)
    · exact .refl
  · exact .refl

theorem placeReply_changes (r : Reply) (room : s.ptu.slot.length < slotCapacity) :
    Changes σ s (placeReply r s) :=
  (Change.port s (fun p => { p with slot := p.slot ++ [r] }) rfl rfl rfl rfl rfl fun _ => by
    simp; omega).changes.then (.choice _)

theorem offerReply_changes (r : Reply) : Changes σ s (offerReply r s) := by
  unfold offerReply
  split
  next room => exact placeReply_changes r room
  · exact (Change.requests s (fun m => { m with service := some r }) rfl rfl rfl rfl id).changes

theorem answer_changes (r : Request) (c : ResultCode) (b : List Byte) : Changes σ s (answer r c b s) :=
  offerReply_changes _

theorem replyPlaced_changes : Changes σ s (replyPlaced s) := by
  unfold replyPlaced
  split
  · split
    next room =>
      exact (Change.requests s (fun m => { m with service := none }) rfl rfl rfl rfl id).changes.trans
        (placeReply_changes _ room)
    · exact .refl
  · exact .refl

theorem setMask_change (m : BitVec 14) : Change σ s (setMask m s) :=
  .judged s (fun x => { x with mask := m }) rfl rfl

/-- A request whose arguments are tested is answered, or acts. -/
theorem withArgs_changes {need : Nat} {refused : State → List Byte} {act : Request → State → State}
    {r : Request} (acts : Changes σ s (act r s)) : Changes σ s (withArgs need refused act r s) := by
  unfold withArgs
  split
  · exact acts
  · exact answer_changes _ _ _

theorem takeRequest_changes {kind : Byte → Bool} {act : Request → State → State}
    (acts : ∀ r s, Changes σ s (act r s)) : Changes σ s (takeRequest kind act s) := by
  rcases takeRequest_cases kind act s with e | ⟨r, rest, queue, -, -, -, e⟩
  · rw [e]
  · rw [e]
    refine (Change.requests s (fun m => { m with queue := rest }) rfl rfl rfl rfl fun h => ?_).changes.trans
      (acts r _)
    rw [queue] at h
    exact (Nat.le_succ _).trans h

theorem answerEventMask_changes (r : Request) (s : State) : Changes σ s (answerEventMask r s) := by
  refine withArgs_changes ?_
  dsimp only
  split
  · exact (setMask_change _).changes.trans (answer_changes _ _ _)
  · split
    · exact (setMask_change _).changes.trans (answer_changes _ _ _)
    · exact answer_changes _ _ _

theorem answerFloor_changes (r : Request) (s : State) : Changes σ s (answerFloor r s) :=
  withArgs_changes (((Change.scheduler s (fun t => { t with floor := min 7 (byteAt r.args 1).toNat })
    ⟨rfl, rfl, rfl, fun _ => min_le_left _ _⟩).changes.trans recompute_changes).trans (answer_changes _ _ _))

theorem answerPeerDetail_changes (r : Request) (s : State) : Changes σ s (answerPeerDetail r s) := by
  refine withArgs_changes ?_
  dsimp only
  split
  · split <;> exact answer_changes _ _ _
  · exact answer_changes _ _ _

theorem answerConfigLoad_changes (r : Request) (s : State) : Changes σ s (answerConfigLoad r s) := by
  unfold answerConfigLoad
  split
  next c =>
    split
    · exact (applyConfig_changes _ ⟨_, _, rfl⟩ (by simp [c])).trans (answer_changes _ _ _)
    · exact (raise_change _).changes.trans (answer_changes _ _ _)
  · exact answer_changes _ _ _

theorem answerRestart_changes (r : Request) (s : State) : Changes σ s (answerRestart r s) :=
  withArgs_changes ((Change.requests s (fun m => { m with restart := .outstanding }) rfl rfl rfl rfl id).changes.trans
    (offerReply_changes _))

/-! ### Timers of a record -/

theorem expireMapSet_keeps (now : Time) (p : Peer) : RecordKeeps p (expireMapSet now p) := by
  unfold expireMapSet
  split
  · split
    · exact .transmit rfl id (.inr rfl)
    · exact .of_fields rfl rfl rfl rfl rfl rfl rfl rfl
  · exact .of_fields rfl rfl rfl rfl rfl rfl rfl rfl

theorem expireUnicast_keeps (now : Time) (p : Peer) : RecordKeeps p (expireUnicast now p) := by
  unfold expireUnicast
  split
  · split <;> exact .of_fields rfl rfl rfl rfl rfl rfl rfl rfl
  · exact .of_fields rfl rfl rfl rfl rfl rfl rfl rfl

theorem expireNotice_keeps (now : Time) (p : Peer) : RecordKeeps p (expireNotice now p) := by
  unfold expireNotice
  split
  · split <;> exact .of_fields rfl rfl rfl rfl rfl rfl rfl rfl
  · exact .of_fields rfl rfl rfl rfl rfl rfl rfl rfl

theorem expireResend_keeps (now : Time) (p : Peer) : RecordKeeps p (expireResend now p) := by
  unfold expireResend
  split
  · split <;> exact .of_fields rfl rfl rfl rfl rfl rfl rfl rfl
  · exact .of_fields rfl rfl rfl rfl rfl rfl rfl rfl

theorem timePeer_change {f : Time → Peer → Peer} (i : Nat) (keeps : ∀ t p, RecordKeeps p (f t p)) :
    Change σ s (timePeer i f s) := .record s i _ fun p _ => keeps _ p

/-! ### Every effect -/

/-- The command is one of the three that reset the part or hold it. -/
def resetsPart : Instr → Bool
  | .nrstAssert _ | .hardwareReset _ _ | .restartTaken _ => true
  | _ => false

theorem effect_changes (c : Instr) (h : resetsPart c = false) (s : State) : Changes s s (effect c s) := by
  cases c with
  | nrstAssert t => cases h
  | hardwareReset t strap => cases h
  | restartTaken t => cases h
  | qualifiedCrossing t =>
    unfold effect
    dsimp only
    split
    · exact takeSample_changes _
    · exact .refl
  | acquiringTimeout t => exact acquiringTimeout_changes
  | holdoverInstant t => exact holdoverInstant_changes
  | lossInstant t => exact lossInstant_changes
  | energyReport t a b => exact energyReport_changes a b
  | quietReport t => exact quietReport_changes
  | gapTailCheck t => exact gapTailCheck_changes
  | openingInstant t => exact openingInstant_changes
  | markSlotListenEnd t => exact markSlotListenEnd_changes
  | claimBitSlot t => exact claimBitSlot_changes
  | claimPeriodEnd t => exact claimPeriodEnd_changes
  | burstStart t => exact burstStart_changes
  | hiddenWinnerDeadline t => exact hiddenWinnerDeadline_changes
  | occupancyEnd t => exact occupancyEnd_changes
  | burstDetected t start a b x y => exact burstDetected_changes start a b x y
  | headerOutcome t x => exact headerOutcome_changes x
  | reviewComplete t i => exact completeReview_changes i
  | blockHanded t x => exact blockHanded_changes x
  | rxPayloadEnd t => exact rxPayloadEnd_changes
  | sendReceipt t => exact sendReceipt_changes
  | receiptEnd t => exact receiptEnd_changes
  | ownPayloadEnd t => exact ownPayloadEnd_changes
  | receiptSlotEnd t x => exact receiptSlotEnd_changes x
  | silenceInstant t i => exact silenceInstant_changes i
  | mapSetLifetime t i => exact (timePeer_change i expireMapSet_keeps).changes
  | lastUnicastExpiry t i => exact (timePeer_change i expireUnicast_keeps).changes
  | lastNoticeExpiry t i => exact (timePeer_change i expireNotice_keeps).changes
  | robustResendExpiry t i => exact (timePeer_change i expireResend_keeps).changes
  | frameExpiry t k d => exact frameExpiry_changes k d
  | reassemblyTimeout t pos => exact reassemblyTimeout_changes pos
  | portFrameReceived t b x => exact portFrameReceived_changes b x
  | pauseEnd t => exact pauseEnd_changes
  | forwardingAging t pos => exact forwardingAging_changes pos
  | egressLastByte t => exact egressLastByte_changes
  | egressGapEnd t => exact egressGapEnd_changes
  | replyPlaced t => exact replyPlaced_changes
  | flashReadStart t => exact flashReadStart_changes
  | flashReadEnd t bs => exact flashReadEnd_changes bs
  | identify t => exact takeRequest_changes fun r s => withArgs_changes (answer_changes _ _ _)
  | status t =>
    exact takeRequest_changes fun r s => withArgs_changes
      ((Change.judged s (fun m => { m with flags := 0 }) rfl rfl).changes.trans (answer_changes _ _ _))
  | eventMask t => exact takeRequest_changes answerEventMask_changes
  | floor t => exact takeRequest_changes answerFloor_changes
  | peerList t => exact takeRequest_changes fun r s => withArgs_changes (answer_changes _ _ _)
  | peerDetail t => exact takeRequest_changes answerPeerDetail_changes
  | configLoad t => exact takeRequest_changes answerConfigLoad_changes
  | restart t => exact takeRequest_changes answerRestart_changes
  | unknownRequest t =>
    exact takeRequest_changes (kind := fun c => !codeKnown c) (act := answerUnknown) fun r s =>
      answer_changes r .unknownRequest []
  | zcSample t level => exact takeSample_changes level
  | ingressBlockDraw t b x => exact arrive_changes b x

end Sys2Proof.Machine
end

section
/-! An invariant that the changes keep is kept by every step; the receive pool's balance. -/

namespace Sys2Proof.Machine

/-! ### Steps by their changes -/

/-- What a reset and a restart leave of every block but the LCU. -/
structure AfterReset (s : State) : Prop where
  nrstLow : s.nrstLow = false
  lmd : s.lmd = resetLmd
  clc : s.clc = resetClc
  peers : s.peers = resetPeers
  lae : s.lae = resetLae
  tsc : s.tsc = resetTsc
  bpm : s.bpm = resetBpm
  rxa : s.rxa = resetRxa
  ptu : ∃ e r, s.ptu = { resetPtu with txError := e, receiving := r }
  mgu : s.mgu = resetMgu
  suc : s.suc.station ≠ .online

theorem resetState_afterReset (t : Time) (strap : Strap) (s : State) : AfterReset (resetState t strap s) :=
  ⟨rfl, rfl, rfl, rfl, rfl, rfl, rfl, rfl, ⟨_, _, rfl⟩, rfl, by cases strap <;> simp [resetState, resetSuc]⟩

/-- R159: a restart that is not taken leaves the state. -/
theorem restartTaken_cases (s : State) : restartTaken s = s ∨ s.nrstLow = s.nrstLow ∧ AfterReset (restartTaken s) := by
  unfold restartTaken
  split
  · exact .inr ⟨rfl, rfl, rfl, rfl, rfl, rfl, rfl, rfl, rfl, ⟨_, _, rfl⟩, rfl, by
      cases h : s.suc.strap <;> simp [resetSuc]⟩
  · exact .inl rfl

/-- An invariant that asks for no time, for no waiting command and for no reception, that a held NRST leaves
and a reset gives, and that every other effect keeps. -/
theorem KeptBy.of_effects {P : State → Prop} (time : ∀ (s : State) (t : Time), P s → P { s with now := t })
    (queue : ∀ (s : State) (q : List Instr), P s → P (s.withQueue q))
    (receiving : ∀ (s : State) (u : Bool), P s → P { s with ptu := s.ptu.withReceiving u })
    (nrst : ∀ (s : State) (t : Time), P s → P (assertNrst t s)) (reset : ∀ s, AfterReset s → P s)
    (effects : ∀ c s, s.nrstLow = false → resetsPart c = false → P s → P (Machine.effect c s)) : KeptBy P where
  time := time
  queue := queue
  receiving := receiving
  nrst := nrst
  reset s t strap _ := reset _ (resetState_afterReset t strap s)
  effect c s live h := by
    by_cases hc : resetsPart c = false
    · exact effects c s live hc h
    · cases c with
      | nrstAssert t => exact nrst s t h
      | hardwareReset t strap => exact reset _ (resetState_afterReset t strap s)
      | restartTaken t =>
        rcases restartTaken_cases s with e | ⟨-, e⟩
        · exact (congrArg P e).mpr h
        · exact reset _ e
      | _ => exact absurd rfl hc

/-- A change of a record, by what stands at its index. -/
theorem mapPeer_cases (i : Nat) (f : Peer → Peer) (s : State) :
    (s.peer i = none ∧ s.mapPeer i f = s) ∨
    ∃ p, s.peer i = some p ∧ s.mapPeer i f = s.mapPeers fun l => tableSet l i (some (f p)) := by
  unfold State.mapPeer
  cases h : s.peer i with
  | none => exact .inl ⟨rfl, rfl⟩
  | some p => exact .inr ⟨p, rfl, rfl⟩

/-! ### Blocks of the receive pool (R130) -/

/-- The blocks at a position of the reassembly table. -/
def blocksAt (x : Option Entry) : Nat := (x.map fun e => e.blocks.length).getD 0

theorem entryBlocks_cons (x : Option Entry) (l : List (Option Entry)) :
    entryBlocks (x :: l) = blocksAt x + entryBlocks l := by
  cases x <;> simp [entryBlocks, blocksAt]

/-- What an entry set at a position changes of the blocks of the entries. -/
theorem entryBlocks_tableSet {l : List (Option Entry)} {i : Nat} (y : Option Entry) (h1 : 1 ≤ i)
    (h2 : i ≤ l.length) :
    entryBlocks (tableSet l i y) + blocksAt (tableGet l i) = entryBlocks l + blocksAt y := by
  obtain ⟨k, rfl⟩ : ∃ k, i = k + 1 := ⟨i - 1, by omega⟩
  induction l generalizing k with
  | nil => simp at h2
  | cons x l ih =>
    cases k with
    | zero => simp [tableSet, tableGet, entryBlocks_cons]; omega
    | succ k =>
      have := ih k (by omega) (by simpa using h2)
      simp only [tableSet, tableGet, List.set_cons_succ, List.getElem?_cons_succ, entryBlocks_cons] at this ⊢
      omega

theorem entryBlocks_vacate (p : Entry → Bool) (l : List (Option Entry)) :
    entryBlocks (vacate p l) + ((chosenEntries p l).map fun e => e.blocks.length).sum = entryBlocks l := by
  induction l with
  | nil => rfl
  | cons x l ih =>
    cases x with
    | none => simpa [vacate, chosenEntries, entryBlocks] using ih
    | some e =>
      cases h : p e <;>
        simp [vacate, chosenEntries, entryBlocks, h] at ih ⊢ <;> omega

/-- The blocks of the egress FIFO and of the frame being sent. -/
def egressHeld (p : Ptu) : Nat := (p.fifo.map fun f => f.blocks).sum + egressBlocks p.egress

theorem startNext_held {p : Ptu} (idle : p.egress = .idle) : egressHeld (startNext p) = egressHeld p := by
  unfold startNext
  split <;> simp_all [egressHeld, egressBlocks]
  omega

theorem egressChoice_held (s : State) : egressHeld (egressChoice s).ptu = egressHeld s.ptu := by
  unfold egressChoice
  dsimp only [State.mapPtu_ptu]
  split
  next c => exact startNext_held c.1
  · rfl

/-- The blocks of the receive pool, wherever they are. -/
def rxHeld (s : State) : Nat := s.bpm.rxFree + entryBlocks s.rxa.table + egressHeld s.ptu

theorem rxBalance_iff (s : State) : RxBalance s ↔ rxHeld s = rxBlocks := by
  simp [RxBalance, rxHeld, egressHeld, Nat.add_assoc]

theorem clearedAt_held {s : State} {pos : Nat} {e : Entry} (h : tableGet s.rxa.table pos = some e) :
    entryBlocks (tableSet s.rxa.table pos none) + e.blocks.length = entryBlocks s.rxa.table := by
  have hr := tableGet_range h
  simpa [h, blocksAt] using entryBlocks_tableSet none hr.1 hr.2

theorem abandonAt_held (pos : Nat) (s : State) : rxHeld (abandonAt pos s) = rxHeld s := by
  unfold abandonAt
  split
  · rfl
  next e h =>
    have := clearedAt_held h
    simp [rxHeld]
    omega

theorem change_rxHeld {σ s s' : State} (c : Change σ s s') : rxHeld s' = rxHeld s := by
  cases c with
  | record i f keeps => simp [rxHeld]
  | pools f h => simp [rxHeld, h]
  | service f h => simp [rxHeld, h]
  | abandons p =>
    have := entryBlocks_vacate p s.rxa.table
    simp [rxHeld, abandonEntries]
    omega
  | abandonsAt pos => exact abandonAt_held pos s
  | stored pos e d at_pos free key one =>
    have hr := tableGet_range at_pos
    have := entryBlocks_tableSet (some d) hr.1 hr.2
    simp [rxHeld, at_pos, blocksAt, one] at this ⊢
    omega
  | opened pos d vacant free one new =>
    obtain ⟨hv, h1, h2⟩ := lowestVacant_eq_some vacant
    have := entryBlocks_tableSet (some d) h1 h2
    simp [rxHeld, hv, blocksAt, one] at this ⊢
    omega
  | delivered pos e at_pos room =>
    have := clearedAt_held at_pos
    simp [rxHeld, clearedAt, egressHeld]
    omega
  | returned pos e at_pos =>
    have := clearedAt_held at_pos
    simp [rxHeld, clearedAt]
    omega
  | port f fwd fifo egress => simp [rxHeld, egressHeld, fifo, egress]
  | choice => simp [rxHeld, egressChoice_held]
  | dataSent x h => simp [rxHeld, beginGap, egressHeld, h, egressBlocks]; omega
  | egressTo e now next => simp [rxHeld, egressHeld, now, next]
  | _ => rfl

theorem rxBalance_kept : KeptBy RxBalance := by
  refine .of_effects (fun s t h => h) (fun s q h => h) (fun s u h => h) (fun s t h => h) (fun s h => ?_)
    fun c s _ hc h => (effect_changes c hc s).keep (fun s s' ch h => ?_) h
  · obtain ⟨e, r, ptu⟩ := h.ptu
    rw [RxBalance, h.bpm, h.rxa, ptu]
    rfl
  · rwa [rxBalance_iff, change_rxHeld ch, ← rxBalance_iff]

/-- Settles O42: each change leaves as many blocks as it finds. -/
theorem rxBalanceKept : Obligations.RxBalanceKept := fun _ _ => rxBalance_kept.step

end Sys2Proof.Machine
end

section
/-! The invariants of registers, records, tables, collections and counters: each change keeps each of them. -/

namespace Sys2Proof.Machine

variable {σ s s' : State}

/-! ### The random generator (R42) -/

theorem rngStep_ne_zero {r : BitVec 16} (h : r ≠ 0) : rngStep r ≠ 0 := by
  intro hz
  have bits (i : Nat) (hi : i < 15) : r.getLsbD i = false := by
    have := congrArg (fun x => x.getLsbD (i + 1)) hz
    simp [rngStep] at this
    exact this.1 (by omega)
  have top : r[15] = false := by
    have := congrArg (fun x => x.getLsbD 0) hz
    simp only [rngStep, bits 13 (by omega), bits 12 (by omega), bits 10 (by omega)] at this
    cases h15 : r[15] with
    | false => rfl
    | true => simp [h15] at this
  refine h (BitVec.eq_of_getLsbD_eq fun i hi => ?_)
  by_cases e : i = 15
  · simpa [e] using top
  · simp [bits i (by omega)]

theorem rngDraw_ne_zero {r : BitVec 16} (h : r ≠ 0) : rngDraw r ≠ 0 :=
  rngStep_ne_zero (rngStep_ne_zero (rngStep_ne_zero (rngStep_ne_zero h)))

theorem rngSeed_ne_zero (a : Addr) : rngSeed a ≠ 0 := by
  unfold rngSeed
  dsimp only
  split
  · decide
  next h => exact h

theorem Change.rngLive (c : Change σ s s') (h : RngLive s) : RngLive s' := by
  cases c with
  | medium f rng =>
    rcases rng with e | e
    · exact ne_of_eq_of_ne e h
    · exact ne_of_eq_of_ne e (rngDraw_ne_zero h)
  | configures c image before => exact rngSeed_ne_zero _
  | record i f keeps => simpa [RngLive] using h
  | abandonsAt pos => simpa [RngLive] using h
  | _ => exact h

theorem rngLive_kept : KeptBy RngLive :=
  .of_effects (fun _ _ h => h) (fun _ _ h => h) (fun _ _ h => h) (fun _ _ h => h)
    (fun s h => by rw [RngLive, h.clc]; decide)
    fun c s _ hc h => (effect_changes c hc s).keep (fun _ _ ch => ch.rngLive) h

/-! ### ATTN (R168) -/

/-- ATTN as it is judged outside a held NRST. -/
def AttnLive (s : State) : Prop := s.nrstLow = false ∧ s.mgu.attn = attnOf s.mgu.flags s.mgu.mask

theorem Change.attnLive (c : Change σ s s') (h : AttnLive s) : AttnLive s' := by
  cases c with
  | judged f => exact ⟨h.1, rfl⟩
  | configures c image before => exact ⟨h.1, rfl⟩
  | requests f flags mask attn =>
    exact ⟨h.1, by rw [State.mapMgu_mgu, attn, flags, mask]; exact h.2⟩
  | record i f keeps => simpa [AttnLive] using h
  | abandonsAt pos =>
    unfold abandonAt
    split
    · exact h
    · exact h
  | _ => exact h

theorem attnJudged_kept : KeptBy AttnJudged := by
  refine .of_effects (fun _ _ h => h) (fun _ _ h => h) (fun _ _ h => h) (fun _ _ _ => rfl)
    (fun s h => by rw [AttnJudged, h.mgu, h.nrstLow]; decide) fun c s live hc h => ?_
  obtain ⟨low, attn⟩ := (effect_changes c hc s).keep (fun _ _ ch => ch.attnLive)
    (show AttnLive s from ⟨live, by simpa [AttnJudged, live] using h⟩)
  simpa [AttnJudged, low] using attn

/-! ### Records -/

/-- A rule for every record, kept by a change that keeps it of each record and gives it to a new one. -/
theorem Change.records {R : Peer → Prop} (c : Change σ s s') (keeps : ∀ p q, RecordKeeps p q → R p → R q)
    (new : ∀ a t here, R (claimedPeer a t here)) (h : ∀ i p, s.peer i = some p → R p) :
    ∀ i p, s'.peer i = some p → R p := by
  have set (i : Nat) (x : Option Peer) (hx : ∀ p, x = some p → R p) :
      ∀ j p, (s.mapPeers fun l => tableSet l i x).peer j = some p → R p := by
    intro j p hp
    rw [State.peer, State.mapPeers_peers] at hp
    by_cases e : i = j
    · subst e
      have hr := tableGet_range hp
      rw [tableGet_tableSet_same _ hr.1 (by simpa using hr.2)] at hp
      exact hx p hp
    · rw [tableGet_tableSet_other _ _ e] at hp
      exact h j p hp
  cases c with
  | record i f keep =>
    rcases mapPeer_cases i f s with ⟨-, e⟩ | ⟨p, hp, e⟩
    · rwa [e]
    · rw [e]
      refine set i _ ?_
      rintro q ⟨⟩
      exact keeps p _ (keep p hp) (h i p hp)
  | claimed i a t here =>
    refine set i _ ?_
    rintro q ⟨⟩
    exact new a t here
  | released i => exact set i none (by simp)
  | abandonsAt pos => simpa [State.peer] using h
  | _ => exact h

/-- A rule for every record that the changes of a record keep is kept by every step. -/
theorem records_kept {R : Peer → Prop} (keeps : ∀ p q, RecordKeeps p q → R p → R q)
    (new : ∀ a t here, R (claimedPeer a t here)) : KeptBy fun s => ∀ p ∈ s.peers.filterMap id, R p := by
  refine .of_effects (fun _ _ h => h) (fun _ _ h => h) (fun _ _ h => h) (fun _ _ h => h) (fun s h => ?_)
    fun c s _ hc h => ?_
  · rw [h.peers]
    exact reset_no_record
  · rw [forall_records] at h ⊢
    exact (effect_changes c hc s).keep (fun _ _ ch => ch.records keeps new) h

theorem peerVersions_kept : KeptBy PeerVersions :=
  records_kept (fun _ _ k h => k.versions h) fun a t here => by
    simp [claimedPeer, SlotVersions]

theorem peersShaped_kept : KeptBy PeersShaped :=
  records_kept (fun _ _ k h => k.shape h) fun a t here => by
    refine ⟨?_, rfl, ?_, ?_, ?_⟩
    · simp [claimedPeer, emptyWindow]
    all_goals simp [claimedPeer]

theorem announcedMapped_kept : KeptBy AnnouncedMapped :=
  records_kept (fun _ _ k h => k.announced h) fun a t here => by simp [claimedPeer]

theorem PeersDistinct.congr (h : PeersDistinct s) (peers : s'.peers = s.peers) : PeersDistinct s' := by
  simpa [PeersDistinct, State.peer, peers] using h

theorem Change.peersDistinct (c : Change σ s s') (h : PeersDistinct s) : PeersDistinct s' := by
  cases c with
  | record i f keep =>
    have same (j : Nat) (q : Peer) (hq : (s.mapPeer i f).peer j = some q) :
        ∃ p, s.peer j = some p ∧ p.address = q.address := by
      by_cases e : i = j
      · subst e
        rw [State.mapPeer_peer_same, Option.map_eq_some_iff] at hq
        obtain ⟨p, hp, rfl⟩ := hq
        exact ⟨p, hp, (keep p hp).address.symm⟩
      · rw [State.mapPeer_peer_other _ _ e] at hq
        exact ⟨q, hq, rfl⟩
    intro j k p q hp hq e
    obtain ⟨p', hp', ep⟩ := same j p hp
    obtain ⟨q', hq', eq⟩ := same k q hq
    exact h j k p' q' hp' hq' (ep.trans (e.trans eq.symm))
  | claimed i a t here vacant new =>
    have stands (j : Nat) (q : Peer) (hj : i ≠ j)
        (hq : (s.mapPeers fun l => tableSet l i (some (claimedPeer a t here))).peer j = some q) :
        s.peer j = some q := by
      rwa [State.peer, State.mapPeers_peers, tableGet_tableSet_other _ _ hj] at hq
    have claimed (q : Peer) (hq : (s.mapPeers fun l => tableSet l i (some (claimedPeer a t here))).peer i =
        some q) : q.address = a := by
      rw [State.peer, State.mapPeers_peers] at hq
      have hr := tableGet_range hq
      rw [tableGet_tableSet_same _ hr.1 (by simpa using hr.2)] at hq
      cases hq
      rfl
    intro j k p q hp hq e
    by_cases ej : i = j <;> by_cases ek : i = k
    · exact ej.symm.trans ek
    · subst ej
      exact absurd (e.symm.trans (claimed p hp)) (new k q (stands k q ek hq))
    · subst ek
      exact absurd (e.trans (claimed q hq)) (new j p (stands j p ej hp))
    · exact h j k p q (stands j p ej hp) (stands k q ek hq) e
  | released i =>
    have stands (j : Nat) (q : Peer) (hq : tableGet (tableSet s.peers i none) j = some q) :
        s.peer j = some q := by
      by_cases e : i = j
      · subst e
        have hr := tableGet_range hq
        rw [tableGet_tableSet_same _ hr.1 (by simpa using hr.2)] at hq
        cases hq
      · rwa [tableGet_tableSet_other _ _ e] at hq
    exact fun j k p q hp hq e => h j k p q (stands j p hp) (stands k q hq) e
  | abandonsAt pos => exact h.congr (by simp)
  | _ => exact h.congr rfl

theorem peersDistinct_kept : KeptBy PeersDistinct :=
  .of_effects (fun _ _ h => h) (fun _ _ h => h) (fun _ _ h => h) (fun _ _ h => h)
    (fun s h => by simp [PeersDistinct, State.peer, h.peers, resetPeers, tableGet_replicate_none])
    fun c s _ hc h => (effect_changes c hc s).keep (fun _ _ ch => ch.peersDistinct) h

/-! ### Counters and collections -/

/-- Every station counter lies within its 32 bits. -/
def StationCounted (s : State) : Prop := ∀ n ∈ counterList s.mgu.counters, n ≤ counterMax

theorem abandoned_range {c : Counters} (n : Nat) (h : ∀ m ∈ counterList c, m ≤ counterMax) :
    ∀ m ∈ counterList { c with abandoned := satAdd n c.abandoned }, m ≤ counterMax := by
  simp_all [counters_range_iff, satAdd_le]

theorem Change.stationCounted (c : Change σ s s') (h : StationCounted s) : StationCounted s' := by
  cases c with
  | counts f keeps => exact keeps.range h
  | judged f queue counters =>
    rw [StationCounted, State.mapMgu_mgu, judgeAttn_counters, counters]
    exact h
  | requests f flags mask attn counters queue =>
    rw [StationCounted, State.mapMgu_mgu, counters]
    exact h
  | record i f keeps => simpa [StationCounted] using h
  | abandons p => exact abandoned_range _ h
  | abandonsAt pos =>
    unfold abandonAt
    split
    · exact h
    · exact abandoned_range 1 h
  | _ => exact h

theorem stationCounted_kept : KeptBy StationCounted :=
  .of_effects (fun _ _ h => h) (fun _ _ h => h) (fun _ _ h => h) (fun _ _ h => h)
    (fun s h => by rw [StationCounted, h.mgu]; exact fun n hn => (resetCounters_zero n hn).le.trans (Nat.zero_le _))
    fun c s _ hc h => (effect_changes c hc s).keep (fun _ _ ch => ch.stationCounted) h

theorem countersInRange_kept : KeptBy CountersInRange :=
  stationCounted_kept.and (records_kept (fun _ _ k h => k.counters h) fun a t here => by
    simp [claimedPeer, peerCounterList])

/-- R132, R140: freeing an entry leaves the length of the table. -/
theorem abandonAt_table_length (pos : Nat) (s : State) :
    (abandonAt pos s).rxa.table.length = s.rxa.table.length := by
  unfold abandonAt
  split <;> simp

theorem egressChoice_lengths (s : State) :
    (egressChoice s).ptu.fifo.length ≤ s.ptu.fifo.length ∧ (egressChoice s).ptu.slot.length ≤ s.ptu.slot.length ∧
    (egressChoice s).ptu.fwd = s.ptu.fwd ∧ (egressChoice s).ptu.priority = s.ptu.priority ∧
    (egressChoice s).ptu.defaultLevel = s.ptu.defaultLevel := by
  rcases egressChoice_cases s with e | ⟨-, -, e⟩
  · rw [e]
    exact ⟨le_rfl, le_rfl, rfl, rfl, rfl⟩
  · rw [e]
    simp only [State.mapPtu_ptu, startNext]
    split <;> simp_all

theorem isImage_capacities {c : ConfigImage} (h : IsImage c) :
    c.lifetimes.length = levelCount ∧ c.floor ≤ 7 ∧ c.notch.length = groupCount ∧
    (c.priority.length = levelCount ∧ ∀ l ∈ c.priority, l ≤ 7) ∧ c.defaultLevel ≤ 7 := by
  obtain ⟨source, bs, rfl⟩ := h
  refine ⟨by simp [readConfig], min_le_left _ _, by simp [readConfig, readNotch], ⟨by simp [readConfig], ?_⟩,
    min_le_left _ _⟩
  intro l hl
  obtain ⟨k, -, rfl⟩ := List.mem_map.mp hl
  exact min_le_left _ _

/-- The capacities but for those within a record. -/
structure Capacities (s : State) : Prop where
  peers : s.peers.length = peerCount
  reviews : s.lae.reviews.length = peerCount
  queues : s.tsc.queues.length = levelCount
  lifetimes : s.tsc.lifetimes.length = levelCount
  bcastTags : s.tsc.bcastTags.length = levelCount
  table : s.rxa.table.length = entryCount
  fwd : s.ptu.fwd.length = forwardCount
  fifo : s.ptu.fifo.length ≤ fifoCapacity
  slot : s.ptu.slot.length ≤ slotCapacity
  requests : s.mgu.queue.length ≤ requestCapacity
  levels : s.mgu.counters.levels.length = levelCount
  notch : s.lmd.notch.length = groupCount
  priority : s.ptu.priority.length = levelCount ∧ ∀ l ∈ s.ptu.priority, l ≤ 7
  defaultLevel : s.ptu.defaultLevel ≤ 7
  floor : s.tsc.floor ≤ 7

theorem withinCapacity_iff (s : State) : WithinCapacity s ↔
    Capacities s ∧ ∀ p ∈ s.peers.filterMap id, p.recent.length ≤ recentCapacity :=
  ⟨fun ⟨a, b, c, d, e, f, g, h, i, j, k, l, m, n, o, p⟩ => ⟨⟨a, b, c, d, e, f, g, h, i, j, k, l, m, n, o⟩, p⟩,
    fun ⟨⟨a, b, c, d, e, f, g, h, i, j, k, l, m, n, o⟩, p⟩ => ⟨a, b, c, d, e, f, g, h, i, j, k, l, m, n, o, p⟩⟩

theorem Change.capacities (c : Change σ s s') (h : Capacities s) : Capacities s' := by
  cases c with
  | modem f notch line => exact { h with notch := notch ▸ h.notch }
  | sends f notch online out => exact { h with notch := notch ▸ h.notch }
  | record i f keeps =>
    rcases mapPeer_cases i f s with ⟨-, e⟩ | ⟨p, -, e⟩
    · rwa [e]
    · rw [e]
      exact { h with peers := by simpa using h.peers }
  | claimed i a t here => exact { h with peers := by simpa using h.peers }
  | released i => exact { h with peers := by simpa using h.peers, fwd := by simpa using h.fwd }
  | reviews f length => exact { h with reviews := length ▸ h.reviews }
  | scheduler f keeps =>
    exact { h with
      queues := keeps.queues ▸ h.queues, lifetimes := keeps.lifetimes ▸ h.lifetimes
      bcastTags := keeps.bcastTags ▸ h.bcastTags, floor := keeps.floor h.floor }
  | service f table => exact { h with table := table ▸ h.table }
  | abandons p => exact { h with table := by simpa [abandonEntries] using h.table }
  | abandonsAt pos =>
    unfold abandonAt
    split
    · exact h
    · exact { h with table := by simpa using h.table }
  | stored pos e d => exact { h with table := by simpa using h.table }
  | opened pos d => exact { h with table := by simpa using h.table }
  | delivered pos e at_pos room =>
    exact { h with table := by simpa [clearedAt] using h.table, fifo := by simpa [clearedAt] using room }
  | returned pos e => exact { h with table := by simpa [clearedAt] using h.table }
  | port f fwd fifo egress priority level slot =>
    exact { h with
      fwd := fwd ▸ h.fwd, fifo := fifo ▸ h.fifo, slot := slot h.slot
      priority := priority ▸ h.priority, defaultLevel := level ▸ h.defaultLevel }
  | choice =>
    obtain ⟨fifo, slot, fwd, priority, level⟩ := egressChoice_lengths s
    exact { h with
      fwd := fwd ▸ h.fwd, fifo := fifo.trans h.fifo, slot := slot.trans h.slot
      priority := priority ▸ h.priority, defaultLevel := level ▸ h.defaultLevel }
  | learned pos a i t => exact { h with fwd := by simpa using h.fwd }
  | aged pos => exact { h with fwd := by simpa using h.fwd }
  | counts f keeps => exact { h with levels := keeps.levels.trans h.levels }
  | judged f queue counters =>
    exact { h with requests := queue ▸ h.requests, levels := counters ▸ h.levels }
  | requests f flags mask attn counters queue =>
    exact { h with requests := queue h.requests, levels := counters ▸ h.levels }
  | configures c image before =>
    obtain ⟨lifetimes, floor, notch, priority, level⟩ := isImage_capacities image
    exact { h with
      lifetimes := lifetimes, floor := floor, notch := notch, priority := priority, defaultLevel := level }
  | _ => exact { h with }

theorem capacities_kept : KeptBy Capacities := by
  refine .of_effects (fun _ _ h => { h with }) (fun _ _ h => { h with }) (fun _ _ h => { h with })
    (fun _ _ h => { h with }) (fun s h => ?_)
    fun c s _ hc h => (effect_changes c hc s).keep (fun _ _ ch => ch.capacities) h
  obtain ⟨e, r, ptu⟩ := h.ptu
  obtain ⟨low, lmd, clc, peers, lae, tsc, bpm, rxa, -, mgu, suc⟩ := h
  constructor <;> simp only [lmd, peers, lae, tsc, rxa, ptu, mgu]
  case fwd => exact List.length_replicate
  all_goals decide

theorem withinCapacity_kept : KeptBy WithinCapacity := by
  rw [funext fun s => propext (withinCapacity_iff s)]
  exact capacities_kept.and (records_kept (fun _ _ k h => k.recent h) fun a t here => by simp [claimedPeer])

/-! ### Forwarding entries (R150) -/

/-- What stands in a table after an entry has gone from a position. -/
theorem tableGet_tableSet_none {α : Type} {l : List (Option α)} {i n : Nat} {x : α}
    (h : tableGet (tableSet l i none) n = some x) : tableGet l n = some x ∧ i ≠ n := by
  by_cases e : i = n
  · subst e
    have hr := tableGet_range h
    rw [tableGet_tableSet_same _ hr.1 (by simpa using hr.2)] at h
    cases h
  · rw [tableGet_tableSet_other _ _ e] at h
    exact ⟨h, e⟩

/-- What stands in a table after an entry has been set at a position. -/
theorem tableGet_tableSet_some {α : Type} {l : List (Option α)} {i n : Nat} {x y : α}
    (h : tableGet (tableSet l i (some y)) n = some x) : (i = n ∧ x = y) ∨ (i ≠ n ∧ tableGet l n = some x) := by
  by_cases e : i = n
  · subst e
    have hr := tableGet_range h
    rw [tableGet_tableSet_same _ hr.1 (by simpa using hr.2)] at h
    exact .inl ⟨rfl, (Option.some.inj h).symm⟩
  · rw [tableGet_tableSet_other _ _ e] at h
    exact .inr ⟨e, h⟩

/-- What stands in a table after the entries satisfying `p` have gone. -/
theorem tableGet_vacate {α : Type} {p : α → Bool} {l : List (Option α)} {n : Nat} {x : α} :
    tableGet (vacate p l) n = some x ↔ tableGet l n = some x ∧ p x = false := by
  rw [vacate_eq_filter]
  cases n with
  | zero => simp [tableGet]
  | succ k =>
    cases h : l[k]? with
    | none => simp [tableGet, h]
    | some y => simp [tableGet, h, Option.filter_eq_some_iff]

theorem ForwardSound.fewer (h : ForwardSound s)
    (entries : ∀ n e, tableGet s'.ptu.fwd n = some e → tableGet s.ptu.fwd n = some e)
    (active : ∀ i e, tableGet s'.ptu.fwd i = some e → (s.peer e.peer).isSome = true →
      (s'.peer e.peer).isSome = true) : ForwardSound s' where
  distinct m n e f he hf := h.distinct m n e f (entries m e he) (entries n f hf)
  individual n e he := h.individual n e (entries n e he)
  active n e he := active n e he (h.active n e (entries n e he))

theorem ForwardSound.congr (h : ForwardSound s) (fwd : s'.ptu.fwd = s.ptu.fwd)
    (active : ∀ i, (s.peer i).isSome = true → (s'.peer i).isSome = true) : ForwardSound s' :=
  h.fewer (fun _ _ he => fwd ▸ he) fun _ e _ => active e.peer

theorem ForwardSound.same (h : ForwardSound s) (fwd : s'.ptu.fwd = s.ptu.fwd) (peers : s'.peers = s.peers) :
    ForwardSound s' := h.congr fwd fun _ hi => by rwa [State.peer, peers]

theorem Change.forwardSound (c : Change σ s s') (h : ForwardSound s) : ForwardSound s' := by
  cases c with
  | record i f keeps =>
    refine h.congr (by simp) fun j hj => ?_
    by_cases e : i = j
    · subst e
      simpa [State.mapPeer_peer_same] using hj
    · rwa [State.mapPeer_peer_other _ _ e]
  | claimed i a t here vacant new =>
    refine h.congr rfl fun j hj => ?_
    have e : i ≠ j := by
      rintro rfl
      simp [vacant] at hj
    rwa [State.peer, State.mapPeers_peers, tableGet_tableSet_other _ _ e]
  | released i =>
    refine h.fewer (fun n e he => (tableGet_vacate.mp he).1) fun n e he hj => ?_
    have hi : e.peer ≠ i := by simpa using (tableGet_vacate.mp he).2
    rwa [State.peer, State.mapPeers_peers, tableGet_tableSet_other _ _ hi.symm]
  | abandonsAt pos => exact h.same (by simp) (by simp)
  | port f fwd => exact h.same fwd rfl
  | choice =>
    obtain ⟨-, -, fwd, -⟩ := egressChoice_lengths s
    exact h.same fwd rfl
  | learned pos a i t individual active place =>
    constructor
    · intro m n e f he hf same
      rcases tableGet_tableSet_some he with ⟨hm, ee⟩ | ⟨hm, he⟩ <;>
        rcases tableGet_tableSet_some hf with ⟨hn, ef⟩ | ⟨hn, hf⟩
      · exact hm.symm.trans hn
      · exact absurd (place n f hf (by rw [← same, ee]) h).symm hn
      · exact absurd (place m e he (by rw [same, ef]) h).symm hm
      · exact h.distinct m n e f he hf same
    · intro n e he
      rcases tableGet_tableSet_some he with ⟨-, rfl⟩ | ⟨-, he⟩
      · exact individual
      · exact h.individual n e he
    · intro n e he
      rcases tableGet_tableSet_some he with ⟨-, rfl⟩ | ⟨-, he⟩
      · exact active
      · exact h.active n e he
  | aged pos => exact h.fewer (fun n e he => (tableGet_tableSet_none he).1) fun _ _ _ => id
  | _ => exact h.same rfl rfl

theorem forwardSound_kept : KeptBy ForwardSound := by
  refine .of_effects (fun _ _ h => h.same rfl rfl) (fun _ _ h => h.same rfl rfl)
    (fun _ _ h => h.same rfl rfl) (fun _ _ h => h.same rfl rfl) (fun s h => ?_)
    fun c s _ hc h => (effect_changes c hc s).keep (fun _ _ ch => ch.forwardSound) h
  obtain ⟨e, r, ptu⟩ := h.ptu
  have empty (n : Nat) : tableGet s.ptu.fwd n = none := by
    rw [ptu]
    exact tableGet_replicate_none _ n
  constructor <;> simp [empty]

/-! ### Reassembly entries (R131) -/

theorem EntriesSound.fewer (h : EntriesSound s)
    (entries : ∀ n e, tableGet s'.rxa.table n = some e → tableGet s.rxa.table n = some e) :
    EntriesSound s' where
  distinct m n e f he hf := h.distinct m n e f (entries m e he) (entries n f hf)
  filled n e he := h.filled n e (entries n e he)

theorem EntriesSound.congr (h : EntriesSound s) (table : s'.rxa.table = s.rxa.table) : EntriesSound s' :=
  h.fewer fun _ _ he => table ▸ he

/-- An entry with a block is set at a position, no other having its key. -/
theorem EntriesSound.set {pos : Nat} {d : Entry} (h : EntriesSound s) (filled : d.blocks ≠ [])
    (new : ∀ n e, tableGet s.rxa.table n = some e → pos ≠ n → ¬e.sameKey d)
    (table : s'.rxa.table = tableSet s.rxa.table pos (some d)) : EntriesSound s' := by
  constructor
  · intro m n e f he hf a b c x
    rw [table] at he hf
    rcases tableGet_tableSet_some he with ⟨hm, rfl⟩ | ⟨hm, he⟩ <;>
      rcases tableGet_tableSet_some hf with ⟨hn, ef⟩ | ⟨hn, hf⟩
    · exact hm.symm.trans hn
    · exact absurd ⟨a.symm, b.symm, c.symm, x.symm⟩ (new n f hf hn)
    · exact absurd (ef ▸ ⟨a, b, c, x⟩) (new m e he hm)
    · exact h.distinct m n e f he hf a b c x
  · intro n e he
    rw [table] at he
    rcases tableGet_tableSet_some he with ⟨-, rfl⟩ | ⟨-, he⟩
    · exact filled
    · exact h.filled n e he

theorem Change.entriesSound (c : Change σ s s') (start : EntriesSound σ) (h : EntriesSound s) :
    EntriesSound s' := by
  cases c with
  | service f table => exact h.congr table
  | abandons p => exact h.fewer fun n e he => (tableGet_vacate.mp he).1
  | abandonsAt pos => exact h.fewer fun n e he => (abandonAt_table _ _ _ _ he).2
  | stored pos e d at_pos free key one =>
    refine h.set (List.ne_nil_of_length_pos (by omega)) (fun n f hf hn same => hn ?_) rfl
    obtain ⟨a, b, c, x⟩ := key
    obtain ⟨a', b', c', x'⟩ := same
    exact (h.distinct n pos f e hf at_pos (a'.trans a) (b'.trans b) (c'.trans c) (x'.trans x)).symm
  | opened pos d vacant free one new =>
    exact h.set (List.ne_nil_of_length_pos (by omega)) (fun n e he _ => new start n e he) rfl
  | delivered pos e => exact h.fewer fun n e he => (tableGet_tableSet_none he).1
  | returned pos e => exact h.fewer fun n e he => (tableGet_tableSet_none he).1
  | record i f keeps => exact h.congr (by simp)
  | _ => exact h.congr rfl

theorem entriesSound_kept : KeptBy EntriesSound := by
  refine .of_effects (fun _ _ h => h.congr rfl) (fun _ _ h => h.congr rfl) (fun _ _ h => h.congr rfl)
    (fun _ _ h => h.congr rfl) (fun s h => ?_)
    fun c s _ hc h => (effect_changes c hc s).keep (fun _ _ ch => ch.entriesSound h) h
  have empty (n : Nat) : tableGet s.rxa.table n = none := by
    rw [h.rxa]
    exact tableGet_replicate_none _ n
  constructor <;> simp [empty]

/-! ### Notched groups (R20, R36) -/

theorem notched_silent (notch : List Bool) : Notched notch .silent := by
  simp [Notched, LineOut.symbols]

/-- In the course of a command: notched groups are silent, nothing is sent off line, and a station that was
ONLINE is. -/
structure SilentSince (σ s : State) : Prop where
  notched : Notched s.lmd.notch s.lmd.lineOut
  offline : s.suc.station ≠ .online → s.lmd.lineOut = .silent
  online : σ.suc.station = .online → s.suc.station = .online

theorem SilentSince.congr (h : SilentSince σ s) (lmd : s'.lmd = s.lmd) (suc : s'.suc = s.suc) :
    SilentSince σ s' := by
  refine ⟨?_, ?_, ?_⟩
  · rw [lmd]; exact h.notched
  · rw [lmd, suc]; exact h.offline
  · rw [suc]; exact h.online

theorem Change.silentSince (c : Change σ s s') (mode : ModeShape σ) (h : SilentSince σ s) :
    SilentSince σ s' := by
  cases c with
  | modem f notch line =>
    rcases line with e | e
    · exact ⟨by rw [State.mapLmd_lmd, notch, e]; exact h.notched, fun n => e.trans (h.offline n), h.online⟩
    · exact ⟨by rw [State.mapLmd_lmd, e]; exact notched_silent _, fun _ => e, h.online⟩
  | sends f notch online out =>
    refine ⟨by rw [State.mapLmd_lmd, notch]; exact out, fun n => absurd ?_ n, h.online⟩
    exact online.elim (fun o => h.online (o mode)) id
  | startUp f before later =>
    exact ⟨h.notched, fun _ => h.offline before, fun n => absurd (h.online n) before⟩
  | configures c image before =>
    have silent : (configured c s).lmd.lineOut = .silent := h.offline before
    exact ⟨by rw [silent]; exact notched_silent _, fun _ => silent, fun _ => rfl⟩
  | record i f keeps => exact h.congr (by simp) (by simp)
  | abandonsAt pos => exact h.congr (by simp) (by simp)
  | _ => exact h.congr rfl rfl

theorem notchedSilent_of {s : State} (silent : s.lmd.lineOut = .silent) : NotchedSilent s :=
  ⟨by rw [silent]; exact notched_silent _, fun _ => silent⟩

theorem notchedSilent_kept : KeptBy fun s => ModeShape s ∧ NotchedSilent s := by
  have congr {s s' : State} (h : ModeShape s ∧ NotchedSilent s) (suc : s'.suc = s.suc) (lmd : s'.lmd = s.lmd)
      (clc : s'.clc = s.clc) (tsc : s'.tsc = s.tsc) : ModeShape s' ∧ NotchedSilent s' := by
    refine ⟨h.1.of_parts (by rw [suc]) (by rw [lmd]) (by rw [lmd]) (by rw [lmd]) clc (by rw [tsc]), ?_, ?_⟩
    · rw [lmd]; exact h.2.notched
    · rw [suc, lmd]; exact h.2.offline
  refine .of_effects (fun _ _ h => congr h rfl rfl rfl rfl) (fun _ _ h => congr h rfl rfl rfl rfl)
    (fun _ _ h => congr h rfl rfl rfl rfl) (fun s t h => ⟨modeShape_kept.nrst s t h.1, notchedSilent_of rfl⟩)
    (fun s h => ?_) fun c s live hc h => ?_
  · refine ⟨?_, notchedSilent_of (by rw [h.lmd]; rfl)⟩
    exact ⟨fun _ => by simp [h.lmd, h.clc, resetLmd, resetClc], fun o => absurd o h.suc, by
      simp [h.lmd, resetLmd], by simp [h.lmd, resetLmd], by simp [h.lmd, h.clc, resetLmd, resetClc], by
      simp [h.lmd, resetLmd], by simp [h.clc, h.tsc, resetTsc, resetClc], by simp [h.clc, resetClc], by
      simp [h.clc, resetClc], by simp [h.clc, resetClc], by simp [h.clc, resetClc], by simp [h.clc, resetClc], by
      simp [h.clc, resetClc]⟩
  · have since : SilentSince s s := ⟨h.2.notched, h.2.offline, id⟩
    have := (effect_changes c hc s).keep (fun _ _ ch => ch.silentSince h.1) since
    exact ⟨effect_modeShape c h.1, this.notched, this.offline⟩

end Sys2Proof.Machine
end

section
/-! How an invariant of the scheduler and its pools is kept by every step: the operations that touch them. -/

namespace Sys2Proof.Machine

/-- What the transmit side holds outside the scheduler: its pools, the frame in ingress and the levels that the
port gives. -/
def txView (s : State) : (Nat × Nat × Nat × Nat) × Option Ingress × List Nat × Nat :=
  ((s.bpm.txFree, s.bpm.txDesc, s.bpm.ctlFree, s.bpm.ctlDesc), s.ptu.ingress, s.ptu.priority,
    s.ptu.defaultLevel)

/-- What an invariant of the scheduler and its pools needs to be kept by every effect. -/
structure TscRules (P : State → Prop) : Prop where
  stands : ∀ {s s' : State}, P s → s'.tsc = s.tsc → txView s' = txView s → P s'
  decides : ∀ {s : State}, P s → P (claimDecision s).1
  reports : ∀ {s : State}, P s → P (recompute s)
  cuts : ∀ {s : State}, P s → P (cutBurst s)
  result : ∀ {s : State} (b : BurstOnLine) (acc : List Bool), P s → P (applyResult b acc s)
  expiry : ∀ {s : State} (k : FrameKind) (d : Nat), P s → P (frameExpiry k d s)
  releases : ∀ {s : State} (i : Nat), P s → P (releasePeer i s)
  notice : ∀ {s : State} (i : Nat) (b : List Byte), P s → P (admitNotice i b s)
  floor : ∀ {s : State} (n : Nat), n ≤ 7 → P s → P (recompute (s.mapTsc fun t => { t with floor := n }))
  applies : ∀ {s : State} (c : ConfigImage), IsImage c → P s → P (applyConfig c s)
  arrives : ∀ {s : State} (b : List Byte) (x : Bool), P s → P (arrive b x s)
  frame : ∀ {s : State} (b : List Byte) (x : Bool), P s → P (portFrameReceived b x s)

/-! ### Operations that leave the transmit side -/

variable {s : State}

@[simp] theorem egressChoice_txView (s : State) : txView (egressChoice s) = txView s := by
  rcases egressChoice_cases s with e | ⟨-, -, e⟩
  · rw [e]
  · rw [e]
    simp only [txView, State.mapPtu_ptu, State.mapPtu_bpm, startNext]
    split <;> rfl

@[simp] theorem learnAddress_txView (a : Addr) (i : Nat) (s : State) :
    txView (learnAddress a i s) = txView s := by
  unfold learnAddress
  dsimp only
  split
  · split
    · rfl
    · split
      · rfl
      · split <;> rfl
  · rfl

@[simp] theorem abandonAt_txView (pos : Nat) (s : State) : txView (abandonAt pos s) = txView s := by
  unfold abandonAt
  split <;> rfl

@[simp] theorem mapPeer_txView (i : Nat) (f : Peer → Peer) (s : State) : txView (s.mapPeer i f) = txView s := by
  simp [txView]

@[simp] theorem acceptBlock_txView (sv : Service) (i : Nat) (s : State) :
    txView (acceptBlock sv i s) = txView s := by
  simp [txView]

@[simp] theorem refuseForBuffer_txView (s : State) : txView (refuseForBuffer s) = txView s := by
  simp [txView]

theorem deliverData_txView (e : Entry) (s : State) : txView (deliverData e s) = txView s := by
  unfold deliverData
  split
  · dsimp only
    rw [egressChoice_txView, learnAddress_txView]
    rfl
  · rfl

theorem deliverNotice_txView (e : Entry) (s : State) : txView (deliverNotice e s) = txView s := by
  simp [deliverNotice, txView]

theorem completeFrame_txView (pos : Nat) (e : Entry) (s : State) :
    txView (completeFrame pos e s) = txView s := by
  unfold completeFrame
  dsimp only
  have hr : txView (if e.bcast then s else s.mapPeer e.sender fun p =>
      { p with recent := appendRecent (e.level, e.tag) p.recent }) = txView s := by
    split
    · rfl
    · exact mapPeer_txView _ _ _
  split
  · exact (deliverData_txView e _).trans hr
  · exact (deliverNotice_txView e _).trans hr

theorem storeBlock_txView (sv : Service) (i pos : Nat) (e : Entry) (s : State) :
    txView (storeBlock sv i pos e s) = txView s := by
  unfold storeBlock
  dsimp only
  split
  · exact (completeFrame_txView _ _ _).trans (acceptBlock_txView _ _ _)
  · exact acceptBlock_txView _ _ _

theorem openEntry_txView (sv : Service) (i : Nat) (h : BlockHeader) (b : List Byte) (s : State) :
    txView (openEntry sv i h b s) = txView s := by
  have room : txView (makeRoom s) = txView s := by
    unfold makeRoom
    split
    · rfl
    · split
      · split
        · exact abandonAt_txView _ _
        · rfl
      · rfl
  unfold openEntry
  dsimp only
  split
  · exact (refuseForBuffer_txView _).trans room
  · split
    · exact (refuseForBuffer_txView _).trans room
    · exact (storeBlock_txView _ _ _ _ _).trans room

theorem takeBlock_txView (i : Nat) (b : List Byte) (x : Bool) (s : State) :
    txView (takeBlock i b x s) = txView s := by
  unfold takeBlock
  split
  · rfl
  · dsimp only
    split
    · unfold decideBlock
      split
      · exact acceptBlock_txView _ _ _
      · split
        · exact openEntry_txView _ _ _ _ _
        · split
          · split
            · exact acceptBlock_txView _ _ _
            · split
              · exact refuseForBuffer_txView _
              · exact storeBlock_txView _ _ _ _ _
          · exact (openEntry_txView _ _ _ _ _).trans (abandonAt_txView _ _)
    · rfl

theorem blockHanded_txView (x : SymbolsHeard) (s : State) : txView (blockHanded x s) = txView s := by
  unfold blockHanded
  split
  · rfl
  · split
    · rfl
    · dsimp only
      split
      · exact takeBlock_txView _ _ _ _
      · rfl

theorem egressLastByte_txView (s : State) : txView (egressLastByte s) = txView s := by
  unfold egressLastByte
  split <;> rfl

theorem egressGapEnd_txView (s : State) : txView (egressGapEnd s) = txView s := by
  unfold egressGapEnd
  split
  · exact egressChoice_txView _
  · rfl

theorem pauseEnd_txView (s : State) : txView (pauseEnd s) = txView s := by
  unfold pauseEnd
  split
  · split
    · exact egressChoice_txView _
    · rfl
  · rfl

theorem forwardingAging_txView (pos : Nat) (s : State) : txView (forwardingAging pos s) = txView s := by
  unfold forwardingAging
  split
  · split <;> rfl
  · rfl

theorem reassemblyTimeout_txView (pos : Nat) (s : State) : txView (reassemblyTimeout pos s) = txView s := by
  unfold reassemblyTimeout
  split
  · split
    · exact abandonAt_txView _ _
    · rfl
  · rfl

@[simp] theorem offerReply_txView (r : Reply) (s : State) : txView (offerReply r s) = txView s := by
  unfold offerReply
  split
  · exact egressChoice_txView _
  · rfl

@[simp] theorem answer_txView (r : Request) (c : ResultCode) (b : List Byte) (s : State) :
    txView (answer r c b s) = txView s := offerReply_txView _ _

theorem replyPlaced_txView (s : State) : txView (replyPlaced s) = txView s := by
  unfold replyPlaced
  split
  · split
    · exact egressChoice_txView _
    · rfl
  · rfl

/-! ### Effects -/

section TscRules

variable {P : State → Prop} (r : TscRules P)
include r

/-- A state that differs outside the scheduler, its pools and the port alone. -/
theorem TscRules.same {s' : State} (h : P s) (tsc : s'.tsc = s.tsc) (bpm : s'.bpm = s.bpm)
    (ptu : s'.ptu = s.ptu) : P s' := r.stands h tsc (by rw [txView, bpm, ptu]; rfl)

theorem TscRules.openClaim (t : Time) (h : P s) : P (openClaim t s) := by
  rcases openClaim_cases t s with ⟨-, e⟩ | ⟨l, -, e⟩
  · rw [e]
    exact r.decides h
  · rw [e]
    exact r.same (r.decides h) (by simp) (by simp) (by simp)

theorem TscRules.quietReport (h : P s) : P (quietReport s) := by
  unfold Machine.quietReport
  split
  · dsimp only
    split
    · exact r.same h rfl rfl rfl
    · split
      · exact r.openClaim _ (r.same h rfl rfl rfl)
      · exact r.same h rfl rfl rfl
    · exact r.same h rfl rfl rfl
  · exact h

theorem TscRules.openingInstant (h : P s) : P (openingInstant s) := by
  unfold Machine.openingInstant
  split
  · split
    · have hd := r.decides h
      split
      next s' l e =>
        rw [e] at hd
        exact r.same hd (by simp) (by simp) (by simp)
      next s' e =>
        rw [e] at hd
        exact r.same hd rfl rfl rfl
    · exact h
  · exact h

theorem TscRules.markSlotListenEnd (h : P s) : P (markSlotListenEnd s) := by
  have hl : P (lapse s) := r.same h (by simp) (by simp) (by simp)
  unfold Machine.markSlotListenEnd
  split
  · dsimp only
    split
    · split
      · exact r.openClaim _ (r.same hl rfl rfl rfl)
      · exact r.same hl rfl rfl rfl
    · exact hl
  · exact h

theorem TscRules.claimPeriodEnd (h : P s) : P (claimPeriodEnd s) := by
  rcases claimPeriodEnd_cases s with e | ⟨m, -, -, -, e⟩ | ⟨-, -, e⟩
  · rw [e]
    exact r.same h (by simp) (by simp) (by simp)
  · rw [e]
    unfold winPeriod
    generalize ht : ((count _ (silence (lapse s))).mapClc wonPeriod).mapLcu _ = t
    have hp : P t := r.same h (by simp [← ht]) (by simp [← ht]) (by simp [← ht])
    exact r.same (r.cuts hp) (by simp) (by simp) (by simp)
  · rw [e]
    exact r.same h (by simp) (by simp) (by simp)

theorem TscRules.ownPayloadEnd (h : P s) : P (ownPayloadEnd s) := by
  unfold Machine.ownPayloadEnd
  split
  · exact h
  · dsimp only
    split
    · unfold endOwnPayload
      split
      · exact r.same h rfl rfl rfl
      · exact r.same (r.result _ _ (r.same h (by simp) (by simp) (by simp))) rfl rfl rfl
    · exact h

theorem TscRules.applyReceipt (i : Nat) (b : BurstOnLine) (x : Option Receipt) (h : P s) :
    P (applyReceipt i b x s) := by
  unfold Machine.applyReceipt
  split
  · exact r.result _ _ (r.same h (by simp) (by simp) (by simp))
  · split
    · exact r.result _ _ (r.same h (by simp) (by simp) (by simp))
    · exact r.result _ _ (r.same h (by simp) (by simp) (by simp))

theorem TscRules.receiptSlotEnd (x : Option ReceiptHeard) (h : P s) : P (receiptSlotEnd x s) := by
  unfold Machine.receiptSlotEnd
  split
  · split
    · exact h
    · dsimp only
      split
      · unfold endReceiptSlot takeDeferred
        dsimp only
        have ha (i : Nat) (b : BurstOnLine) (y : Option Receipt) (t : Time) := r.applyReceipt i b y
          (r.same (s' := (enterListen (s.mapLmd fun m => { m with expect := none })).mapClc (freeAt t)) h
            rfl rfl rfl)
        split
        · split
          · exact r.releases _ (ha _ _ _ _)
          · exact ha _ _ _ _
        · exact ha _ _ _ _
      · exact h
  · exact h

theorem TscRules.silenceInstant (i : Nat) (h : P s) : P (silenceInstant i s) := by
  unfold Machine.silenceInstant
  split
  · exact h
  · split
    · split
      · exact r.same h (by simp) (by simp) (by simp)
      · exact r.releases i h
    · exact h

theorem TscRules.queueCurrentSet (i : Nat) (h : P s) : P (queueCurrentSet i s) := by
  unfold Machine.queueCurrentSet
  split
  · exact h
  · exact r.notice i _ (r.same h (by simp) (by simp) (by simp))

theorem TscRules.completeReview (i : Nat) (h : P s) : P (completeReview i s) := by
  unfold Machine.completeReview
  split
  · dsimp only
    split
    · unfold noticeDecision
      split
      · exact r.same h (by simp) (by simp) (by simp)
      · split
        · exact r.queueCurrentSet i (r.same h (by simp) (by simp) (by simp))
        · exact r.same h (by simp) (by simp) (by simp)
    · exact r.same h rfl rfl rfl
  · exact h

theorem TscRules.learnSender (a : Addr) (here : Bool) (h : P s) : P (learnSender a here s).1 := by
  unfold Machine.learnSender
  split
  · exact r.same h (by simp) (by simp) (by simp)
  · split
    · exact r.same h (by simp) (by simp) (by simp)
    · split
      next i _ => exact r.same (r.releases i h) (by simp) (by simp) (by simp)
      · exact r.same h (by simp) (by simp) (by simp)

theorem TscRules.recoverNotices (i : Nat) (x : Header) (t : MapTest) (h : P s) :
    P (recoverNotices i x t s) := by
  unfold Machine.recoverNotices
  split
  · exact h
  · have hr : P (s.mapPeer i fun p => { p with robustResend := some s.now }) :=
      r.same h (by simp) (by simp) (by simp)
    dsimp only
    split
    · split
      · exact r.queueCurrentSet i hr
      · exact hr
    · split
      · exact r.queueCurrentSet i h
      · exact h

theorem TscRules.serveHeader (i : Nat) (x : Header) (here : Bool) (h : P s) : P (serveHeader i x here s) := by
  unfold Machine.serveHeader
  split
  · exact r.same h rfl rfl rfl
  next p _ =>
    dsimp only
    have ho : P (openService i x here (mapTest p x.selector) (s.mapPeer i (discardPrevious x.selector))) :=
      r.same h (by simp) (by simp) (by simp)
    split
    · exact r.same (r.recoverNotices i x (mapTest p x.selector) ho) (by simp) (by simp) (by simp)
    · exact r.same ho (by simp) (by simp) (by simp)

theorem TscRules.headerOutcome (x : HeaderHeard) (h : P s) : P (headerOutcome x s) := by
  unfold Machine.headerOutcome
  split
  · exact h
  next b _ =>
    split
    · unfold takeHeader
      split
      · exact r.same h (by simp) (by simp) (by simp)
      next k _ =>
        split
        · exact r.same h (by simp) (by simp) (by simp)
        · unfold ownLabel
          dsimp only
          have hl := r.learnSender k.sender (addressedHere (declaredToClc (declaredFree b.start k) s) k)
            (r.same (s' := declaredToClc (declaredFree b.start k) s) h (by simp) (by simp) (by simp))
          split
          next s' e =>
            rw [e] at hl
            exact r.same hl rfl rfl rfl
          next s' i e =>
            rw [e] at hl
            have hf : P (fileMeasurement i b.measurement k.stamp s') :=
              r.same hl (by simp) (by simp) (by simp)
            split
            · exact r.serveHeader i k _ hf
            · exact r.same hf rfl rfl rfl
    · exact h

theorem TscRules.flashReadEnd (bs : List Byte) (h : P s) : P (flashReadEnd bs s) := by
  unfold Machine.flashReadEnd
  split
  · split
    · dsimp only
      split
      · exact r.applies _ ⟨_, _, rfl⟩ (r.same h rfl rfl rfl)
      · exact r.same h rfl rfl rfl
    · exact h
  · exact h

theorem TscRules.answer (q : Request) (c : ResultCode) (b : List Byte) (h : P s) : P (answer q c b s) :=
  r.stands h (by simp) (by simp)

theorem TscRules.takeRequest {kind : Byte → Bool} {act : Request → State → State} (h : P s)
    (acts : ∀ q s, P s → P (act q s)) : P (takeRequest kind act s) :=
  takeRequest_keeps h (fun _ h => r.same h rfl rfl rfl) acts

theorem TscRules.withArgs {need : Nat} {refused : State → List Byte} {act : Request → State → State}
    {q : Request} (h : P s) (acts : P s → P (act q s)) : P (withArgs need refused act q s) :=
  withArgs_keeps h (fun _ c b => r.answer q c b) acts

theorem TscRules.answerConfigLoad (q : Request) (h : P s) : P (answerConfigLoad q s) := by
  unfold Machine.answerConfigLoad
  split
  · split
    · exact r.answer _ _ _ (r.applies _ ⟨_, _, rfl⟩ h)
    · exact r.answer _ _ _ (r.same h rfl rfl rfl)
  · exact r.answer _ _ _ h

theorem TscRules.effect (c : Instr) (hc : resetsPart c = false) (h : P s) : P (effect c s) := by
  cases c with
  | nrstAssert t => cases hc
  | hardwareReset t strap => cases hc
  | restartTaken t => cases hc
  | qualifiedCrossing t =>
    unfold Machine.effect
    dsimp only
    split
    · exact r.same h (by simp) (by simp) (by simp)
    · exact h
  | quietReport t => exact r.quietReport h
  | openingInstant t => exact r.openingInstant h
  | markSlotListenEnd t => exact r.markSlotListenEnd h
  | claimPeriodEnd t => exact r.claimPeriodEnd h
  | headerOutcome t x => exact r.headerOutcome x h
  | reviewComplete t i => exact r.completeReview i h
  | blockHanded t x => exact r.stands h (by simp [Machine.effect]) (blockHanded_txView x s)
  | ownPayloadEnd t => exact r.ownPayloadEnd h
  | receiptSlotEnd t x => exact r.receiptSlotEnd x h
  | silenceInstant t i => exact r.silenceInstant i h
  | frameExpiry t k d => exact r.expiry k d h
  | reassemblyTimeout t pos => exact r.stands h (by simp [Machine.effect]) (reassemblyTimeout_txView pos s)
  | portFrameReceived t b x => exact r.frame b x h
  | pauseEnd t => exact r.stands h (by simp [Machine.effect]) (pauseEnd_txView s)
  | forwardingAging t pos => exact r.stands h (by simp [Machine.effect]) (forwardingAging_txView pos s)
  | egressLastByte t => exact r.stands h (by simp [Machine.effect]) (egressLastByte_txView s)
  | egressGapEnd t => exact r.stands h (by simp [Machine.effect]) (egressGapEnd_txView s)
  | replyPlaced t => exact r.stands h (by simp [Machine.effect]) (replyPlaced_txView s)
  | flashReadEnd t bs => exact r.flashReadEnd bs h
  | identify t => exact r.takeRequest h fun q s h => r.withArgs h (r.answer _ _ _)
  | status t => exact r.takeRequest h fun q s h => r.withArgs h fun h => r.answer _ _ _ (r.same h rfl rfl rfl)
  | eventMask t =>
    refine r.takeRequest h fun q s h => r.withArgs h fun h => ?_
    dsimp only
    split
    · exact r.answer _ _ _ (r.same h rfl rfl rfl)
    · split
      · exact r.answer _ _ _ (r.same h rfl rfl rfl)
      · exact r.answer _ _ _ h
  | floor t =>
    refine r.takeRequest h fun q s h => r.withArgs h fun h => ?_
    exact r.answer q .ok _ (r.floor _ (min_le_left _ _) h)
  | peerList t => exact r.takeRequest h fun q s h => r.withArgs h (r.answer _ _ _)
  | peerDetail t =>
    refine r.takeRequest h fun q s h => r.withArgs h fun h => ?_
    dsimp only
    split
    · split <;> exact r.answer _ _ _ h
    · exact r.answer _ _ _ h
  | configLoad t => exact r.takeRequest h fun q s h => r.answerConfigLoad q h
  | restart t =>
    exact r.takeRequest h fun q s h => r.withArgs h fun h => r.stands h (by simp) (by rw [offerReply_txView]; rfl)
  | unknownRequest t =>
    exact r.takeRequest (kind := fun c => !codeKnown c) (act := answerUnknown) h fun q s h => r.answer _ _ _ h
  | ingressBlockDraw t b x => exact r.arrives b x h
  | _ => exact r.same h (by simp [Machine.effect]) (by simp [Machine.effect]) (by simp [Machine.effect])

/-- An invariant with these rules that a reset gives is kept by every step. -/
theorem TscRules.kept (reset : ∀ s, AfterReset s → P s) : KeptBy P :=
  .of_effects (fun _ _ h => r.same h rfl rfl rfl) (fun _ _ h => r.same h rfl rfl rfl)
    (fun _ _ h => r.stands h rfl rfl) (fun _ _ h => r.stands h rfl rfl) reset
    fun c _ _ hc h => r.effect c hc h

end TscRules

end Sys2Proof.Machine
end

section
/-! The prospective claim level is the next decision's, and with it the registers that every step keeps. -/

namespace Sys2Proof.Machine

/-! ### Queues and frames from the port -/

/-- A queue after one queue has been changed. -/
theorem queueAt_updAt (t : Tsc) (l k : Nat) (f : List Frame → List Frame) :
    queueAt { t with queues := updAt t.queues l f } k =
      if l = k ∧ l < t.queues.length then f (queueAt t l) else queueAt t k := by
  unfold queueAt updAt
  simp only [List.getD_eq_getElem?_getD]
  split
  next x hx =>
    have hl : l < t.queues.length := (List.getElem?_eq_some_iff.mp hx).1
    by_cases e : l = k
    · subst e
      have : t.queues[l] = x := (List.getElem?_eq_some_iff.mp hx).2
      simp [hl, this]
    · simp [e]
  next hx =>
    have hl : ¬l < t.queues.length := by simpa using hx
    simp [hl]

/-- R145: a frame from the port is admitted or dropped at admission, or leaves the scheduler. -/
theorem classify_tsc (g : Ingress) (s : State) : (classify g s).tsc = s.tsc ∨
    classify g s = admitData (frameLevel s.ptu g.bytes) (frameDest s.ptu g.bytes) g.bytes g.drawn g.short s := by
  unfold classify
  split
  · exact .inl (by simp)
  · split
    · exact .inl (by simp)
    · split
      · exact .inl (by simp)
      · split
        · exact .inl (by simp)
        · split
          · exact .inl (by simp)
          · exact .inr rfl

theorem portFrameReceived_tsc (b : List Byte) (x : Bool) (s : State) :
    (portFrameReceived b x s).tsc = s.tsc ∨ ∃ (l : Nat) (d : Dest) (g : Ingress) (s' : State), s'.tsc = s.tsc ∧
      portFrameReceived b x s = admitData l d g.bytes g.drawn g.short s' := by
  unfold portFrameReceived
  dsimp only
  split
  · exact .inl (by simp)
  next g _ =>
    rcases classify_tsc g (count (fun c => { c with portReceived := satInc c.portReceived })
        (((arrive b x s).mapPtu fun p => p.withReceiving false).mapPtu fun p => { p with ingress := none }))
      with e | e
    · exact .inl (e.trans (by simp))
    · exact .inr ⟨_, _, g, _, (by simp : (count _ _).tsc = s.tsc), e⟩

/-! ### The prospective claim level (R113) -/

/-- The prospective claim level asks for the floor, for which queues are empty and for the level of the active
train. -/
theorem prospectiveLevel_congr {t u : Tsc} (floor : u.floor = t.floor)
    (queues : ∀ l, (queueAt u l).isEmpty = (queueAt t l).isEmpty)
    (active : u.active.map (·.level) = t.active.map (·.level)) : prospectiveLevel u = prospectiveLevel t := by
  have top : topQueue u = topQueue t := by simp [topQueue, floor, queues]
  have levels : newTrainLevel u = newTrainLevel t ∧ activeClaim u = activeClaim t := by
    unfold newTrainLevel activeClaim
    rw [top, floor]
    cases hu : u.active <;> cases ht : t.active <;> rw [hu, ht] at active
    · exact ⟨rfl, rfl⟩
    · cases active
    · cases active
    · have same := Option.some.inj active
      dsimp only at same ⊢
      rw [same]
      exact ⟨by cases topQueue t <;> simp [same], rfl⟩
  rw [prospectiveLevel, prospectiveLevel, levels.1, levels.2]

theorem ProspectiveFresh.congr {s s' : State} (h : ProspectiveFresh s)
    (prospective : s'.tsc.prospective = s.tsc.prospective) (floor : s'.tsc.floor = s.tsc.floor)
    (queues : ∀ l, (queueAt s'.tsc l).isEmpty = (queueAt s.tsc l).isEmpty)
    (active : s'.tsc.active.map (·.level) = s.tsc.active.map (·.level)) : ProspectiveFresh s' :=
  prospective.trans (h.trans (prospectiveLevel_congr floor queues active).symm)

theorem recompute_fresh (s : State) : ProspectiveFresh (recompute s) := by
  rcases recompute_cases s with ⟨h, e⟩ | ⟨-, e | ⟨-, -, -, e⟩⟩
  · rw [e]
    exact h.symm
  · rw [e]
    exact prospectiveLevel_congr rfl (fun _ => rfl) rfl
  · rw [e]
    rcases openClaim_cases s.now (s.mapTsc fun t => { t with prospective := prospectiveLevel s.tsc })
      with ⟨-, e⟩ | ⟨l, -, e⟩
    · rw [e]
      exact claimDecision_fresh _
    · rw [e]
      simpa [ProspectiveFresh] using claimDecision_fresh
        (s.mapTsc fun t => { t with prospective := prospectiveLevel s.tsc })

theorem admitData_fresh {s : State} (l : Nat) (d : Dest) (b : List Byte) (n : Nat) (x : Bool)
    (h : ProspectiveFresh s) : ProspectiveFresh (admitData l d b n x s) := by
  unfold admitData
  dsimp only
  split
  · exact recompute_fresh _
  · exact h

theorem prospectiveFresh_rules : TscRules ProspectiveFresh where
  stands h tsc _ := by rwa [ProspectiveFresh, tsc]
  decides _ := claimDecision_fresh _
  reports _ := recompute_fresh _
  cuts {s} h := by
    rcases cutBurst_cases s with e | ⟨a, b, ha, -, e⟩
    · rwa [e]
    · exact h.congr (by simp [e]) (by simp [e]) (by simp [e, queueAt]) (by simp [e, ha])
  result b acc _ := by
    unfold applyResult
    split <;> exact recompute_fresh _
  expiry k d h := by
    unfold frameExpiry
    split
    · exact h
    · split
      · split
        · exact h.congr rfl rfl (fun _ => rfl) (by simp [markExpired, Function.comp_def])
        · exact recompute_fresh _
      · exact h
  releases i _ := recompute_fresh _
  notice {s} i b h := by
    unfold admitNotice
    dsimp only
    split
    · refine h.congr rfl rfl (fun l => ?_) rfl
      rw [State.mapTsc_tsc, queueAt_updAt]
      split
      next e =>
        rw [← e.1]
        cases queueAt s.tsc 0 <;> rfl
      · rfl
    · split
      · exact recompute_fresh _
      · exact h
  floor _ _ _ := recompute_fresh _
  applies _ _ _ := recompute_fresh _
  arrives b x h := by simpa [ProspectiveFresh] using h
  frame {s} b x h := by
    rcases portFrameReceived_tsc b x s with e | ⟨l, d, g, s', hs, e⟩
    · rwa [ProspectiveFresh, e]
    · rw [e]
      exact admitData_fresh _ _ _ _ _ (by rwa [ProspectiveFresh, hs])

theorem prospectiveFresh_kept : KeptBy ProspectiveFresh :=
  prospectiveFresh_rules.kept fun s h => by
    rw [ProspectiveFresh, h.tsc]
    decide

/-! ### All registers -/

/-- Settles O58: each of the invariants is kept by every effect. -/
theorem registersKept : Obligations.RegistersKept := fun _ _ step =>
  ⟨fun h => rngLive_kept.step h step, fun h => attnJudged_kept.step h step,
    fun h => prospectiveFresh_kept.step h step, fun h => peersDistinct_kept.step h step,
    fun h => peerVersions_kept.step h step, fun h => withinCapacity_kept.step h step,
    fun h => countersInRange_kept.step h step, fun h => peersShaped_kept.step h step,
    fun h => announcedMapped_kept.step h step, fun h => forwardSound_kept.step h step,
    fun h => entriesSound_kept.step h step, fun m h => (notchedSilent_kept.step ⟨m, h⟩ step).2⟩

end Sys2Proof.Machine
end

section
/-! The frames that the scheduler holds, by what they take of the pools; the balances of the transmit pool and of
the control reserve. -/

namespace Sys2Proof.Machine

/-! ### Frames held (R106) -/

/-- What a frame takes of its pool: kind, descriptor and number of blocks. -/
def frameKey (f : Frame) : FrameKind × Nat × Nat := (f.kind, f.desc, f.blocks.length)

/-- What the frames held take of the pools. -/
def heldKeys (t : Tsc) : List (FrameKind × Nat × Nat) := (framesHeld t).map frameKey

theorem framesHeld_eq (t : Tsc) : framesHeld t = t.queues.flatten ++ (trains t).flatMap (·.frames) := by
  unfold framesHeld trains
  cases t.active <;> simp

theorem heldKeys_eq (t : Tsc) : heldKeys t =
    t.queues.flatten.map frameKey ++ ((trains t).flatMap (·.frames)).map frameKey := by
  rw [heldKeys, framesHeld_eq, List.map_append]

/-- One queue changed, among all queues. -/
theorem flatten_updAt_perm {α : Type} {q : List (List α)} {l : Nat} {x : List α} (h : q[l]? = some x)
    (f : List α → List α) : (x ++ (updAt q l f).flatten).Perm (f x ++ q.flatten) := by
  obtain ⟨hl, rfl⟩ := List.getElem?_eq_some_iff.mp h
  simp only [updAt, h]
  rw [List.set_eq_take_append_cons_drop, if_pos hl]
  conv => enter [2, 2]; rw [← List.take_append_drop l q, List.drop_eq_getElem_cons hl]
  simp only [List.flatten_append, List.flatten_cons]
  generalize (q.take l).flatten = a
  generalize (q.drop (l + 1)).flatten = b
  rw [← Multiset.coe_eq_coe]
  simp only [← Multiset.coe_add]
  abel

/-- One queue changed to frames that take the same. -/
theorem updAt_keys (t : Tsc) (l : Nat) {f : List Frame → List Frame}
    (same : ∀ q, (f q).map frameKey = q.map frameKey) :
    ((updAt t.queues l f).flatten).map frameKey = t.queues.flatten.map frameKey := by
  simp only [List.map_flatten]
  congr 1
  unfold updAt
  split
  next x hx =>
    obtain ⟨hl, rfl⟩ := List.getElem?_eq_some_iff.mp hx
    rw [List.map_set, same, ← List.getElem_map (List.map frameKey) (h := by simpa using hl), List.set_getElem_self]
  · rfl

theorem popIfComplete_queues (t : Tsc) : (popIfComplete t).queues = t.queues := by
  unfold popIfComplete
  split
  · split <;> rfl
  · rfl

/-- R115: a complete active train that leaves takes no frame along. -/
theorem popIfComplete_trains (t : Tsc) :
    (trains (popIfComplete t)).flatMap (·.frames) = (trains t).flatMap (·.frames) := by
  unfold popIfComplete
  split
  next h =>
    split
    next hs => simp [trains, h, hs]
    next hs => simp [trains, h, hs]
  · rfl

theorem popIfComplete_framesHeld (t : Tsc) : framesHeld (popIfComplete t) = framesHeld t := by
  rw [framesHeld_eq, framesHeld_eq, popIfComplete_queues, popIfComplete_trains]

theorem flatMap_nonempty (l : List Train) :
    (l.filter fun r => !r.frames.isEmpty).flatMap (·.frames) = l.flatMap (·.frames) := by
  induction l with
  | nil => rfl
  | cons r l ih =>
    cases h : r.frames <;> simp [h, ih]

/-- R60, R124: the frames dropped are those that satisfy `p`. -/
theorem dropFrames_framesHeld (p : Frame → Bool) (t : Tsc) :
    framesHeld (dropFrames p t) = (framesHeld t).filter fun f => !p f := by
  unfold dropFrames
  dsimp only
  rw [popIfComplete_framesHeld, framesHeld_eq, framesHeld_eq, List.filter_append, List.filter_flatten]
  congr 1
  simp only [purgeStack, trains, List.flatMap_append, List.filter_append, flatMap_nonempty,
    List.flatMap_map, List.filter_flatMap]
  cases t.active <;> simp

/-! ### Trains formed (R112) -/

theorem takeTrain_append (d : Dest) (n : Nat) (q : List Frame) : (takeTrain d n q).1 ++ (takeTrain d n q).2 = q := by
  induction n generalizing q with
  | zero => rfl
  | succ n ih =>
    cases q with
    | nil => rfl
    | cons f q =>
      unfold takeTrain
      split
      · simp [ih q]
      · rfl

theorem tagFrames_keys (tag : Nat) (l : List Frame) : (tagFrames tag l).map frameKey = l.map frameKey := by
  induction l generalizing tag with
  | nil => rfl
  | cons f l ih => simp [tagFrames, frameKey, ih]

theorem queueAt_eq_cons {t : Tsc} {l : Nat} {f : Frame} {q : List Frame} (h : queueAt t l = f :: q) :
    t.queues[l]? = some (f :: q) := by
  unfold queueAt at h
  rw [List.getD_eq_getElem?_getD] at h
  cases hl : t.queues[l]? with
  | none => simp [hl] at h
  | some x => simpa [hl] using h

/-- R114: the scheduler after a train has been formed. -/
def formed (l : Nat) (train : Train) (rest : List Frame) (t : Tsc) : Tsc :=
  { t with
    queues := updAt t.queues l fun _ => rest
    active := some train
    stack := match t.active with | some a => a :: t.stack | none => t.stack }

/-- R112: what forming a train does: nothing at an empty queue; otherwise the frames that go stand at the head of
the queue, and become the active train above the others. -/
theorem formTrain_cases (l : Nat) (s : State) :
    (queueAt s.tsc l = [] ∧ formTrain l s = s) ∨ ∃ f q, queueAt s.tsc l = f :: q ∧
      formTrain l s = advanceTags f.dest l (takeTrain f.dest trainFrames (f :: q)).1.length
        (s.mapTsc (formed l ⟨l, f.dest, tagFrames (tagCounter s f.dest l)
          (takeTrain f.dest trainFrames (f :: q)).1⟩ (takeTrain f.dest trainFrames (f :: q)).2)) := by
  unfold formTrain
  split
  next h => exact .inl ⟨h, rfl⟩
  next f q h => exact .inr ⟨f, q, h, rfl⟩

theorem formed_trains (l : Nat) (train : Train) (rest : List Frame) (t : Tsc) :
    trains (formed l train rest t) = train :: trains t := by
  unfold formed trains
  cases t.active <;> rfl

/-- The tag counters are no part of the trains and queues. -/
theorem advanceTags_frames (d : Dest) (l n : Nat) (s : State) :
    (advanceTags d l n s).tsc.queues = s.tsc.queues ∧ (advanceTags d l n s).tsc.active = s.tsc.active ∧
    (advanceTags d l n s).tsc.stack = s.tsc.stack := by
  cases d <;> simp [advanceTags]

theorem advanceTags_heldKeys (d : Dest) (l n : Nat) (s : State) :
    heldKeys (advanceTags d l n s).tsc = heldKeys s.tsc := by
  obtain ⟨q, a, k⟩ := advanceTags_frames d l n s
  rw [heldKeys, framesHeld, q, a, k]
  rfl

/-- What leaves one list and joins another stays. -/
theorem perm_move {α : Type} {a b c d e : List α} (h : ((a ++ b) ++ c).Perm (b ++ d)) :
    (c ++ (a ++ e)).Perm (d ++ e) := by
  rw [List.append_assoc] at h
  have kept : (a ++ c).Perm d :=
    (List.perm_append_left_iff b).mp ((List.perm_append_comm_assoc b a c).trans h)
  rw [← List.append_assoc]
  exact (List.perm_append_comm.trans kept).append_right e

theorem formTrain_keys (l : Nat) (s : State) : (heldKeys (formTrain l s).tsc).Perm (heldKeys s.tsc) := by
  rcases formTrain_cases l s with ⟨-, e⟩ | ⟨f, q, h, e⟩
  · rw [e]
  · rw [e, advanceTags_heldKeys, State.mapTsc_tsc, heldKeys_eq, heldKeys_eq, formed_trains]
    have split := takeTrain_append f.dest trainFrames (f :: q)
    generalize takeTrain f.dest trainFrames (f :: q) = r at split ⊢
    have perm := ((flatten_updAt_perm (queueAt_eq_cons h) fun _ => r.2).map frameKey)
    rw [← split] at perm
    simp only [List.flatMap_cons, List.map_append, tagFrames_keys] at perm ⊢
    exact perm_move perm

/-! ### Pools and the frames that draw on them (R107) -/

/-- Blocks of the frames of a kind. -/
def blocksIn (kind : FrameKind) (k : List (FrameKind × Nat × Nat)) : Nat :=
  ((k.filter fun x => x.1 = kind).map fun x => x.2.2).sum

/-- Frames of a kind. -/
def framesIn (kind : FrameKind) (k : List (FrameKind × Nat × Nat)) : Nat :=
  (k.filter fun x => x.1 = kind).length

/-- The balances of the pools against the frames held and `n` blocks that no admitted frame holds. -/
structure PoolsHold (b : Bpm) (n : Nat) (k : List (FrameKind × Nat × Nat)) : Prop where
  txBlocks : b.txFree + n + blocksIn .data k = Machine.txBlocks
  txDescriptors : b.txDesc + framesIn .data k = dataDescriptors
  ctlBlocks : b.ctlFree + blocksIn .notice k = controlBlocks
  ctlDescriptors : b.ctlDesc + framesIn .notice k = noticeDescriptors
  distinct : (k.map fun x => (x.1, x.2.1)).Nodup

theorem blocksIn_heldKeys (kind : FrameKind) (t : Tsc) : blocksIn kind (heldKeys t) = heldBlocks kind t := by
  simp [blocksIn, heldKeys, heldBlocks, List.filter_map, frameKey, Function.comp_def]
  rfl

theorem framesIn_heldKeys (kind : FrameKind) (t : Tsc) : framesIn kind (heldKeys t) = heldFrames kind t := by
  simp [framesIn, heldKeys, heldFrames, List.filter_map, frameKey, Function.comp_def]
  rfl

theorem txBalance_iff (s : State) : TxBalance s ↔
    PoolsHold s.bpm (ingressBlocks s.ptu) (heldKeys s.tsc) ∧
    (∀ g, s.ptu.ingress = some g → g.short = false → moverBlocks g.bytes.length ≤ g.drawn) ∧
    s.tsc.queues.length = levelCount ∧ ((∀ l ∈ s.ptu.priority, l ≤ 7) ∧ s.ptu.defaultLevel ≤ 7) := by
  have distinct : ((heldKeys s.tsc).map fun x => (x.1, x.2.1)) =
      (framesHeld s.tsc).map fun f => (f.kind, f.desc) := by
    simp [heldKeys, frameKey, Function.comp_def]
  constructor
  · rintro ⟨a, b, c, d, e, f, g, h⟩
    exact ⟨⟨by rwa [blocksIn_heldKeys], by rwa [framesIn_heldKeys], by rwa [blocksIn_heldKeys],
      by rwa [framesIn_heldKeys], by rwa [distinct]⟩, f, g, h⟩
  · rintro ⟨⟨a, b, c, d, e⟩, f, g, h⟩
    exact ⟨by rwa [← blocksIn_heldKeys], by rwa [← framesIn_heldKeys], by rwa [← blocksIn_heldKeys],
      by rwa [← framesIn_heldKeys], by rwa [← distinct], f, g, h⟩

theorem PoolsHold.perm {b : Bpm} {n : Nat} {k k' : List (FrameKind × Nat × Nat)} (h : PoolsHold b n k)
    (p : k'.Perm k) : PoolsHold b n k' := by
  have blocks (kind : FrameKind) : blocksIn kind k' = blocksIn kind k :=
    ((p.filter _).map _).sum_eq
  have frames (kind : FrameKind) : framesIn kind k' = framesIn kind k := (p.filter _).length_eq
  obtain ⟨a, b, c, d, e⟩ := h
  exact ⟨by rwa [blocks], by rwa [frames], by rwa [blocks], by rwa [frames], (p.map _).nodup_iff.mpr e⟩

/-- R106: a frame that is freed gives back what it takes. -/
theorem PoolsHold.free {b : Bpm} {n : Nat} {k : List (FrameKind × Nat × Nat)} {f : Frame}
    (h : PoolsHold b n (frameKey f :: k)) : PoolsHold (returnToPool f b) n k := by
  obtain ⟨a, b', c, d, e⟩ := h
  have nodup : (k.map fun x => (x.1, x.2.1)).Nodup := (List.nodup_cons.mp e).2
  cases hk : f.kind <;> simp [frameKey, blocksIn, framesIn, hk] at a b' c d
  · refine ⟨?_, ?_, ?_, ?_, nodup⟩ <;> simp [returnToPool, hk, blocksIn, framesIn] <;> omega
  · refine ⟨?_, ?_, ?_, ?_, nodup⟩ <;> simp [returnToPool, hk, blocksIn, framesIn] <;> omega

theorem PoolsHold.freeAll {b : Bpm} {n : Nat} {k : List (FrameKind × Nat × Nat)} {l : List Frame}
    (h : PoolsHold b n (l.map frameKey ++ k)) :
    PoolsHold (l.foldl (fun b f => returnToPool f b) b) n k := by
  induction l generalizing b with
  | nil => exact h
  | cons f l ih => exact ih (PoolsHold.free h)

/-- R108: a data frame is admitted with blocks of those that no admitted frame held. -/
theorem PoolsHold.admitData {b : Bpm} {n m : Nat} {k : List (FrameKind × Nat × Nat)} {x : Nat}
    (h : PoolsHold b n k) (desc : 0 < b.txDesc) (room : m ≤ b.txFree + n) (new : (FrameKind.data, x) ∉ k.map fun y => (y.1, y.2.1)) :
    PoolsHold { b with txDesc := b.txDesc - 1, txFree := b.txFree + n - m } 0 ((.data, x, m) :: k) := by
  obtain ⟨a, b', c, d, e⟩ := h
  refine ⟨?_, ?_, ?_, ?_, List.nodup_cons.mpr ⟨new, e⟩⟩ <;> simp [blocksIn, framesIn] at a b' c d ⊢ <;> omega

/-- R109: a notice is admitted. -/
theorem PoolsHold.admitNotice {b : Bpm} {n m : Nat} {k : List (FrameKind × Nat × Nat)} {x : Nat}
    (h : PoolsHold b n k) (desc : 0 < b.ctlDesc) (room : m ≤ b.ctlFree) (new : (FrameKind.notice, x) ∉ k.map fun y => (y.1, y.2.1)) :
    PoolsHold { b with ctlFree := b.ctlFree - m, ctlDesc := b.ctlDesc - 1 } n ((.notice, x, m) :: k) := by
  obtain ⟨a, b', c, d, e⟩ := h
  refine ⟨?_, ?_, ?_, ?_, List.nodup_cons.mpr ⟨new, e⟩⟩ <;> simp [blocksIn, framesIn] at a b' c d ⊢ <;> omega

theorem PoolsHold.congr {b c : Bpm} {n : Nat} {k : List (FrameKind × Nat × Nat)} (h : PoolsHold b n k)
    (txFree : c.txFree = b.txFree) (txDesc : c.txDesc = b.txDesc) (ctlFree : c.ctlFree = b.ctlFree)
    (ctlDesc : c.ctlDesc = b.ctlDesc) : PoolsHold c n k :=
  ⟨txFree ▸ h.txBlocks, txDesc ▸ h.txDescriptors, ctlFree ▸ h.ctlBlocks, ctlDesc ▸ h.ctlDescriptors, h.distinct⟩

/-- Log entry 18: a descriptor drawn is one that no frame of its kind holds. -/
theorem freshDescriptor_new (kind : FrameKind) (t : Tsc) :
    (kind, freshDescriptor kind t) ∉ (heldKeys t).map fun y => (y.1, y.2.1) := by
  have new : freshDescriptor kind t ∉ ((framesHeld t).filter fun f => f.kind = kind).map fun f => f.desc := by
    unfold freshDescriptor
    dsimp only
    generalize (((framesHeld t).filter fun f => f.kind = kind).map fun f => f.desc) = used
    cases h : (List.range (used.length + 1)).find? fun n => !used.contains n with
    | some n => simpa using List.find?_some h
    | none =>
      have all : ∀ n ∈ List.range (used.length + 1), n ∈ used := by
        simpa using List.find?_eq_none.mp h
      have := (List.nodup_range.subperm all).length_le
      simp at this
  intro h
  simp only [heldKeys, List.map_map, List.mem_map, Function.comp_apply, frameKey, Prod.mk.injEq] at h
  obtain ⟨f, hf, hk, hd⟩ := h
  exact new (List.mem_map.mpr ⟨f, List.mem_filter.mpr ⟨hf, by simpa using hk⟩, hd⟩)

theorem joinQueue_keys {f : Frame} {t : Tsc} (level : f.level < t.queues.length) :
    (heldKeys (joinQueue f t)).Perm (frameKey f :: heldKeys t) := by
  have hq := List.getElem?_eq_getElem level
  have perm := (flatten_updAt_perm hq fun q => q ++ [f]).map frameKey
  rw [heldKeys_eq, heldKeys_eq]
  show ((updAt t.queues f.level fun q => q ++ [f]).flatten.map frameKey ++ _).Perm _
  rw [← Multiset.coe_eq_coe] at perm ⊢
  simp only [List.map_append, ← Multiset.coe_add, List.map_cons, List.map_nil, ← List.cons_append,
    ← Multiset.cons_coe, ← Multiset.singleton_add, Multiset.coe_nil] at perm ⊢
  have perm := add_left_cancel (perm.trans (add_assoc _ _ _))
  rw [perm, add_assoc]
  rfl

end Sys2Proof.Machine
end

section
/-! The balances of the transmit pool and the control reserve: each operation of the scheduler keeps them. -/

namespace Sys2Proof.Machine

variable {s s' : State}

/-- The balances with `n` blocks drawn for a frame that is neither in ingress nor admitted. -/
structure TxHolds (n : Nat) (s : State) : Prop where
  pools : PoolsHold s.bpm (n + ingressBlocks s.ptu) (heldKeys s.tsc)
  ingress : ∀ g, s.ptu.ingress = some g → g.short = false → moverBlocks g.bytes.length ≤ g.drawn
  queues : s.tsc.queues.length = levelCount
  levels : (∀ l ∈ s.ptu.priority, l ≤ 7) ∧ s.ptu.defaultLevel ≤ 7

theorem txBalance_iff_holds (s : State) : TxBalance s ↔ TxHolds 0 s := by
  rw [txBalance_iff]
  exact ⟨fun ⟨a, b, c, d⟩ => ⟨by rwa [Nat.zero_add], b, c, d⟩, fun ⟨a, b, c, d⟩ => ⟨by rwa [Nat.zero_add] at a, b, c, d⟩⟩

/-- What the pools, the frame in ingress and the port's levels are, by the view of the transmit side. -/
theorem txView_eq_iff : txView s' = txView s ↔
    (s'.bpm.txFree = s.bpm.txFree ∧ s'.bpm.txDesc = s.bpm.txDesc ∧ s'.bpm.ctlFree = s.bpm.ctlFree ∧
      s'.bpm.ctlDesc = s.bpm.ctlDesc) ∧
    s'.ptu.ingress = s.ptu.ingress ∧ s'.ptu.priority = s.ptu.priority ∧
    s'.ptu.defaultLevel = s.ptu.defaultLevel := by
  simp [txView]

/-- The frames held take the same of the pools, and the rest of the transmit side stands. -/
theorem TxHolds.congr {n : Nat} (h : TxHolds n s) (view : txView s' = txView s)
    (keys : (heldKeys s'.tsc).Perm (heldKeys s.tsc)) (queues : s'.tsc.queues.length = s.tsc.queues.length) :
    TxHolds n s' := by
  obtain ⟨⟨txFree, txDesc, ctlFree, ctlDesc⟩, ingress, priority, level⟩ := txView_eq_iff.mp view
  refine ⟨?_, by rw [ingress]; exact h.ingress, queues.trans h.queues, by rw [priority, level]; exact h.levels⟩
  rw [show ingressBlocks s'.ptu = ingressBlocks s.ptu by simp [ingressBlocks, ingress]]
  exact (h.pools.congr txFree txDesc ctlFree ctlDesc).perm keys

/-- The frames of a list are freed, and no longer held. -/
theorem TxHolds.freed {n : Nat} {l : List Frame} (h : TxHolds n s)
    (bpm : s'.bpm = l.foldl (fun b f => returnToPool f b) s.bpm) (ptu : s'.ptu = s.ptu)
    (keys : (l.map frameKey ++ heldKeys s'.tsc).Perm (heldKeys s.tsc))
    (queues : s'.tsc.queues.length = s.tsc.queues.length) : TxHolds n s' := by
  refine ⟨?_, by rw [ptu]; exact h.ingress, queues.trans h.queues, by rw [ptu]; exact h.levels⟩
  rw [bpm, ptu]
  exact (h.pools.perm keys).freeAll

theorem formTrain_view (l : Nat) (s : State) : txView (formTrain l s) = txView s := by
  simp [txView]

theorem TxHolds.decides {n : Nat} (h : TxHolds n s) : TxHolds n (claimDecision s).1 := by
  unfold claimDecision
  split
  next l _ =>
    have tables : (formTrain l s).tsc.queues.length = s.tsc.queues.length := by
      rcases formTrain_cases l s with ⟨-, e⟩ | ⟨f, q, -, e⟩
      · rw [e]
      · rw [e, (advanceTags_frames _ _ _ _).1]
        simp [formed]
    exact h.congr (formTrain_view l s) (formTrain_keys l s) tables
  · exact h.congr rfl (.refl _) rfl

theorem TxHolds.reports {n : Nat} (h : TxHolds n s) : TxHolds n (recompute s) := by
  rcases recompute_cases s with ⟨-, e⟩ | ⟨-, e | ⟨-, -, -, e⟩⟩
  · rwa [e]
  · rw [e]
    exact h.congr rfl (.refl _) rfl
  · rw [e]
    have hd := (TxHolds.congr (s' := s.mapTsc fun t => { t with prospective := prospectiveLevel s.tsc }) h
      rfl (.refl _) rfl).decides
    rcases openClaim_cases s.now (s.mapTsc fun t => { t with prospective := prospectiveLevel s.tsc })
      with ⟨-, e⟩ | ⟨l, -, e⟩
    · rwa [e]
    · rw [e]
      exact hd.congr (by simp [txView]) (by simp) (by simp)

/-! ### Bursts and their results -/

theorem goOnLine_key (f : Frame) (refs : List BlockRef) : frameKey (goOnLine f refs) = frameKey f := by
  unfold goOnLine
  dsimp only
  split <;> simp [frameKey]

theorem settleFrame_key (b : BurstOnLine) (acc : List Bool) (f : Frame) :
    frameKey (settleFrame b acc f) = frameKey f := by
  simp [frameKey, settleFrame]

/-- The frames of the active train change, those that take the same. -/
theorem heldKeys_active {t u : Tsc} {a a' : Train} (queues : u.queues = t.queues) (stack : u.stack = t.stack)
    (ha : t.active = some a) (ha' : u.active = some a')
    (same : a'.frames.map frameKey = a.frames.map frameKey) : heldKeys u = heldKeys t := by
  simp [heldKeys, framesHeld, queues, stack, ha, ha', same]

theorem TxHolds.cuts {n : Nat} (h : TxHolds n s) : TxHolds n (cutBurst s) := by
  rcases cutBurst_cases s with e | ⟨a, b, ha, -, e⟩
  · rwa [e]
  · rw [e]
    refine h.congr (by simp [txView]) ?_ (by simp)
    simp only [countBurst_keeps]
    rw [heldKeys_active (t := s.tsc) (u := (s.mapTsc _).tsc) rfl rfl ha rfl]
    simp [Function.comp_def, goOnLine_key]

/-- R123: what the resolution of frames gives back. -/
theorem resolveFrame_bpm (b : BurstOnLine) (s : State) (l : List Frame) :
    (l.foldl (resolveFrame b) s).bpm =
      (l.filter fun f => !decide (resolution b f = .stays)).foldl (fun p f => returnToPool f p) s.bpm := by
  induction l generalizing s with
  | nil => rfl
  | cons f l ih =>
    rw [List.foldl_cons, ih]
    cases h : resolution b f <;> simp [resolveFrame, h, freeFrame, dropExpired]

theorem TxHolds.result {n : Nat} (b : BurstOnLine) (acc : List Bool) (h : TxHolds n s) :
    TxHolds n (applyResult b acc s) := by
  unfold applyResult
  split
  · exact TxHolds.reports (h.congr rfl (.refl _) rfl)
  next a ha =>
    dsimp only
    refine TxHolds.reports ?_
    generalize hf : a.frames.map (settleFrame b acc) = frames
    have keys : frames.map frameKey = a.frames.map frameKey := by
      simp [← hf, Function.comp_def, settleFrame_key]
    refine h.freed (l := frames.filter fun f => !decide (resolution b f = .stays)) ?_ ?_ ?_ ?_
    · simp [resolveFrame_bpm]
    · simp
    · have split := (List.filter_append_perm (fun f => decide (resolution b f = .stays)) frames).map frameKey
      rw [keys, List.map_append] at split
      simp only [State.mapTsc_tsc, resolveFrame_foldl_keeps, heldKeys, popIfComplete_framesHeld]
      simp only [framesHeld, ha, List.map_append]
      generalize (frames.filter fun f => !decide (resolution b f = .stays)).map frameKey = gone at split ⊢
      generalize (frames.filter fun f => decide (resolution b f = .stays)).map frameKey = stay at split ⊢
      rw [← List.append_assoc, ← List.append_assoc]
      refine List.Perm.append_right _ ?_
      refine (List.perm_append_comm_assoc _ _ _).trans ?_ |> fun p => (List.append_assoc _ _ _ ▸ p)
      exact (List.perm_append_comm.trans split).append_left _
    · simp [popIfComplete_queues]

/-! ### Expiry and release -/

/-- The frame that a search by kind and descriptor finds is the only one that holds them. -/
theorem filter_holds_eq {k : FrameKind} {d : Nat} {f : Frame} {l : List Frame}
    (distinct : (l.map fun f => (f.kind, f.desc)).Nodup) (h : l.find? (fun f => f.holds k d) = some f) :
    l.filter (fun f => f.holds k d) = [f] := by
  obtain ⟨hf, a, b, rfl, before⟩ := List.find?_eq_some_iff_append.mp h
  have after : ∀ g ∈ b, g.holds k d = false := fun g hg => by
    by_contra hn
    simp only [Frame.holds, Bool.and_eq_true, decide_eq_true_eq, Bool.not_eq_false] at hf hn
    rw [List.map_append, List.map_cons, List.nodup_append] at distinct
    refine (List.nodup_cons.mp distinct.2.1).1 (List.mem_map.mpr ⟨g, hg, ?_⟩)
    rw [hn.1, hn.2, hf.1, hf.2]
  have none_before : a.filter (fun f => f.holds k d) = [] :=
    List.filter_eq_nil_iff.mpr fun g hg => by simpa using before g hg
  have none_after : b.filter (fun f => f.holds k d) = [] :=
    List.filter_eq_nil_iff.mpr fun g hg => by simp [after g hg]
  simp [List.filter_append, none_before, none_after, show f.holds k d = true from hf]

/-- The frames dropped and the frames kept are the frames held. -/
theorem dropFrames_keys (p : Frame → Bool) (t : Tsc) :
    (((framesHeld t).filter p).map frameKey ++ heldKeys (dropFrames p t)).Perm (heldKeys t) := by
  rw [heldKeys, dropFrames_framesHeld, ← List.map_append]
  exact (List.filter_append_perm p _).map _

theorem dropFrames_queues_length (p : Frame → Bool) (t : Tsc) :
    (dropFrames p t).queues.length = t.queues.length := (dropFrames_tables p t).queues

theorem markExpired_keys (k : FrameKind) (d : Nat) (t : Tsc) : heldKeys (markExpired k d t) = heldKeys t := by
  have same (l : List Frame) : (l.map fun f => if f.holds k d then { f with expired := true } else f).map
      frameKey = l.map frameKey := by
    rw [List.map_map]
    refine List.map_congr_left fun f _ => ?_
    simp only [Function.comp_apply]
    split <;> rfl
  simp only [heldKeys, framesHeld, markExpired, List.map_append, List.flatMap_map, List.map_flatMap, same]
  cases t.active <;> simp [same]

theorem TxHolds.expiry {n : Nat} (k : FrameKind) (d : Nat) (h : TxHolds n s) :
    TxHolds n (frameExpiry k d s) := by
  unfold frameExpiry
  split
  · exact h
  next f hf =>
    split
    · split
      · exact h.congr rfl (.of_eq (markExpired_keys k d s.tsc)) (by simp [markExpired])
      · refine TxHolds.reports (h.freed (l := [f]) (by simp [dropExpired, freeFrame]) (by simp) ?_ ?_)
        · have distinct : ((framesHeld s.tsc).map fun f => (f.kind, f.desc)).Nodup := by
            simpa [heldKeys, frameKey, Function.comp_def] using h.pools.distinct
          rw [← filter_holds_eq distinct hf]
          simpa using dropFrames_keys (fun g => g.holds k d) s.tsc
        · simpa using dropFrames_queues_length (fun g => g.holds k d) s.tsc
    · exact h

theorem freeFrame_foldl_bpm (l : List Frame) (s : State) :
    (l.foldl freeFrame s).bpm = l.foldl (fun b f => returnToPool f b) s.bpm := by
  induction l generalizing s with
  | nil => rfl
  | cons f l ih => exact ih _

theorem TxHolds.releases {n : Nat} (i : Nat) (h : TxHolds n s) : TxHolds n (releasePeer i s) := by
  have freed : TxHolds n (releaseFrames i s) := by
    refine h.freed (l := (framesHeld s.tsc).filter fun f => f.isFor i) ?_ (by simp) ?_ ?_
    · simp [releaseFrames, freeFrame_foldl_bpm]
    · simpa [releaseFrames] using dropFrames_keys (fun f => f.isFor i) s.tsc
    · simpa [releaseFrames] using dropFrames_queues_length (fun f => f.isFor i) s.tsc
  rw [releasePeer_eq]
  refine TxHolds.reports (freed.congr ?_ ?_ ?_)
  · simp [releasing, txView, abandonEntries]
  · simp [releasing]
  · simp [releasing]

/-! ### Admission -/

theorem TxHolds.notice {n : Nat} (i : Nat) (b : List Byte) (h : TxHolds n s) :
    TxHolds n (admitNotice i b s) := by
  unfold admitNotice
  dsimp only
  split
  · refine h.congr rfl (.of_eq ?_) (by simp)
    have same (q : List Frame) : (renewNotice i b (after s.now noticeLifetime) q).map frameKey =
        q.map frameKey := by
      rw [renewNotice, List.map_map]
      refine List.map_congr_left fun f _ => ?_
      simp only [Function.comp_apply]
      split <;> rfl
    rw [heldKeys_eq, heldKeys_eq]
    exact congrArg (· ++ _) (updAt_keys s.tsc 0 same)
  · split
    next c =>
      refine TxHolds.reports ⟨?_, h.ingress, by simpa [joinQueue] using h.queues, h.levels⟩
      have level : (newFrame .notice 0 (.peer i) b (after s.now noticeLifetime) s.tsc).level <
          s.tsc.queues.length := by
        rw [h.queues]
        exact Nat.zero_lt_succ 7
      exact (h.pools.admitNotice c.2 c.1 (freshDescriptor_new .notice s.tsc)).perm (joinQueue_keys level)
    · exact h

theorem TxHolds.admitData {n : Nat} {l : Nat} (d : Dest) (b : List Byte) {x : Bool} (h : TxHolds n s)
    (none : s.ptu.ingress = none) (level : l ≤ 7) (room : x = false → blocksOf b.length ≤ n) :
    TxHolds 0 (admitData l d b n x s) := by
  have pools : PoolsHold s.bpm n (heldKeys s.tsc) := by simpa [ingressBlocks, none] using h.pools
  have empty : 0 + ingressBlocks s.ptu = 0 := by simp [ingressBlocks, none]
  unfold Machine.admitData
  dsimp only
  split
  next c =>
    simp only [admissible, Bool.and_eq_true, decide_eq_true_eq, Bool.not_eq_true'] at c
    obtain ⟨⟨desc, short⟩, -⟩ := c
    have inQueue : (newFrame .data l d b (after s.now (lifetimeOf s.tsc l)) s.tsc).level <
        s.tsc.queues.length := by
      rw [h.queues]
      exact Nat.lt_succ_of_le level
    have blocks : (newFrame .data l d b (after s.now (lifetimeOf s.tsc l)) s.tsc).blocks.length ≤
        s.bpm.txFree + n := by
      simpa [newFrame] using (room short).trans (Nat.le_add_left _ _)
    refine TxHolds.reports ⟨?_, h.ingress, by simpa [joinQueue] using h.queues, h.levels⟩
    show PoolsHold _ (0 + ingressBlocks s.ptu) _
    rw [empty]
    exact (pools.admitData desc blocks (freshDescriptor_new .data s.tsc)).perm (joinQueue_keys inQueue)
  · refine ⟨?_, h.ingress, h.queues, h.levels⟩
    show PoolsHold _ (0 + ingressBlocks s.ptu) _
    rw [empty]
    exact ⟨by simpa [Nat.add_assoc] using pools.txBlocks, pools.txDescriptors, pools.ctlBlocks,
      pools.ctlDescriptors, pools.distinct⟩

/-! ### The frame in ingress (R107, R144) -/

theorem TxHolds.arrives (b : List Byte) (x : Bool) (h : TxHolds 0 s) : TxHolds 0 (arrive b x s) := by
  unfold arrive
  dsimp only
  split
  · exact h.congr rfl (.refl _) rfl
  next g hg =>
    have drawn : ingressBlocks s.ptu = g.drawn := by
      unfold frameTaking at hg
      split at hg
      next hi =>
        cases hg
        simp [ingressBlocks, hi]
      next hi =>
        split at hg
        · cases hg
        · cases hg
          simp [ingressBlocks, hi, emptyIngress]
    have some : moverDraw g b s.bpm.txFree ≤ s.bpm.txFree := by
      unfold moverDraw
      split
      · exact Nat.zero_le _
      · exact min_le_left _ _
    refine ⟨?_, ?_, h.queues, h.levels⟩
    · obtain ⟨a, b', c, d, e⟩ := h.pools
      rw [drawn] at a
      refine ⟨?_, b', c, d, e⟩
      simp only [State.mapPtu_bpm, State.mapBpm_bpm, State.mapPtu_ptu, ingressBlocks, Ingress.grow,
        State.mapPtu_tsc, State.mapBpm_tsc]
      omega
    · rintro f ⟨⟩ short
      simp only [Ingress.grow, Bool.or_eq_false_iff, decide_eq_false_iff_not, Nat.not_lt] at short
      simpa [Ingress.grow] using short.2

/-- R145: the blocks of a frame that does not go on to the line return. -/
theorem TxHolds.discards {g : Ingress} (h : TxHolds g.drawn s) : TxHolds 0 (discardIngress g s) := by
  refine ⟨?_, h.ingress, h.queues, h.levels⟩
  obtain ⟨a, b, c, d, e⟩ := h.pools
  refine ⟨?_, b, c, d, e⟩
  simp only [discardIngress, State.mapBpm_bpm, State.mapBpm_ptu, State.mapBpm_tsc]
  omega

theorem controlFrame_txView (f : List Byte) (s : State) : txView (controlFrame f s) = txView s := by
  unfold controlFrame
  split
  · dsimp only
    split
    · exact egressChoice_txView _
    · rfl
  · rfl

theorem frameLevel_le {p : Ptu} (f : List Byte) (levels : (∀ l ∈ p.priority, l ≤ 7) ∧ p.defaultLevel ≤ 7) :
    frameLevel p f ≤ 7 := by
  unfold frameLevel
  split
  · rw [List.getD_eq_getElem?_getD]
    cases h : p.priority[(byteAt f 15).toNat / 32]? with
    | none => simp
    | some l => exact levels.1 l (List.mem_of_getElem? h)
  · exact levels.2

theorem TxHolds.classify {g : Ingress} (h : TxHolds g.drawn s) (none : s.ptu.ingress = none)
    (drawn : g.short = false → moverBlocks g.bytes.length ≤ g.drawn) : TxHolds 0 (classify g s) := by
  have discarded := h.discards
  have counted (f : Counters → Counters) : TxHolds 0 (count f (discardIngress g s)) :=
    discarded.congr rfl (.refl _) rfl
  unfold Machine.classify
  split
  · exact counted _
  next sound =>
    split
    · exact (counted _).congr (controlFrame_txView _ _) (by simp) (by simp)
    · split
      · unfold divertFrame
        split
        · exact counted _
        · exact discarded.congr (by simp [txView, discardIngress]) (by simp) (by simp)
      · split
        · exact counted _
        · split
          · exact counted _
          · refine h.admitData _ _ none (frameLevel_le _ h.levels) fun short => ?_
            have length : g.bytes.length ≤ maxFrame := by
              simp [frameInError] at sound
              omega
            simpa [moverBlocks, Nat.min_eq_right length] using drawn short

theorem TxHolds.frame (b : List Byte) (x : Bool) (h : TxHolds 0 s) :
    TxHolds 0 (portFrameReceived b x s) := by
  have arrived : TxHolds 0 ((arrive b x s).mapPtu fun p => p.withReceiving false) :=
    (h.arrives b x).congr rfl (.refl _) rfl
  unfold portFrameReceived
  dsimp only
  split
  · exact arrived
  next g hg =>
    refine TxHolds.classify ⟨?_, by simp, arrived.queues, arrived.levels⟩ rfl (arrived.ingress g hg)
    have pools := arrived.pools
    simp only [ingressBlocks, hg, Nat.zero_add] at pools
    exact pools

theorem TxHolds.applies (c : ConfigImage) (image : IsImage c) (h : TxHolds 0 s) :
    TxHolds 0 (applyConfig c s) := by
  obtain ⟨-, -, -, ⟨-, priority⟩, level⟩ := isImage_capacities image
  have bpm : (configured c s).bpm = s.bpm := rfl
  have tsc : (configured c s).tsc = { s.tsc with lifetimes := c.lifetimes, floor := c.floor } := rfl
  have ptu : (configured c s).ptu = { s.ptu with priority := c.priority, defaultLevel := c.defaultLevel } := rfl
  rw [applyConfig_eq]
  refine TxHolds.reports ⟨?_, ?_, ?_, ?_⟩
  · rw [bpm, tsc, ptu]
    exact h.pools
  · rw [ptu]
    exact h.ingress
  · rw [tsc]
    exact h.queues
  · rw [ptu]
    exact ⟨priority, level⟩

theorem TxHolds.floor (n : Nat) (h : TxHolds 0 s) :
    TxHolds 0 (recompute (s.mapTsc fun t => { t with floor := n })) := by
  have set : TxHolds 0 (s.mapTsc fun t => { t with floor := n }) := ⟨h.pools, h.ingress, h.queues, h.levels⟩
  exact set.reports

theorem TxHolds.stands {n : Nat} (h : TxHolds n s) (tsc : s'.tsc = s.tsc) (view : txView s' = txView s) :
    TxHolds n s' := h.congr view (.of_eq (by rw [tsc])) (by rw [tsc])

theorem txBalance_rules : TscRules (TxHolds 0) where
  stands := TxHolds.stands
  decides := TxHolds.decides
  reports := TxHolds.reports
  cuts := TxHolds.cuts
  result := TxHolds.result
  expiry := TxHolds.expiry
  releases := TxHolds.releases
  notice := TxHolds.notice
  floor n _ := TxHolds.floor n
  applies := TxHolds.applies
  arrives := TxHolds.arrives
  frame := TxHolds.frame

theorem txBalance_kept : KeptBy TxBalance := by
  rw [funext fun s => propext (txBalance_iff_holds s)]
  refine txBalance_rules.kept fun s h => ?_
  obtain ⟨e, r, ptu⟩ := h.ptu
  have fresh := (txBalance_iff_holds _).mp reset_txBalance
  refine ⟨?_, by simp [ptu, resetPtu], ?_, ?_⟩
  · rw [h.bpm, h.tsc, ptu]
    exact fresh.pools
  · rw [h.tsc]
    exact fresh.queues
  · rw [ptu]
    exact fresh.levels

/-- Settles O49: each operation of the scheduler leaves as many blocks and descriptors as it finds. -/
theorem txBalanceKept : Obligations.TxBalanceKept := fun _ _ => txBalance_kept.step

end Sys2Proof.Machine
end

section
/-! The resumption stack stays in order and the trains whole: each operation of the scheduler keeps them. -/

namespace Sys2Proof.Machine

/-! ### Trains in order (R112, R115) -/

/-- A train of a level that holds 1..4 frames of its own level and destination. -/
structure TrainWhole (r : Train) : Prop where
  level : r.level ≤ 7
  frames : 1 ≤ r.frames.length ∧ r.frames.length ≤ trainFrames
  own : ∀ f ∈ r.frames, f.level = r.level ∧ f.dest = r.dest

theorem stackOrder_iff (t : Tsc) : StackOrder t ↔
    (trains t).Pairwise (fun a b => a.level < b.level) ∧ (∀ r ∈ trains t, TrainWhole r) ∧
    (t.stack ≠ [] → t.active.isSome = true) ∧ ∀ l, ∀ f ∈ queueAt t l, f.level = l :=
  ⟨fun ⟨a, b, c, d, e, f⟩ => ⟨a, fun r hr => ⟨c r hr, d r hr, e r hr⟩, b, f⟩,
    fun ⟨a, w, b, f⟩ => ⟨a, b, fun r hr => (w r hr).level, fun r hr => (w r hr).frames,
      fun r hr => (w r hr).own, f⟩⟩

/-- A train with fewer frames, or with the same, changed within. -/
structure Shrinks (r' r : Train) : Prop where
  level : r'.level = r.level
  dest : r'.dest = r.dest
  length : r'.frames.length ≤ r.frames.length
  own : ∀ g ∈ r'.frames, ∃ f ∈ r.frames, g.level = f.level ∧ g.dest = f.dest

theorem Shrinks.refl (r : Train) : Shrinks r r := ⟨rfl, rfl, le_rfl, fun f hf => ⟨f, hf, rfl, rfl⟩⟩

/-- Frames of a train are changed by `g`, and those that fail `p` leave. -/
theorem Shrinks.filterMap (r : Train) {g : Frame → Frame} (level : ∀ f, (g f).level = f.level)
    (dest : ∀ f, (g f).dest = f.dest) (p : Frame → Bool) :
    Shrinks { r with frames := (r.frames.map g).filter p } r := by
  refine ⟨rfl, rfl, by simpa using List.length_filter_le p (r.frames.map g), fun x hx => ?_⟩
  obtain ⟨f, hf, rfl⟩ := List.mem_map.mp (List.mem_filter.mp hx).1
  exact ⟨f, hf, level f, dest f⟩

theorem Shrinks.map (r : Train) {g : Frame → Frame} (level : ∀ f, (g f).level = f.level)
    (dest : ∀ f, (g f).dest = f.dest) : Shrinks { r with frames := r.frames.map g } r := by
  simpa using Shrinks.filterMap r level dest fun _ => true

theorem Shrinks.filter (r : Train) (p : Frame → Bool) :
    Shrinks { r with frames := r.frames.filter p } r := by
  simpa using Shrinks.filterMap r (g := id) (fun _ => rfl) (fun _ => rfl) p

theorem TrainWhole.shrink {r' r : Train} (h : TrainWhole r) (s : Shrinks r' r) (filled : r'.frames ≠ []) :
    TrainWhole r' where
  level := s.level ▸ h.level
  frames := ⟨List.length_pos_of_ne_nil filled, s.length.trans h.frames.2⟩
  own f hf := by
    obtain ⟨g, hg, level, dest⟩ := s.own f hf
    have := h.own g hg
    exact ⟨level.trans (this.1.trans s.level.symm), dest.trans (this.2.trans s.dest.symm)⟩

/-- What stands on the left of a relation of lists is related to something on the right. -/
theorem exists_of_mem_left {α β : Type} {R : α → β → Prop} {l : List α} {l' : List β}
    (h : List.Forall₂ R l l') {a : α} (ha : a ∈ l) : ∃ b ∈ l', R a b := by
  induction h with
  | nil => cases ha
  | cons hab _ ih =>
    rcases List.mem_cons.mp ha with rfl | ha
    · exact ⟨_, List.mem_cons_self, hab⟩
    · obtain ⟨b, hb, e⟩ := ih ha
      exact ⟨b, List.mem_cons_of_mem _ hb, e⟩

/-- Levels still rise when trains shrink. -/
theorem rising_shrink {l' l : List Train} (s : List.Forall₂ Shrinks l' l)
    (rising : l.Pairwise fun a b => a.level < b.level) : l'.Pairwise fun a b => a.level < b.level := by
  induction s with
  | nil => exact .nil
  | @cons a b as bs hab hs ih =>
    rw [List.pairwise_cons] at rising ⊢
    refine ⟨fun c hc => ?_, ih rising.2⟩
    obtain ⟨d, hd, hcd⟩ := exists_of_mem_left hs hc
    rw [hab.level, hcd.level]
    exact rising.1 d hd

/-- Trains that shrink, those that are complete leaving, stay in order and whole. -/
theorem StackOrder.shrink {t u : Tsc} {l : List Train} (h : StackOrder t)
    (trains_eq : trains u = l.filter fun r => !r.frames.isEmpty) (s : List.Forall₂ Shrinks l (trains t))
    (top : u.stack ≠ [] → u.active.isSome = true) (queued : ∀ k, ∀ f ∈ queueAt u k, f.level = k) :
    StackOrder u := by
  obtain ⟨rising, whole, -, -⟩ := (stackOrder_iff t).mp h
  refine (stackOrder_iff u).mpr ⟨?_, ?_, top, queued⟩
  · rw [trains_eq]
    exact (rising_shrink s rising).sublist List.filter_sublist
  · intro r hr
    rw [trains_eq, List.mem_filter] at hr
    obtain ⟨r', hr', hs⟩ := exists_of_mem_left s hr.1
    exact (whole r' hr').shrink hs (by simpa using hr.2)

/-- The queues, the active train and the stack stand. -/
theorem StackOrder.congr {t u : Tsc} (h : StackOrder t) (queues : u.queues = t.queues)
    (active : u.active = t.active) (stack : u.stack = t.stack) : StackOrder u := by
  have trains_eq : trains u = trains t := by rw [trains, trains, active, stack]
  rw [stackOrder_iff] at h ⊢
  obtain ⟨rising, whole, top, queued⟩ := h
  exact ⟨trains_eq ▸ rising, trains_eq ▸ whole, by rwa [stack, active], by
    simpa [queueAt, queues] using queued⟩

/-- The queues change, and every frame stands at its level. -/
theorem StackOrder.requeue {t u : Tsc} (h : StackOrder t) (active : u.active = t.active)
    (stack : u.stack = t.stack) (queued : ∀ l, ∀ f ∈ queueAt u l, f.level = l) : StackOrder u := by
  have trains_eq : trains u = trains t := by rw [trains, trains, active, stack]
  rw [stackOrder_iff] at h ⊢
  obtain ⟨rising, whole, under, -⟩ := h
  exact ⟨trains_eq ▸ rising, trains_eq ▸ whole, by rwa [stack, active], queued⟩

/-! ### Trains formed -/

theorem takeTrain_spec (d : Dest) (n : Nat) (q : List Frame) :
    (takeTrain d n q).1.length ≤ n ∧ ∀ f ∈ (takeTrain d n q).1, f ∈ q ∧ f.dest = d := by
  induction n generalizing q with
  | zero => simp [takeTrain]
  | succ n ih =>
    cases q with
    | nil => simp [takeTrain]
    | cons f q =>
      obtain ⟨length, own⟩ := ih q
      unfold takeTrain
      split
      next hd =>
        refine ⟨Nat.succ_le_succ length, fun g hg => ?_⟩
        rcases List.mem_cons.mp hg with rfl | hg
        · exact ⟨List.mem_cons_self, hd⟩
        · exact ⟨List.mem_cons_of_mem _ (own g hg).1, (own g hg).2⟩
      · simp

theorem takeTrain_pos (f : Frame) (n : Nat) (q : List Frame) : 1 ≤ (takeTrain f.dest (n + 1) (f :: q)).1.length := by
  simp [takeTrain]

theorem tagFrames_length (tag : Nat) (l : List Frame) : (tagFrames tag l).length = l.length := by
  induction l generalizing tag with
  | nil => rfl
  | cons f l ih => simp [tagFrames, ih]

theorem mem_tagFrames {tag : Nat} {l : List Frame} {g : Frame} (h : g ∈ tagFrames tag l) :
    ∃ f ∈ l, g.level = f.level ∧ g.dest = f.dest := by
  induction l generalizing tag with
  | nil => simp [tagFrames] at h
  | cons f l ih =>
    rcases List.mem_cons.mp h with rfl | h
    · exact ⟨f, List.mem_cons_self, rfl, rfl⟩
    · obtain ⟨x, hx, e⟩ := ih h
      exact ⟨x, List.mem_cons_of_mem _ hx, e⟩

/-- R113: a level to form a train at names a queue, and is more urgent than the active train. -/
theorem newTrainLevel_eq_some {t : Tsc} {l : Nat} (h : newTrainLevel t = some l) :
    l ≤ 7 ∧ topQueue t = some l ∧ ∀ a, t.active = some a → l < a.level := by
  have top : topQueue t = some l ∧ ∀ a, t.active = some a → l < a.level := by
    unfold newTrainLevel at h
    split at h
    next k hk ha => exact ⟨hk.trans h, by simp [ha]⟩
    next k a hk ha =>
      split at h
      next lt =>
        cases h
        refine ⟨hk, fun b hb => ?_⟩
        rw [ha] at hb
        cases hb
        exact lt
      · cases h
    · cases h
  have range := List.mem_of_find?_eq_some top.1
  exact ⟨Nat.lt_succ_iff.mp (List.mem_range.mp range), top⟩

theorem StackOrder.formed {t : Tsc} {l : Nat} {f : Frame} {q : List Frame} (h : StackOrder t)
    (new : newTrainLevel t = some l) (queue : queueAt t l = f :: q) (tag : Nat) :
    StackOrder (formed l ⟨l, f.dest, tagFrames tag (takeTrain f.dest trainFrames (f :: q)).1⟩
      (takeTrain f.dest trainFrames (f :: q)).2 t) := by
  obtain ⟨level, -, urgent⟩ := newTrainLevel_eq_some new
  obtain ⟨rising, whole, top, queued⟩ := (stackOrder_iff t).mp h
  obtain ⟨most, own⟩ := takeTrain_spec f.dest trainFrames (f :: q)
  have split := takeTrain_append f.dest trainFrames (f :: q)
  have least : 1 ≤ (takeTrain f.dest trainFrames (f :: q)).1.length := takeTrain_pos f 3 q
  generalize takeTrain f.dest trainFrames (f :: q) = r at *
  refine (stackOrder_iff _).mpr ⟨?_, ?_, fun _ => rfl, ?_⟩
  · rw [formed_trains, List.pairwise_cons]
    refine ⟨fun b hb => ?_, rising⟩
    cases ha : t.active with
    | none =>
      have empty : t.stack = [] := by
        by_contra n
        simpa [ha] using top n
      simp [trains, ha, empty] at hb
    | some a =>
      simp only [trains, ha, Option.toList_some, List.singleton_append, List.mem_cons] at hb
      rw [trains, ha, Option.toList_some, List.singleton_append, List.pairwise_cons] at rising
      rcases hb with rfl | hb
      · exact urgent _ ha
      · exact (urgent a ha).trans (rising.1 b hb)
  · intro b hb
    rw [formed_trains, List.mem_cons] at hb
    rcases hb with rfl | hb
    · refine ⟨level, by rw [tagFrames_length]; exact ⟨least, most⟩, fun g hg => ?_⟩
      obtain ⟨x, hx, hl, hd⟩ := mem_tagFrames hg
      exact ⟨hl.trans (queued l x (queue ▸ (own x hx).1)), hd.trans (own x hx).2⟩
    · exact whole b hb
  · intro k g hg
    rw [show queueAt (Machine.formed l _ r.2 t) k = queueAt { t with queues := updAt t.queues l fun _ => r.2 } k
      from rfl, queueAt_updAt] at hg
    split at hg
    next e =>
      refine e.1 ▸ queued l g ?_
      rw [queue, ← split]
      exact List.mem_append_right _ hg
    · exact queued k g hg

theorem StackOrder.decides {s : State} (h : StackOrder s.tsc) : StackOrder (claimDecision s).1.tsc := by
  unfold claimDecision
  split
  next l new =>
    rcases formTrain_cases l s with ⟨-, e⟩ | ⟨f, q, queue, e⟩
    · rw [e]
      exact h.congr rfl rfl rfl
    · rw [e]
      obtain ⟨a, b, c⟩ := advanceTags_frames f.dest l (takeTrain f.dest trainFrames (f :: q)).1.length
        (s.mapTsc (Machine.formed l ⟨l, f.dest, tagFrames (tagCounter s f.dest l)
          (takeTrain f.dest trainFrames (f :: q)).1⟩ (takeTrain f.dest trainFrames (f :: q)).2))
      exact (h.formed new queue _).congr a b c
  · exact h.congr rfl rfl rfl

theorem StackOrder.reports {s : State} (h : StackOrder s.tsc) : StackOrder (recompute s).tsc := by
  rcases recompute_cases s with ⟨-, e⟩ | ⟨-, e | ⟨-, -, -, e⟩⟩
  · rwa [e]
  · rw [e]
    exact h.congr rfl rfl rfl
  · rw [e]
    have hd := StackOrder.decides (s := s.mapTsc fun t => { t with prospective := prospectiveLevel s.tsc })
      (h.congr rfl rfl rfl)
    rcases openClaim_cases s.now (s.mapTsc fun t => { t with prospective := prospectiveLevel s.tsc })
      with ⟨-, e⟩ | ⟨l, -, e⟩
    · rwa [e]
    · rw [e]
      simpa using hd

/-! ### Trains that shrink -/

theorem forall₂_shrinks_refl (l : List Train) : List.Forall₂ Shrinks l l :=
  List.forall₂_same.mpr fun r _ => .refl r

theorem forall₂_shrinks_map {g : Train → Train} (h : ∀ r, Shrinks (g r) r) (l : List Train) :
    List.Forall₂ Shrinks (l.map g) l :=
  List.forall₂_map_left_iff.mpr (List.forall₂_same.mpr fun r _ => h r)

/-- Trains that are whole are all kept by the test for completeness. -/
theorem filter_filled {l : List Train} (h : ∀ r ∈ l, r.frames ≠ []) :
    (l.filter fun r => !r.frames.isEmpty) = l :=
  List.filter_eq_self.mpr fun r hr => by simpa using h r hr

/-- R115: where the stacked trains are whole, a complete active train leaves and no other. -/
theorem popIfComplete_trains_eq {t : Tsc} (h : ∀ r ∈ t.stack, r.frames ≠ []) :
    trains (popIfComplete t) = (trains t).filter fun r => !r.frames.isEmpty := by
  have stack := filter_filled h
  unfold popIfComplete
  split
  next ha =>
    split
    next hs => simp [trains, ha, hs]
    next r rest hs =>
      rw [hs] at stack
      simp [trains, ha, hs, stack]
  next n =>
    cases ha : t.active with
    | none => simp [trains, ha, stack]
    | some a =>
      have filled : a.frames ≠ [] := by
        rintro e
        obtain ⟨l, d, fs⟩ := a
        dsimp only at e
        exact n l d (by rw [ha, e])
      simp [trains, ha, stack, filled]

theorem popIfComplete_top {t : Tsc} (h : t.stack ≠ [] → t.active.isSome = true) :
    (popIfComplete t).stack ≠ [] → (popIfComplete t).active.isSome = true := by
  unfold popIfComplete
  split
  · split
    next hs => simp [hs]
    · simp
  · exact h

theorem popIfComplete_queueAt (t : Tsc) (l : Nat) : queueAt (popIfComplete t) l = queueAt t l := by
  rw [queueAt, queueAt, popIfComplete_queues]

theorem StackOrder.filled {t : Tsc} (h : StackOrder t) : ∀ r ∈ trains t, r.frames ≠ [] :=
  fun r hr => List.ne_nil_of_length_pos (h.frames r hr).1

/-- The active train shrinks, and leaves when it is complete. -/
theorem StackOrder.shrinkActive {t u : Tsc} {a a' : Train} (h : StackOrder t) (ha : t.active = some a)
    (shrinks : Shrinks a' a) (queues : u.queues = t.queues) (active : u.active = some a')
    (stack : u.stack = t.stack) : StackOrder (popIfComplete u) := by
  have trains_t : trains t = a :: t.stack := by simp [trains, ha]
  have trains_u : trains u = a' :: t.stack := by simp [trains, active, stack]
  refine h.shrink (l := trains u) (popIfComplete_trains_eq ?_) ?_ (popIfComplete_top fun _ => by simp [active]) ?_
  · intro r hr
    exact h.filled r (by rw [trains_t]; exact List.mem_cons_of_mem _ (stack ▸ hr))
  · rw [trains_t, trains_u]
    exact .cons shrinks (forall₂_shrinks_refl _)
  · intro l f hf
    rw [popIfComplete_queueAt, queueAt, queues] at hf
    exact h.queued l f hf

theorem popIfComplete_of_filled {t : Tsc} {a : Train} (active : t.active = some a) (filled : a.frames ≠ []) :
    popIfComplete t = t := by
  unfold popIfComplete
  split
  next ha =>
    rw [active] at ha
    cases ha
    exact absurd rfl filled
  · rfl

theorem StackOrder.dropFrames {t : Tsc} (p : Frame → Bool) (h : StackOrder t) :
    StackOrder (dropFrames p t) := by
  have shrinks (r : Train) : Shrinks { r with frames := r.frames.filter fun f => !p f } r := .filter r _
  unfold Machine.dropFrames
  dsimp only
  refine h.shrink (l := (trains t).map fun r => { r with frames := r.frames.filter fun f => !p f })
    ?_ (forall₂_shrinks_map shrinks _) (popIfComplete_top ?_) ?_
  · rw [popIfComplete_trains_eq (by simp [purgeStack])]
    cases ha : t.active with
    | none => simp [trains, purgeStack, ha]
    | some a => simp [trains, purgeStack, ha, List.filter_cons]
  · intro n
    have : t.stack ≠ [] := by
      rintro e
      simp [purgeStack, e] at n
    simpa [purgeStack] using h.top this
  · intro l f hf
    rw [popIfComplete_queueAt] at hf
    refine h.queued l f ?_
    unfold queueAt at hf ⊢
    simp only [purgeStack, List.getD_eq_getElem?_getD, List.getElem?_map] at hf ⊢
    cases hq : t.queues[l]? with
    | none => simp [hq] at hf
    | some q =>
      simp only [hq, Option.map_some, Option.getD_some] at hf ⊢
      exact (List.mem_filter.mp hf).1

/-- A frame, marked as expired if it holds the descriptor (R124). -/
def markedExpired (k : FrameKind) (d : Nat) (f : Frame) : Frame :=
  if f.holds k d then { f with expired := true } else f

theorem StackOrder.markExpired {t : Tsc} (k : FrameKind) (d : Nat) (h : StackOrder t) :
    StackOrder (markExpired k d t) := by
  have shrinks (r : Train) : Shrinks { r with frames := r.frames.map (markedExpired k d) } r :=
    .map r (fun f => by unfold markedExpired; split <;> rfl) (fun f => by unfold markedExpired; split <;> rfl)
  have trains_eq : trains (Machine.markExpired k d t) = (trains t).map fun r =>
      { r with frames := r.frames.map (markedExpired k d) } := by
    cases ha : t.active <;> simp [trains, Machine.markExpired, ha, markedExpired]
  refine h.shrink (l := trains (Machine.markExpired k d t)) ?_ ?_ ?_ h.queued
  · refine (filter_filled fun r hr => ?_).symm
    rw [trains_eq] at hr
    obtain ⟨x, hx, rfl⟩ := List.mem_map.mp hr
    simpa using h.filled x hx
  · rw [trains_eq]
    exact forall₂_shrinks_map shrinks _
  · intro n
    have : t.stack ≠ [] := by
      rintro e
      simp [Machine.markExpired, e] at n
    simpa [Machine.markExpired] using h.top this

/-! ### Frames that join their queue -/

theorem StackOrder.joinQueue {t : Tsc} (f : Frame) (h : StackOrder t) : StackOrder (joinQueue f t) := by
  refine h.requeue rfl rfl fun l g hg => ?_
  rw [Machine.joinQueue, queueAt_updAt] at hg
  split at hg
  next e =>
    rcases List.mem_append.mp hg with hg | hg
    · exact (h.queued _ g hg).trans e.1
    · exact List.mem_singleton.mp hg ▸ e.1
  · exact h.queued l g hg

theorem StackOrder.admitData {s : State} (l : Nat) (d : Dest) (b : List Byte) (n : Nat) (x : Bool)
    (h : StackOrder s.tsc) : StackOrder (admitData l d b n x s).tsc := by
  unfold Machine.admitData
  dsimp only
  split
  · exact StackOrder.reports (h.joinQueue _)
  · exact h

theorem goOnLine_own (refs : List BlockRef) (f : Frame) :
    (goOnLine f refs).level = f.level ∧ (goOnLine f refs).dest = f.dest := by
  unfold goOnLine
  dsimp only
  split <;> exact ⟨rfl, rfl⟩

theorem stackOrder_rules : TscRules fun s => StackOrder s.tsc where
  stands h tsc _ := by rwa [tsc]
  decides := StackOrder.decides
  reports := StackOrder.reports
  cuts {s} h := by
    rcases cutBurst_cases s with e | ⟨a, b, ha, -, e⟩
    · rwa [e]
    · have shrinks : Shrinks { a with frames := a.frames.map fun f => goOnLine f b.refs } a :=
        .map a (fun f => (goOnLine_own _ f).1) fun f => (goOnLine_own _ f).2
      have filled : a.frames ≠ [] := h.filled a (by simp [trains, ha])
      have := h.shrinkActive ha shrinks (u := { s.tsc with
        active := some { a with frames := a.frames.map fun f => goOnLine f b.refs }, onLine := some b }) rfl rfl rfl
      rw [popIfComplete_of_filled rfl (by simpa using filled)] at this
      rw [e]
      simpa using this
  result {s} b acc h := by
    unfold applyResult
    split
    · exact StackOrder.reports (h.congr rfl rfl rfl)
    next a ha =>
      dsimp only
      refine StackOrder.reports (h.shrinkActive ha (.filterMap a (g := settleFrame b acc) (fun _ => rfl)
        (fun _ => rfl) fun f => decide (resolution b f = .stays)) ?_ rfl ?_)
      · simp
      · simp
  expiry {s} k d h := by
    unfold frameExpiry
    split
    · exact h
    · split
      · split
        · exact h.markExpired k d
        · exact StackOrder.reports (by simpa using h.dropFrames _)
      · exact h
  releases {s} i h := by
    rw [releasePeer_eq]
    exact StackOrder.reports (by simpa [releasing, releaseFrames] using h.dropFrames _)
  notice {s} i b h := by
    unfold admitNotice
    dsimp only
    split
    · refine h.requeue rfl rfl fun l g hg => ?_
      rw [State.mapTsc_tsc, queueAt_updAt] at hg
      split at hg
      next e =>
        obtain ⟨f, hf, rfl⟩ := List.mem_map.mp hg
        have level := (h.queued 0 f hf).trans e.1
        split <;> exact level
      · exact h.queued l g hg
    · split
      · exact StackOrder.reports (h.joinQueue _)
      · exact h
  floor n _ h := StackOrder.reports (h.congr rfl rfl rfl)
  applies {s} c _ h := by
    rw [applyConfig_eq]
    exact StackOrder.reports (h.congr rfl rfl rfl)
  arrives b x h := by simpa using h
  frame {s} b x h := by
    rcases portFrameReceived_tsc b x s with e | ⟨l, d, g, s', hs, e⟩
    · rwa [e]
    · rw [e]
      exact StackOrder.admitData _ _ _ _ _ (by rwa [hs])

theorem stackOrder_kept : KeptBy fun s => StackOrder s.tsc :=
  stackOrder_rules.kept fun s h => by
    rw [h.tsc]
    exact reset_stackOrder

/-- Settles O50: each operation of the scheduler keeps the trains in order and whole. -/
theorem stackOrderKept : Obligations.StackOrderKept := fun _ _ => stackOrder_kept.step

end Sys2Proof.Machine
end

section
/-! Energy on the line, quiet, and the instants of the medium (R32, R38 to R48). -/

namespace Sys2Proof.Machine

/-! ### What energy in progress leaves of the claim state -/

/-- The claim state that energy in progress up to `t` has left (R39, R43). -/
def lapsedClc (t : Time) (s : State) : Clc := (lapse { s with now := t }).clc

/-- Energy in progress changes the claim state alone. -/
theorem lapse_at (t : Time) (s : State) :
    lapse { s with now := t } = { s with now := t, clc := lapsedClc t s } := by
  unfold lapsedClc lapse
  cases s.lmd.energy with
  | none => rfl
  | some e => dsimp only; split <;> rfl

theorem heardAt_elsewhere {c : Clc} (h : c.medium ≠ .claiming) (t : Time) : heardAt t c = c := by
  rcases heardAt_cases t c with e | ⟨hm, -⟩
  · exact e
  · exact absurd hm h

/-- Energy puts only a station that contends OUT. -/
theorem heardAt_idle {c : Clc} (h : c.claim ≠ .contending) (t : Time) : heardAt t c = c := by
  rcases heardAt_cases t c with e | ⟨-, hc, -⟩
  · exact e
  · exact absurd hc h

/-- R43: a contending station that listens is put OUT by energy. -/
theorem heardAt_listening {c : Clc} {t m : Time} {w : BitVec 8} (hm : c.medium = .claiming)
    (hc : c.claim = .contending) (hs : c.markStart = some m) (hw : c.word = some w)
    (hl : ListensAt m t w) : heardAt t c = { c with claim := .out } := by
  simp only [heardAt, hm, hc, hs, hw]
  exact if_pos ((listensIn_iff m t w).mpr hl)

theorem heardAt_deaf {c : Clc} {t m : Time} {w : BitVec 8} (hm : c.medium = .claiming)
    (hc : c.claim = .contending) (hs : c.markStart = some m) (hw : c.word = some w)
    (hl : ¬ListensAt m t w) : heardAt t c = c := by
  simp only [heardAt, hm, hc, hs, hw]
  exact if_neg (mt (listensIn_iff m t w).mp hl)

/-- Without a report that began before `t` nothing lapses. -/
theorem lapsedClc_fresh {t : Time} {s : State} (h : ∀ e, s.lmd.energy = some e → e = t) :
    lapsedClc t s = s.clc := by
  unfold lapsedClc lapse
  cases he : s.lmd.energy with
  | none => rfl
  | some e => dsimp only; rw [if_pos (h e he)]

/-- Energy in progress is taken up in the listened mark slot and in a claim period alone. -/
theorem lapsedClc_elsewhere {s : State} (t : Time) (g : s.clc.medium = .gap → s.clc.markListen = false)
    (c : s.clc.medium ≠ .claiming) : lapsedClc t s = s.clc := by
  have unheard (n : Nat) : markHeard n t s.clc = s.clc :=
    if_neg fun h => absurd ((g h.1).symm.trans h.2.1) (by decide)
  unfold lapsedClc lapse
  cases s.lmd.energy with
  | none => rfl
  | some e =>
    dsimp only
    split
    · rfl
    · simp [heardAt_elsewhere c, unheard]

/-- R39: energy in progress in the gap is judged against the listened mark slot. -/
theorem lapsedClc_gap {t e : Time} {s : State} (hm : s.clc.medium = .gap)
    (he : s.lmd.energy = some e) (hne : e ≠ t) :
    lapsedClc t s = markHeard 7 t s.clc := by
  simp only [lapsedClc, lapse, he]
  rw [if_neg hne, State.mapClc_clc, heardAt_elsewhere (by simp [hm])]
  rfl

theorem lapsedClc_caught {t : Time} {s : State} (h : Caught t s) :
    lapsedClc t s = { s.clc with claim := .out } := by
  simp [lapsedClc, lapse_caught (s := { s with now := t }) h]

theorem lapsedClc_uncaught {t : Time} {s : State} (hm : s.clc.medium = .claiming)
    (h : ¬Caught t s) : lapsedClc t s = s.clc := by
  simp [lapsedClc, lapse_uncaught (s := { s with now := t }) hm h]

/-- R39: the opening instant has been marked by another station, `n` µs into the mark slot or later. -/
theorem markHeard_late {c : Clc} {n : Nat} {t f : Time} (hm : c.medium = .gap)
    (hl : c.markListen = true) (hf : c.freeInstant = some f) (hn : n ≤ elapsed (after f 40) t) :
    markHeard n t c = othersMark (after f 40) c := by
  have opening : openingOf c = after f 40 := by simp [openingOf, hf, openingDelay]
  unfold markHeard
  rw [opening, if_pos ⟨hm, hl, hn⟩]

theorem markHeard_early {c : Clc} {n : Nat} {t f : Time} (hf : c.freeInstant = some f)
    (hn : elapsed (after f 40) t < n) : markHeard n t c = c := by
  have opening : openingOf c = after f 40 := by simp [openingOf, hf, openingDelay]
  unfold markHeard
  rw [opening, if_neg fun h => Nat.not_lt.mpr h.2.2 hn]

theorem sendsAt_silent {c : Clc} (t : Time) (h : c.medium ≠ .claiming ∨ c.claim ≠ .contending) :
    sendsAt c t = false := by
  unfold sendsAt
  split
  next hm hc _ _ => rcases h with h | h <;> contradiction
  · rfl

/-- R32, R43: a station that does not send, or that energy in progress has put OUT, does not send then. -/
theorem sendsAt_lapsed {t : Time} {s : State} (h : sendsAt s.clc t = false ∨ Caught t s) :
    sendsAt (lapsedClc t s) t = false := by
  by_cases hc : Caught t s
  · exact sendsAt_silent t (.inr (by simp [lapsedClc_caught hc]))
  · have quiet : sendsAt s.clc t = false := h.resolve_right hc
    by_cases hm : s.clc.medium = .claiming
    · rwa [lapsedClc_uncaught hm hc]
    · by_cases hg : s.clc.medium = .gap ∧ ∃ e, s.lmd.energy = some e ∧ e ≠ t
      · obtain ⟨hg, e, he, hne⟩ := hg
        rw [lapsedClc_gap hg he hne]
        rcases markHeard_cases 7 t s.clc with h | ⟨-, -, h⟩
        · rwa [h]
        · exact sendsAt_silent t (.inr (by simp [h, othersMark]))
      · have same : lapsedClc t s = s.clc := by
          by_cases hg' : s.clc.medium = .gap
          · exact lapsedClc_fresh fun e he => by
              by_contra hne
              exact hg ⟨hg', e, he, hne⟩
          · exact lapsedClc_elsewhere t (fun h => absurd h hg') hm
        rwa [same]

/-! ### Reports of energy -/

/-- The modem watches the line (R32, R49). -/
theorem watches_of {s : State} (w : watching s.lmd.activity = true) (m : s.clc.medium ≠ .sending) :
    s.watches = true := by simp [State.watches, w, m]

theorem not_watches_of {s : State} (h : watching s.lmd.activity = false ∨ s.clc.medium = .sending) :
    s.watches = false := by
  rcases h with h | h <;> simp [State.watches, h]

/-- R32: what a watching modem reports, once energy in progress has been taken up. -/
theorem energyReport_watching {a b : Bool} {s : State} (w : s.watches = true)
    (quiet : sendsAt (lapse s).clc (lapse s).now = false) :
    energyReport a b s =
      if onEnabledPath (lapse s).lmd.path a b then
        ((lapse s).mapLmd fun m => { m with
          energy := some (m.energy.getD (lapse s).now), lastEnergy := some (lapse s).now }).mapClc
            (energyToClc (lapse s).now (lapse s).lmd.energy.isNone)
      else if (lapse s).lmd.energy.isSome then
        (lapse s).mapLmd fun m => { m with
          energy := none, lastEnergy := some (lapse s).now, quietFrom := (lapse s).now }
      else lapse s := by
  unfold energyReport
  rw [if_neg (by simp [w])]
  dsimp only
  rw [if_neg (ne_true_of_eq_false quiet)]

/-- R32: the detectors find energy at `t`. -/
theorem exec_energyFound {t : Time} {a b : Bool} {s : State} (live : s.nrstLow = false)
    (w : watching s.lmd.activity = true) (m : s.clc.medium ≠ .sending)
    (quiet : sendsAt s.clc t = false ∨ Caught t s) (found : onEnabledPath s.lmd.path a b = true) :
    exec (.energyReport t a b) s = .next { s with
      now := t
      lmd := { s.lmd with energy := some (s.lmd.energy.getD t), lastEnergy := some t }
      clc := energyToClc t s.lmd.energy.isNone (lapsedClc t s) } := by
  refine exec_eq live ?_
  have watches : ({ s with now := t } : State).watches = true := watches_of w m
  refine (energyReport_watching watches ?_).trans ?_
  · rw [lapse_at]
    exact sendsAt_lapsed quiet
  · rw [lapse_at, if_pos found]
    rfl

/-- R32: the detectors find nothing at `t`. -/
theorem exec_energyGone {t : Time} {a b : Bool} {s : State} (live : s.nrstLow = false)
    (w : watching s.lmd.activity = true) (m : s.clc.medium ≠ .sending)
    (quiet : sendsAt s.clc t = false ∨ Caught t s) (gone : onEnabledPath s.lmd.path a b = false) :
    exec (.energyReport t a b) s = .next { s with
      now := t
      lmd := if s.lmd.energy.isSome then
          { s.lmd with energy := none, lastEnergy := some t, quietFrom := t } else s.lmd
      clc := lapsedClc t s } := by
  refine exec_eq live ?_
  have watches : ({ s with now := t } : State).watches = true := watches_of w m
  refine (energyReport_watching watches ?_).trans ?_
  · rw [lapse_at]
    exact sendsAt_lapsed quiet
  · rw [lapse_at, if_neg (by simp [gone])]
    dsimp only
    split <;> rfl

/-- R32, R49: a modem that does not watch reports nothing. -/
theorem exec_energy_unwatched {t : Time} {a b : Bool} {s : State} (live : s.nrstLow = false)
    (h : watching s.lmd.activity = false ∨ s.clc.medium = .sending) :
    exec (.energyReport t a b) s = .next { s with now := t } :=
  exec_eq live (if_pos (not_watches_of (s := { s with now := t }) h))

section energyToClc

variable {c : Clc} (t : Time) (onset : Bool)

theorem energyToClc_idle (h : c.medium = .idle) : energyToClc t onset c =
    if onset then othersMark t { c with quietFlag := false } else { c with quietFlag := false } := by
  simp [energyToClc, h]

theorem energyToClc_gap (h : c.medium = .gap) (hl : c.markListen = false) : energyToClc t onset c =
    if onset then othersMark t { c with quietFlag := false } else { c with quietFlag := false } := by
  simp [energyToClc, h, hl]

theorem energyToClc_markSlot (h : c.medium = .gap) (hl : c.markListen = true) :
    energyToClc t onset c = markHeard 6 t { c with quietFlag := false } := by
  simp [energyToClc, h, hl, listenGuard]

theorem energyToClc_claiming (h : c.medium = .claiming) :
    energyToClc t onset c = heardAt t { c with quietFlag := false } := by
  simp [energyToClc, h]

theorem energyToClc_elsewhere (h : c.medium = .occupied ∨ c.medium = .sensedBusy ∨
    c.medium = .awaitReceipt) : energyToClc t onset c = { c with quietFlag := false } := by
  rcases h with h | h | h <;> simp [energyToClc, h]

end energyToClc

/-- R39: energy in the listened mark slot, after `lapse` has taken what was in progress. -/
theorem energyToClc_lapsed_markSlot {t f : Time} {s : State} (onset : Bool) (hm : s.clc.medium = .gap)
    (hl : s.clc.markListen = true) (hf : s.clc.freeInstant = some f) :
    energyToClc t onset (lapsedClc t s) = if 6 ≤ elapsed (after f 40) t
      then othersMark (after f 40) { s.clc with quietFlag := false }
      else { s.clc with quietFlag := false } := by
  have fromGap : energyToClc t onset s.clc = if 6 ≤ elapsed (after f 40) t
      then othersMark (after f 40) { s.clc with quietFlag := false }
      else { s.clc with quietFlag := false } := by
    rw [energyToClc_markSlot t onset hm hl]
    split
    next late => exact markHeard_late hm hl hf late
    next early => exact markHeard_early hf (Nat.lt_of_not_le early)
  by_cases hp : ∃ e, s.lmd.energy = some e ∧ e ≠ t
  · obtain ⟨e, he, hne⟩ := hp
    rw [lapsedClc_gap hm he hne]
    by_cases late : 7 ≤ elapsed (after f 40) t
    · rw [markHeard_late hm hl hf late, energyToClc_claiming t onset rfl,
        heardAt_idle (by simp [othersMark]), if_pos (Nat.le_of_succ_le late)]
      rfl
    · rw [markHeard_early hf (Nat.lt_of_not_le late), fromGap]
  · rw [lapsedClc_fresh fun e he => by by_contra hne; exact hp ⟨e, he, hne⟩, fromGap]

/-- R43: energy at a contending station in a claim period. -/
theorem energyToClc_lapsed_contest {t m : Time} {w : BitVec 8} {s : State} (onset : Bool)
    (hm : s.clc.medium = .claiming) (hc : s.clc.claim = .contending) (hs : s.clc.markStart = some m)
    (hw : s.clc.word = some w) :
    (ListensAt m t w ∨ Caught t s → energyToClc t onset (lapsedClc t s) =
      { s.clc with quietFlag := false, claim := .out }) ∧
    (¬ListensAt m t w → ¬Caught t s → energyToClc t onset (lapsedClc t s) =
      { s.clc with quietFlag := false }) := by
  refine ⟨fun h => ?_, fun deaf h => ?_⟩
  · by_cases caught : Caught t s
    · rw [lapsedClc_caught caught, energyToClc_claiming t onset (by exact hm), heardAt_idle (by simp)]
    · rw [lapsedClc_uncaught hm caught, energyToClc_claiming t onset hm]
      exact heardAt_listening hm hc hs hw (h.resolve_right caught)
  · rw [lapsedClc_uncaught hm h, energyToClc_claiming t onset hm]
    exact heardAt_deaf hm hc hs hw deaf

/-- A report that begins has caught no one. -/
theorem not_caught_of_quiet {t : Time} {s : State} (h : s.lmd.energy = none) : ¬Caught t s := by
  rintro ⟨-, -, e, -, -, he, -⟩
  simp [h] at he

theorem energyToClc_lapsed_idleClaim {t : Time} {s : State} (onset : Bool)
    (hm : s.clc.medium = .claiming) (hc : s.clc.claim ≠ .contending) :
    energyToClc t onset (lapsedClc t s) = { s.clc with quietFlag := false } := by
  rw [lapsedClc_uncaught hm fun h => hc h.2.1, energyToClc_claiming t onset hm]
  exact heardAt_idle (by exact hc) t

/-- Settles O14: the claim state that a report leaves, by medium and claim state. -/
theorem energyBegins : Obligations.EnergyBegins := by
  intro t a b s live w notSending silent single dual
  have found : onEnabledPath s.lmd.path a b = true := by
    cases h : s.lmd.path with
    | single => exact single h
    | dual => simpa [onEnabledPath] using dual h
  have reports {k : Clc} {onset : Time} (ho : s.lmd.energy.getD t = onset)
      (hk : energyToClc t s.lmd.energy.isNone (lapsedClc t s) = k) :
      exec (.energyReport t a b) s = .next { s with
        now := t, lmd := { s.lmd with energy := some onset, lastEnergy := some t }, clc := k } := by
    rw [exec_energyFound live w notSending silent found, ho, hk]
  have calmGap (hm : s.clc.medium = .gap) (hl : s.clc.markListen = false) :
      lapsedClc t s = s.clc := lapsedClc_elsewhere t (fun _ => hl) (by simp [hm])
  have calm (hm : s.clc.medium ≠ .gap) (hc : s.clc.medium ≠ .claiming) : lapsedClc t s = s.clc :=
    lapsedClc_elsewhere t (fun h => absurd h hm) hc
  refine ⟨fun he => ⟨fun hm => ?_, fun hm hl => ?_, fun m word hm hc hs hw => ?_⟩,
    fun e he => ⟨fun hm => ?_, fun hm hl => ?_, fun m word hm hc hs hw => ?_⟩,
    fun f hm hl hf => ⟨fun late => ?_, fun early => ?_⟩, fun hm hc => ?_, fun hm => ?_⟩
  · refine reports (by simp [he]) ?_
    rw [calm (by simp [hm]) (by simp [hm]), energyToClc_idle t _ hm, he]
    rfl
  · refine reports (by simp [he]) ?_
    rw [calmGap hm hl, energyToClc_gap t _ hm hl, he]
    rfl
  · have ⟨out, stays⟩ := energyToClc_lapsed_contest (t := t) s.lmd.energy.isNone hm hc hs hw
    exact ⟨fun h => reports (by simp [he]) (out (.inl h)),
      fun h => reports (by simp [he]) (stays h (not_caught_of_quiet he))⟩
  · refine reports (by simp [he]) ?_
    rw [calm (by simp [hm]) (by simp [hm]), energyToClc_idle t _ hm, he]
    rfl
  · refine reports (by simp [he]) ?_
    rw [calmGap hm hl, energyToClc_gap t _ hm hl, he]
    rfl
  · have ⟨out, stays⟩ := energyToClc_lapsed_contest (t := t) s.lmd.energy.isNone hm hc hs hw
    exact ⟨fun h => reports (by simp [he]) (out h), fun h h' => reports (by simp [he]) (stays h h')⟩
  · refine reports rfl ?_
    rw [energyToClc_lapsed_markSlot _ hm hl hf, if_pos late]
    rfl
  · refine reports rfl ?_
    rw [energyToClc_lapsed_markSlot _ hm hl hf, if_neg (Nat.not_le.mpr early)]
  · exact reports rfl (energyToClc_lapsed_idleClaim _ hm hc)
  · refine reports rfl ?_
    rw [calm (by rcases hm with h | h | h <;> simp [h]) (by rcases hm with h | h | h <;> simp [h]),
      energyToClc_elsewhere t _ hm]

/-- Settles O15: the claim state that energy in progress has left, by medium and claim state; a modem that
does not watch, or whose station sends, reports nothing. -/
theorem energyEnds : Obligations.EnergyEnds := by
  intro t a b s live
  refine ⟨fun w notSending silent offA offB => ?_, fun h => ?_⟩
  · have gone : onEnabledPath s.lmd.path a b = false := by
      cases h : s.lmd.path with
      | single => exact offA
      | dual => simp [onEnabledPath, offA, offB.resolve_left (by simp [h])]
    have ends {e : Time} {k : Clc} (he : s.lmd.energy = some e) (hk : lapsedClc t s = k) :
        exec (.energyReport t a b) s = .next { s with
          now := t
          lmd := { s.lmd with energy := none, lastEnergy := some t, quietFrom := t }
          clc := k } := by
      rw [exec_energyGone live w notSending silent gone, hk]
      simp [he]
    refine ⟨fun he => ?_, fun e he hg hc => ?_, fun e f he hm hf => ⟨fun hl hne late => ?_, fun h => ?_⟩,
      fun e m word he hm hc hs hw => ⟨fun h => ?_, fun h => ?_⟩, fun e he hm hc => ?_⟩
    · rw [exec_energyGone live w notSending silent gone, lapsedClc_fresh (by simp [he])]
      simp [he]
    · exact ends he (lapsedClc_elsewhere t (fun h => absurd h hg) hc)
    · refine ends he ?_
      rw [lapsedClc_gap hm he hne, markHeard_late hm hl hf late]
      rfl
    · refine ends he ?_
      rcases h with hl | h | early
      · exact lapsedClc_elsewhere t (fun _ => hl) (by simp [hm])
      · exact lapsedClc_fresh fun e' he' => by rwa [← Option.some.inj (he.symm.trans he')]
      · by_cases hne : e = t
        · exact lapsedClc_fresh fun e' he' => by rwa [← Option.some.inj (he.symm.trans he')]
        · rw [lapsedClc_gap hm he hne, markHeard_early hf early]
    · exact ends he (lapsedClc_caught h)
    · exact ends he (lapsedClc_uncaught hm h)
    · exact ends he (lapsedClc_uncaught hm fun h => hc h.2.1)
  · rcases h with h | h | h | h | ⟨h, hc⟩
    · exact exec_energy_unwatched live (.inl (by simp [h, watching]))
    · exact exec_energy_unwatched live (.inl (by simp [h, watching]))
    · exact exec_energy_unwatched live (.inl (by simp [h, watching]))
    · exact exec_energy_unwatched live (.inr h)
    · exact exec_eq live (energyReport_sending (s := { s with now := t }) a b h hc)

end Sys2Proof.Machine
end

section
/-! Quiet, the free instant, the opening instant and the slots of a claim period (R32, R37 to R48). -/

namespace Sys2Proof.Machine

/-! ### Claim decisions and marks -/

/-- R114: a claim decision at no level reports that there is none. -/
theorem claimDecision_none {s : State} (h : prospectiveLevel s.tsc = none) :
    (claimDecision s).1 = s.mapTsc fun t => { t with prospective := none } := by
  have noTrain : newTrainLevel s.tsc = none := by
    cases hn : newTrainLevel s.tsc with
    | none => rfl
    | some l => simp [prospectiveLevel, hn] at h
  simp [claimDecision, noTrain, State.mapTsc, h]

/-- A claim decision does not depend on the time base. -/
theorem claimDecision_at (t : Time) (s : State) :
    (claimDecision { s with now := t }).1 = { (claimDecision s).1 with now := t } := by
  have advance (dest : Dest) (l n : Nat) (r : State) :
      advanceTags dest l n { r with now := t } = { advanceTags dest l n r with now := t } := by
    cases dest with
    | broadcast => rfl
    | peer i =>
      simp only [advanceTags, State.mapPeer, State.peer]
      cases tableGet r.peers i <;> rfl
  have forms (l : Nat) : formTrain l { s with now := t } = { formTrain l s with now := t } := by
    unfold formTrain
    dsimp only
    split
    · rfl
    next f q _ =>
      exact advance f.dest l _ (s.mapTsc (formed l ⟨l, f.dest, tagFrames (tagCounter s f.dest l)
        (takeTrain f.dest trainFrames (f :: q)).1⟩ (takeTrain f.dest trainFrames (f :: q)).2))
  unfold claimDecision
  dsimp only
  split
  · rw [forms]
    rfl
  · rfl

/-- R37: a decision at no level opens no claim period. -/
theorem openClaim_none {s : State} (h : prospectiveLevel s.tsc = none) (t : Time) :
    openClaim t s = s.mapTsc fun t => { t with prospective := none } := by
  rcases openClaim_cases t s with ⟨-, e⟩ | ⟨l, hl, -⟩
  · rw [e, claimDecision_none h]
  · simp [h] at hl

theorem openClaim_some {s : State} {l : Nat} (h : prospectiveLevel s.tsc = some l) (t : Time) :
    openClaim t s = startMark t l (claimDecision s).1 := by
  rcases openClaim_cases t s with ⟨hn, -⟩ | ⟨l', hl, e⟩
  · simp [h] at hn
  · rwa [Option.some.inj (h.symm.trans hl)]

@[simp] theorem dropBurstInHand_notch (s : State) : (dropBurstInHand s).lmd.notch = s.lmd.notch := by
  cases h : s.lmd.inHand <;> simp [dropBurstInHand, h]

theorem startMark_clc (start : Time) (l : Nat) (s : State) :
    (startMark start l s).clc =
      { s.clc with
        medium := .claiming, claim := .contending, markStart := some start
        lostStreak := streakAtMark s.clc l, rng := rngDraw s.clc.rng
        word := some (claimWord l s.clc.waited (rngDraw s.clc.rng)), level := some l
        markListen := false, lossCounted := false } := by
  simp [startMark]

/-- R39, R41, R42, R45: a mark started from `r` marks for `s`, whose generator, streak, waited flag and
notches `r` has. -/
theorem startMark_marked {s r : State} (start : Time) (l : Nat) (rng : r.clc.rng = s.clc.rng)
    (waited : r.clc.waited = s.clc.waited) (lastLevel : r.clc.lastLevel = s.clc.lastLevel)
    (streak : r.clc.lostStreak = s.clc.lostStreak) (notch : r.lmd.notch = s.lmd.notch) :
    Marked start l s (startMark start l r) := by
  have clc := startMark_clc start l r
  rw [rng, waited] at clc
  constructor
  all_goals try rw [clc]
  case streak => simp [streakAtMark, lastLevel, streak]
  case waited => exact waited
  case word => rfl
  case signal =>
    have line : (startMark start l r).lmd.lineOut = .claimSignal (claimSymbol s.lmd.notch) := by
      simp [startMark, sendClaimSignal, notch]
    exact line
  case hand => simp [startMark, sendClaimSignal]

/-- R37, R39: the mark slot that a claim decision opens. -/
theorem openClaim_marked {s r : State} {l : Nat} (start : Time) (h : prospectiveLevel r.tsc = some l)
    (rng : r.clc.rng = s.clc.rng) (waited : r.clc.waited = s.clc.waited)
    (lastLevel : r.clc.lastLevel = s.clc.lastLevel) (streak : r.clc.lostStreak = s.clc.lostStreak)
    (notch : r.lmd.notch = s.lmd.notch) : Marked start l s (openClaim start r) := by
  rw [openClaim_some h]
  exact startMark_marked start l (by simpa using rng) (by simpa using waited) (by simpa using lastLevel)
    (by simpa using streak) (by simpa using notch)

/-! ### Quiet reports -/

/-- A quiet report, and no energy within 100 µs, as the modem takes it (R32). -/
def quieted (s : State) : State :=
  (s.mapLmd fun m => { m with listenFrom := none }).mapClc fun c => { c with quietFlag := true }

/-- R32: a quiet report that the modem makes. -/
theorem quietReport_due {s : State} (w : s.watches = true) (none : s.lmd.energy = none)
    (silent : sendsAt s.clc s.now = false) (long : 100 ≤ elapsed s.lmd.quietFrom s.now) :
    quietReport s = match s.clc.medium with
      | .sensedBusy => (quieted s).mapClc (freeAt s.now)
      | .idle => if s.suc.station = .online then openClaim s.now (quieted s) else quieted s
      | _ => quieted s := by
  unfold quietReport
  rw [if_pos ⟨w, none, silent, long⟩]
  simp only [State.isOnline, decide_eq_true_eq]
  rfl

/-- Settles O16: what the report of the quiet line does in each medium state. -/
theorem quietReported : Obligations.QuietReported := by
  intro t s live w none silent long
  have due (m : s.clc.medium ≠ .sending) : exec (.quietReport t) s = .next (match s.clc.medium with
      | .sensedBusy => (quieted { s with now := t }).mapClc (freeAt t)
      | .idle => if s.suc.station = .online then openClaim t (quieted { s with now := t })
          else quieted { s with now := t }
      | _ => quieted { s with now := t }) :=
    exec_eq live (quietReport_due (s := { s with now := t }) (watches_of w m) none silent long)
  refine ⟨fun hm => ?_, fun hm => ?_, fun h1 h2 h3 => ?_, fun hm online level => ?_,
    fun l hm online level => ?_⟩
  · exact exec_eq live (if_neg fun h =>
      absurd (h.1.symm.trans (not_watches_of (s := { s with now := t }) (.inr hm))) (by decide))
  · rw [due (by simp [hm]), hm]
    rfl
  · rw [due h1]
    split
    next hm => exact absurd hm h2
    next hm => exact absurd hm h3
    next => rfl
  · rw [due (by simp [hm]), hm, online]
    dsimp only
    rw [if_pos rfl, openClaim_none (by exact level)]
    rfl
  · refine ⟨openClaim t (quieted { s with now := t }), ?_, openClaim_marked t level rfl rfl rfl rfl rfl, ?_⟩
    · rw [due (by simp [hm]), hm, online]
      rfl
    · rw [openClaim_some (by exact level), startMark_clc]
      simp [quieted]

/-! ### Losses -/

/-- R45: a lost period, counted, with the modem silent. -/
theorem losePeriod_eq (s : State) : losePeriod s = losing s := rfl

theorem lossOpen_iff (c : Clc) : lossOpen c = true ↔ LossOpen c := by simp [lossOpen, LossOpen]

/-- R45: a loss that stands open is counted. -/
theorem settleLoss_settled (s : State) : LossSettled s (settleLoss s) := by
  refine ⟨fun h => ?_, fun h => ?_⟩
  · exact if_pos ((lossOpen_iff _).mpr h)
  · exact if_neg (mt (lossOpen_iff _).mp h)

/-- What settling the loss leaves is the one state that has it settled. -/
theorem LossSettled.eq {s d : State} (h : LossSettled s d) : d = settleLoss s := by
  obtain ⟨open', closed⟩ := settleLoss_settled s
  by_cases ho : LossOpen s.clc
  · rw [h.1 ho, open' ho]
  · rw [h.2 ho, closed ho]

/-- Settling the loss goes by the claim state alone, and leaves the time base. -/
theorem settleLoss_at (t : Time) (s : State) :
    settleLoss { s with now := t } = { settleLoss s with now := t } := by
  unfold settleLoss
  dsimp only
  split <;> rfl

/-! ### Free instants -/

/-- R38: energy in progress at the tail of the gap. -/
theorem gapTailCheck_due {s : State} {f : Time} (hm : s.clc.medium = .gap)
    (hf : s.clc.freeInstant = some f) (due : reached s.now (after f 10) = true)
    (hl : s.clc.markListen = false) :
    gapTailCheck s = if s.lmd.energy.isSome = true then s.mapClc sensedBusy else s := by
  simp [gapTailCheck, hm, hf, tailTime, due, hl]

theorem occupancyEnd_due {s : State} {u : Time} (hm : s.clc.medium = .occupied)
    (hu : s.clc.occupancyEnd = some u) (due : reached s.now u = true) :
    occupancyEnd s = s.mapClc (freeAt u) := by
  simp [occupancyEnd, hm, hu, due]

/-- R46: the deadline passes with no header. -/
theorem hiddenWinnerDeadline_due {s : State} {u : Time} (hm : s.clc.medium = .claiming)
    (hc : s.clc.claim ≠ .contending) (hs : s.clc.markStart = some u)
    (due : reached s.now (after (after u 270) 200) = true) :
    hiddenWinnerDeadline s = (settleLoss s).mapClc
      (if energySince s (after u 270) then sensedBusy else freeAt (after (after u 270) 200)) := by
  simp only [hiddenWinnerDeadline, hm, hs]
  exact if_pos ⟨hc, due⟩

/-- Settles O17: the three commands at their instants. -/
theorem freeInstants : Obligations.FreeInstants := by
  intro t u s live
  refine ⟨fun hm hf due hl => ?_, fun hm hu due => ?_, fun d hm hc hs due settled => ?_⟩
  · have tail := exec_eq (c := .gapTailCheck t) live
      (gapTailCheck_due (s := { s with now := t }) hm hf due hl)
    refine ⟨fun he => ?_, fun he => ?_⟩
    · rw [tail, if_pos (Option.isSome_iff_ne_none.mpr he)]
      rfl
    · rw [tail, if_neg (by simp [he])]
  · exact exec_eq live (occupancyEnd_due (s := { s with now := t }) hm hu due)
  · have deadline : exec (.hiddenWinnerDeadline t) s = .next { d with
        now := t
        clc := (if energySince { s with now := t } (after u 270) then sensedBusy
          else freeAt (after (after u 270) 200)) d.clc } := by
      refine exec_eq live
        ((hiddenWinnerDeadline_due (s := { s with now := t }) hm hc hs due).trans ?_)
      rw [settleLoss_at, settled.eq]
      rfl
    have heard : energySince { s with now := t } (after u 270) = true ↔
        s.clc.quietFlag = false ∧ (s.lmd.energy ≠ none ∨
          ∃ e, s.lmd.lastEnergy = some e ∧ elapsed e t < elapsed (after u 270) t) := by
      cases he : s.lmd.lastEnergy <;>
        simp [energySince, he, Option.isSome_iff_ne_none]
    refine ⟨fun h => ?_, fun h => ?_⟩
    · rw [deadline, if_pos (heard.mpr h)]
      rfl
    · rw [deadline, if_neg (mt heard.mp h)]
      rfl

/-- R39: the opening instant reached by a station ONLINE that waits for it. -/
theorem openingInstant_due {s : State} {f : Time} (hm : s.clc.medium = .gap)
    (hf : s.clc.freeInstant = some f) (due : reached s.now (after f 40) = true)
    (hl : s.clc.markListen = false) (online : s.suc.station = .online) :
    (prospectiveLevel s.tsc = none →
      openingInstant s = (claimDecision s).1.mapClc fun c => { c with markListen := true }) ∧
    (∀ l, prospectiveLevel s.tsc = some l →
      openingInstant s = startMark (after f 40) l (claimDecision s).1) := by
  have answers : claimDecision s = ((claimDecision s).1, prospectiveLevel s.tsc) := rfl
  simp only [openingInstant, hm, hf]
  rw [if_pos ⟨due, hl, decide_eq_true online⟩]
  refine ⟨fun h => ?_, fun l h => ?_⟩
  · rw [answers, h]
  · rw [answers, h]
    rfl

/-- Settles O18: the decision at the opening instant, and the mark of a pending station. -/
theorem openingInstant_marks_or_listens : Obligations.OpeningInstant := by
  intro t f s live hm hf due hl online
  obtain ⟨listens, marks⟩ :=
    openingInstant_due (s := { s with now := t }) hm hf due hl online
  refine ⟨fun level => ?_, fun l level => ?_⟩
  · refine exec_eq live ((listens level).trans ?_)
    rw [claimDecision_none (by exact level)]
    rfl
  · refine ⟨startMark (after f 40) l (claimDecision { s with now := t }).1,
      exec_eq live (marks l level), startMark_marked _ l ?_ ?_ ?_ ?_ ?_, ?_⟩
    all_goals simp [claimDecision_at]

/-! ### Slots of a claim period -/

/-- An instant `n` µs after another has been reached: that much time has passed. -/
theorem le_elapsed_of_reached {t u : Time} {n : Nat} (hn : n < 2147483648)
    (h : reached t (after u n) = true) : n ≤ elapsed u t := by
  have small : (BitVec.ofNat 32 n).toNat = n := by simp; omega
  replace h : (t - (u + BitVec.ofNat 32 n)).toNat < 2147483648 := of_decide_eq_true h
  change n ≤ (t - u).toNat
  generalize BitVec.ofNat 32 n = k at *
  bv_omega

/-- R39: the end of the listened mark slot, by the claim state that energy in progress has left. -/
theorem markSlotListenEnd_due {s : State} {u : Time} (hm : s.clc.medium = .gap)
    (hl : s.clc.markListen = true) (hf : s.clc.freeInstant = some u)
    (due : reached s.now (after (after u 40) 30) = true) :
    ((lapse s).clc.medium ≠ .gap → markSlotListenEnd s = lapse s) ∧
    (lapse s = s →
      let idle := s.mapClc fun c => { c with medium := .idle, markListen := false }
      (s.tsc.prospective = none ∨ s.clc.quietFlag = false → markSlotListenEnd s = idle) ∧
      (s.tsc.prospective ≠ none → s.clc.quietFlag = true → s.suc.station = .online →
        markSlotListenEnd s = openClaim s.now idle)) := by
  have now : reached s.now (after (openingOf s.clc) slotTime) = true := by
    simpa [openingOf, hf, openingDelay, slotTime] using due
  unfold markSlotListenEnd
  rw [if_pos ⟨hm, hl, now⟩]
  dsimp only
  refine ⟨fun h => if_neg h, fun h => ?_⟩
  rw [h, if_pos hm]
  refine ⟨fun none => if_neg ?_, fun some quiet online => if_pos ?_⟩
  · rintro ⟨h1, h2, -⟩
    rcases none with n | n
    · simp [n] at h1
    · simp [n] at h2
  · exact ⟨Option.isSome_iff_ne_none.mpr some, quiet, decide_eq_true online⟩

/-- R43: what a bit slot begins for the claim state that energy in progress has left. -/
theorem claimBitSlot_out {s : State} (hm : (lapse s).clc.medium = .claiming)
    (hc : (lapse s).clc.claim = .out) : claimBitSlot s = silence (lapse s) := by
  simp only [claimBitSlot, hm, hc]

theorem claimBitSlot_contest {s : State} {u : Time} {w : BitVec 8} (still : lapse s = s)
    (hm : s.clc.medium = .claiming) (hc : s.clc.claim = .contending) (hs : s.clc.markStart = some u)
    (hw : s.clc.word = some w) (first : 1 ≤ elapsed u s.now / 30) (last : elapsed u s.now / 30 ≤ 8) :
    claimBitSlot s = if w.getLsbD (8 - elapsed u s.now / 30)
      then sendClaimSignal (after u (30 * (elapsed u s.now / 30))) s else silence s := by
  simp only [claimBitSlot, still, hm, hc, hs, hw]
  exact if_pos ⟨first, last⟩

/-- R32: the claim signal with nothing in hand. -/
theorem sendClaimSignal_free {s : State} (h : s.lmd.inHand = none) (start : Time) :
    sendClaimSignal start s = s.mapLmd fun m => { m with
      lineOut := .claimSignal (m.notch.map fun n => if n then .silent else .claim)
      energy := none, quietFrom := after start 30 } := by
  simp only [sendClaimSignal, dropBurstInHand, h]
  rfl

/-- R18, R32: the claim signal drops a burst in hand, and the burst in service. -/
theorem sendClaimSignal_drops {s : State} (h : s.lmd.inHand ≠ none) (start : Time) :
    sendClaimSignal start s = { s with
      lmd := { backToListen s.now s.lmd with
        lineOut := .claimSignal (s.lmd.notch.map fun n => if n then .silent else .claim)
        energy := none, quietFrom := after start 30 }
      rxa := { s.rxa with service := none } } := by
  obtain ⟨b, hb⟩ := Option.ne_none_iff_exists'.mp h
  simp only [sendClaimSignal, dropBurstInHand, hb]
  rfl

/-- Settles O19: the end of the mark slot, and the beginning of a bit slot, by energy in progress and by
the bit of the word. -/
theorem claimSlots : Obligations.ClaimSlots := by
  intro t u s live
  refine ⟨fun hm hl hf due ⟨e, he, hne⟩ => ?_, fun hm hl hf due quiet => ?_, fun w hm hs hw => ?_⟩
  · have late : 7 ≤ elapsed (after u 40) t := (by decide : 7 ≤ 30).trans
      (le_elapsed_of_reached (by decide) due)
    have marked : lapsedClc t s = othersMark (after u 40) s.clc := by
      rw [lapsedClc_gap hm he hne, markHeard_late hm hl hf late]
    have ends := (markSlotListenEnd_due (s := { s with now := t }) hm hl hf due).1
    rw [lapse_at, marked] at ends
    exact exec_eq live (ends (by simp [othersMark]))
  · have still : lapse { s with now := t } = { s with now := t } := by
      rw [lapse_at, lapsedClc_fresh fun e he => by by_contra hne; exact quiet ⟨e, he, hne⟩]
    obtain ⟨stays, opens⟩ := (markSlotListenEnd_due (s := { s with now := t }) hm hl hf due).2 still
    refine ⟨fun h => exec_eq live (stays h), fun l some flag online level =>
      ⟨_, exec_eq live (opens some flag online), openClaim_marked t level rfl rfl rfl rfl rfl⟩⟩
  · have uncaught (h : ¬Caught t s) : lapse { s with now := t } = { s with now := t } :=
      lapse_uncaught (s := { s with now := t }) hm h
    refine ⟨fun caught => ?_, fun hc h first last bit => ?_, fun hc => ?_, fun hc h first last bit => ?_⟩
    · have out := lapse_caught (s := { s with now := t }) caught
      refine exec_eq live ((claimBitSlot_out (s := { s with now := t }) ?_ ?_).trans ?_)
      · rw [out]; exact hm
      · rw [out]; rfl
      · rw [out]; rfl
    · refine exec_eq live ((claimBitSlot_contest (uncaught h) hm hc hs hw first last).trans ?_)
      dsimp only
      rw [bit]
      rfl
    · have still := uncaught fun h => absurd (hc.symm.trans h.2.1) (by decide)
      refine exec_eq live ((claimBitSlot_out (s := { s with now := t }) ?_ ?_).trans ?_)
      · rw [still]; exact hm
      · rw [still]; exact hc
      · rw [still]; rfl
    · have sends : exec (.claimBitSlot t) s =
          .next (sendClaimSignal (after u (30 * (elapsed u t / 30))) { s with now := t }) := by
        refine exec_eq live ((claimBitSlot_contest (uncaught h) hm hc hs hw first last).trans ?_)
        dsimp only
        rw [bit]
        rfl
      refine ⟨fun free => ?_, fun hand => ?_⟩
      · rw [sends, sendClaimSignal_free (by exact free)]
        rfl
      · rw [sends, sendClaimSignal_drops (by exact hand)]

end Sys2Proof.Machine
end

section
/-! The detection of a burst, and the headers that are not this station's own label (R22, R23, R29, R30,
R43 to R48). -/

namespace Sys2Proof.Machine

/-! ### Detection -/

/-- Settles O23: the burst in hand that the modem opens, group by group. -/
theorem burstDetected_measures : Obligations.BurstDetected := by
  intro t start a b snrA snrB s live listen notSending single dual started
  have found : onEnabledPath s.lmd.path a b = true := by
    cases h : s.lmd.path with
    | single => exact single h
    | dual => simpa [onEnabledPath] using dual h
  have watches : ({ s with now := t } : State).watches = true :=
    watches_of (by exact listen ▸ rfl) notSending
  have inListen : startsInListen { s with now := t } start = true := by
    unfold startsInListen
    split
    next u hu => exact decide_eq_true (started u hu)
    next => rfl
  refine ⟨openHand start snrA snrB s.lmd, exec_eq live (if_pos ⟨listen, watches, found, inListen⟩),
    rfl, rfl, rfl, rfl, by simp [openHand, measurePreamble, groupCount],
    by simp [openHand, choosePaths, groupCount], fun g hg => ⟨fun h => ?_, fun h => ?_⟩⟩
  · simp only [openHand, measurePreamble, choosePaths, groupCount, hg, h, List.getElem?_map,
      List.getElem?_range, Option.map_some]
    exact ⟨rfl, trivial⟩
  · simp only [openHand, measurePreamble, choosePaths, groupCount, hg, h, List.getElem?_map,
      List.getElem?_range, Option.map_some]
    refine ⟨rfl, fun less => ?_, fun least => ?_⟩
    · exact congrArg some (if_pos less)
    · exact congrArg some (if_neg (Nat.not_lt.mpr least))

/-! ### Header outcomes -/

/-- R29: the header outcome of a burst in hand that is due. -/
theorem exec_header {t : Time} {s : State} {b : BurstInHand} (due : HeaderDue t s b) (x : HeaderHeard) :
    exec (.headerOutcome t x) s = .next (takeHeader b (headerHeard s.lmd b x) { s with now := t }) := by
  obtain ⟨live, receive, hand, stage, reached⟩ := due
  refine exec_eq live ?_
  simp only [effect, headerOutcome, hand, Instr.time]
  exact if_pos ⟨receive, stage, reached⟩

/-- R30, R31: the end of a reception leaves the modem in LISTEN. -/
theorem endReception_eq (s : State) : endReception s = { s with lmd := backToListen s.now s.lmd } := rfl

theorem beforeCpe_iff {c : Clc} {m : Time} (hs : c.markStart = some m) (t : Time) :
    beforeCpe c t = true ↔ elapsed m t < 270 := by
  simp only [beforeCpe, hs]
  exact decide_eq_true_iff

/-! ### Declared free instants -/

/-- R43, R45 to R49: what a declared free instant makes of the medium and the claim. -/
theorem declaredToClc_of_declaredAt {free : Time} {s d : State} (h : DeclaredAt s.now free s d) :
    declaredToClc free s = d := by
  rcases h with ⟨h, rfl⟩ | ⟨hm, h, rfl⟩ | ⟨hm, hc, uncaught, ⟨m, hs, late⟩, hd⟩ |
    ⟨hm, e, he, rfl⟩ | ⟨h, hd⟩
  · rcases h with hm | hm | hm | ⟨hm, h⟩
    · simp only [declaredToClc, hm]; rfl
    · simp only [declaredToClc, hm]; rfl
    · simp only [declaredToClc, hm]; rfl
    · have notIn : s.clc.claim ≠ .contending := by rcases h with h | ⟨h, -⟩ <;> simp [h]
      have closed : ¬LossOpen s.clc := fun o => by
        rcases h with h | ⟨-, h⟩
        · exact absurd (h.symm.trans o.1) (by decide)
        · exact absurd (h.symm.trans o.2) (by decide)
      simp only [declaredToClc, hm, takenOut, notIn, (settleLoss_settled s).2 closed]
      rfl
  · by_cases open' : LossOpen s.clc
    · simp only [declaredToClc, hm, takenOut, open'.1, (settleLoss_settled s).1 open']
      rfl
    · have taken : takenOut s = true := by
        rcases h with h | ⟨hc, m, hs, early⟩ | caught
        · exact absurd h open'
        · simp [takenOut, hc, (beforeCpe_iff hs s.now).mpr early]
        · simp [takenOut, caught.2.1, (outByEnergy_iff hm).mpr caught]
      simp only [declaredToClc, hm, taken]
      rfl
  · have stays : takenOut s = false := by
      have notBefore : beforeCpe s.clc s.now = false :=
        Bool.eq_false_iff.mpr (mt (beforeCpe_iff hs s.now).mp (Nat.not_lt.mpr late))
      have notOut : outByEnergy s = false := Bool.eq_false_iff.mpr (mt (outByEnergy_iff hm).mp uncaught)
      simp [takenOut, notBefore, notOut]
    simp [declaredToClc, hm, stays, hc, hd]
  · simp [declaredToClc, hm, he, State.mapClc]
  · rcases h with hm | hm <;> simp [declaredToClc, hm, hd]

/-- What a declared free instant does is read from the CLC and the modem, and leaves the time base and the
event flags. -/
theorem DeclaredAt.at {t free : Time} {s d : State} (h : DeclaredAt t free s d) :
    DeclaredAt t free { s with now := t } { d with now := t } := by
  rcases h with ⟨h, rfl⟩ | ⟨hm, h, rfl⟩ | ⟨hm, hc, u, m, rfl⟩ | ⟨hm, e, he, rfl⟩ | ⟨h, rfl⟩
  · exact .inl ⟨h, rfl⟩
  · exact .inr (.inl ⟨hm, h, rfl⟩)
  · exact .inr (.inr (.inl ⟨hm, hc, u, m, rfl⟩))
  · exact .inr (.inr (.inr (.inl ⟨hm, e, he, rfl⟩)))
  · exact .inr (.inr (.inr (.inr ⟨h, rfl⟩)))

/-- A count of foreign bursts before a declared free instant stands after it. -/
theorem DeclaredAt.foreign {t free : Time} {s d : State} (h : DeclaredAt t free s d) (n : Nat) :
    DeclaredAt t free
      { s with mgu := { s.mgu with counters := { s.mgu.counters with foreignBursts := n } } }
      { d with mgu := { d.mgu with counters := { d.mgu.counters with foreignBursts := n } } } := by
  rcases h with ⟨h, rfl⟩ | ⟨hm, h, rfl⟩ | ⟨hm, hc, u, m, rfl⟩ | ⟨hm, e, he, rfl⟩ | ⟨h, rfl⟩
  · exact .inl ⟨h, rfl⟩
  · exact .inr (.inl ⟨hm, h, rfl⟩)
  · exact .inr (.inr (.inl ⟨hm, hc, u, m, rfl⟩))
  · exact .inr (.inr (.inr (.inl ⟨hm, e, he, rfl⟩)))
  · exact .inr (.inr (.inr (.inr ⟨h, rfl⟩)))

/-- Settles O25: the count, then the free instant, then LISTEN. -/
theorem headerForeign : Obligations.HeaderForeign := by
  intro t b x h s d due decoded foreign declared
  have isF : isForeign { s with now := t } h = true := by
    rcases foreign with f | f | f <;> simp [isForeign, f]
  rw [exec_header due, decoded, takeHeader, if_pos isF]
  have taken := declaredToClc_of_declaredAt
    (declared.at.foreign (min 4294967295 (s.mgu.counters.foreignBursts + 1)))
  exact congrArg (fun r => Host.Outcome.next (endReception r)) taken

/-! ### Headers that are not decoded -/

/-- R30: a header that is not decoded is counted before the CLC hears of it. -/
theorem exec_undecoded {t : Time} {s : State} {b : BurstInHand} {x : HeaderHeard}
    (due : HeaderDue t s b) (none : headerHeard s.lmd b x = none) :
    exec (.headerOutcome t x) s = .next (endReception (undecodedToClc { s with
      now := t
      mgu := { s.mgu with counters := { s.mgu.counters with
        undecodedBursts := min 4294967295 (s.mgu.counters.undecodedBursts + 1) } } })) := by
  rw [exec_header due, none]
  rfl

section undecodedToClc

variable {s : State}

theorem undecodedToClc_early {m : Time} (hs : s.clc.markStart = some m) (early : elapsed m s.now < 270) :
    undecodedToClc s = s :=
  if_neg fun h => absurd (h.2.symm.trans ((beforeCpe_iff hs _).mpr early)) (by decide)

theorem undecodedToClc_elsewhere (hm : s.clc.medium ≠ .claiming) : undecodedToClc s = s :=
  if_neg fun h => hm h.1

theorem undecodedToClc_late {m : Time} (hm : s.clc.medium = .claiming) (hs : s.clc.markStart = some m)
    (late : 270 ≤ elapsed m s.now) : undecodedToClc s =
      if s.clc.claim ≠ .contending then (settleLoss s).mapClc sensedBusy
      else if outByEnergy s then (losePeriod s).mapClc sensedBusy else s :=
  if_pos ⟨hm, Bool.eq_false_iff.mpr (mt (beforeCpe_iff hs _).mp (Nat.not_lt.mpr late))⟩

theorem undecodedToClc_uncaught (hm : s.clc.medium = .claiming) (hc : s.clc.claim = .contending)
    (h : ¬Caught s.now s) : undecodedToClc s = s := by
  unfold undecodedToClc
  split
  · rw [if_neg (by simp [hc]), if_neg (mt (outByEnergy_iff hm).mp h)]
  · rfl

end undecodedToClc

/-- Settles O24: by the claim state and the instant. -/
theorem headerNotDecoded : Obligations.HeaderNotDecoded := by
  intro t b x s d due none settled
  have reports {r : State} (h : undecodedToClc { s with
      now := t
      mgu := { s.mgu with counters := { s.mgu.counters with
        undecodedBursts := min 4294967295 (s.mgu.counters.undecodedBursts + 1) } } } = r) :
      exec (.headerOutcome t x) s = .next (endReception r) := by rw [exec_undecoded due none, h]
  refine ⟨fun m hm hc hs late => ?_, fun m hm hs early => ?_, fun hm hc uncaught => ?_,
    fun m caught hs late => ?_, fun hm => ?_⟩
  · refine (reports ((undecodedToClc_late (by exact hm) (by exact hs) (by exact late)).trans (if_pos hc))).trans ?_
    by_cases open' : LossOpen s.clc
    · rw [(settleLoss_settled _).1 (by exact open'), settled.1 open']
      rfl
    · rw [(settleLoss_settled _).2 (by exact open'), settled.2 open']
      rfl
  · exact reports (undecodedToClc_early (by exact hs) (by exact early))
  · exact reports (undecodedToClc_uncaught (by exact hm) (by exact hc) (by exact uncaught))
  · have inContest : ¬s.clc.claim ≠ .contending := not_not.mpr caught.2.1
    exact reports ((undecodedToClc_late (by exact caught.1) (by exact hs) (by exact late)).trans
      ((if_neg (by exact inContest)).trans
        (if_pos ((outByEnergy_iff (by exact caught.1)).mpr (by exact caught)))))
  · exact reports (undecodedToClc_elsewhere (by exact hm))

end Sys2Proof.Machine
end

section
/-! Claim periods lost and won (R14, R43 to R49, R64, R117 to R120). -/

namespace Sys2Proof.Machine

/-! ### Lost periods -/

/-- R45: CPE at a station that is OUT by then. -/
theorem claimPeriodEnd_out {s : State} {m : Time} (hm : (lapse s).clc.medium = .claiming)
    (hs : (lapse s).clc.markStart = some m) (hc : (lapse s).clc.claim = .out)
    (due : reached (lapse s).now (after m 270) = true) :
    claimPeriodEnd s = (settleLoss (lapse s)).mapClc fun c => { c with lossCounted := true } := by
  simp only [claimPeriodEnd, hm, hs, hc]
  exact if_pos due

/-- R45: before CPE nothing has been decided; a counted loss counts no more. -/
theorem claimPeriodEnd_counted {s : State} (hm : s.clc.medium = .claiming) (hc : s.clc.claim = .out)
    (counted : s.clc.lossCounted = true) : claimPeriodEnd s = s := by
  have still : lapse s = s := lapse_uncaught hm fun h => absurd (hc.symm.trans h.2.1) (by decide)
  have noOpen : settleLoss s = s :=
    (settleLoss_settled s).2 fun h => absurd (counted.symm.trans h.2) (by decide)
  have same : s.mapClc (fun c => { c with lossCounted := true }) = s := by
    rw [State.mapClc, ← counted]
  rcases claimPeriodEnd_cases s with e | ⟨m, -, -, hc', -⟩ | ⟨-, -, e⟩
  · rw [e, still]
  · rw [still, hc] at hc'
    exact absurd hc' (by decide)
  · rw [e, still, noOpen, same]

/-- Settles O20: at CPE by the claim state that energy in progress has left, and at a foreign header. -/
theorem claimLost : Obligations.ClaimLost := by
  intro t m s live hm hs
  refine ⟨fun hc un due => ?_, fun hc counted => ?_, fun caught un due => ?_,
    fun b x h hdue claim early decoded foreign => ?_⟩
  · have still : lapse { s with now := t } = { s with now := t } :=
      lapse_uncaught (by exact hm) fun h => absurd (hc.symm.trans h.2.1) (by decide)
    refine exec_eq live ((claimPeriodEnd_out (s := { s with now := t }) (m := m) ?_ ?_ ?_ ?_).trans ?_)
    · rw [still]; exact hm
    · rw [still]; exact hs
    · rw [still]; exact hc
    · rw [still]; exact due
    · rw [still, (settleLoss_settled _).1 (by exact ⟨hc, un⟩)]
      rfl
  · exact exec_eq live (claimPeriodEnd_counted (by exact hm) (by exact hc) (by exact counted))
  · have out := lapse_caught (s := { s with now := t }) caught
    refine exec_eq live ((claimPeriodEnd_out (s := { s with now := t }) (m := m) ?_ ?_ ?_ ?_).trans ?_)
    · rw [out]; exact hm
    · rw [out]; exact hs
    · rw [out]; rfl
    · rw [out]; exact due
    · rw [out, (settleLoss_settled _).1 (by exact ⟨rfl, un⟩)]
      rfl
  · have lossAtHeader : LossOpen s.clc ∨
        (s.clc.claim = .contending ∧ ∃ m, s.clc.markStart = some m ∧ elapsed m t < 270) ∨
        Caught t s := by
      rcases claim with c | o
      · exact .inr (.inl ⟨c, m, hs, early⟩)
      · exact .inl o
    exact headerForeign t b x h s _ hdue decoded (.inl foreign) (.inr (.inl ⟨hm, lossAtHeader, rfl⟩))

/-! ### Blocks that go on the line -/

theorem goOnLine_blocks (f : Frame) (refs : List BlockRef) :
    (goOnLine f refs).blocks = f.blocks.zipIdx.map fun x =>
      if refs.contains ⟨f.kind, f.desc, x.2⟩
      then ⟨.onLine, x.1.sentBefore || decide (f.dest ≠ .broadcast)⟩ else x.1 := by
  unfold goOnLine
  dsimp only
  split <;> rfl

/-- R120: what becomes of block `j` of a frame when blocks of a burst go on the line. -/
theorem goOnLine_block {f : Frame} {j : Nat} {x : FrameBlock} (h : f.blocks[j]? = some x)
    (refs : List BlockRef) : (goOnLine f refs).blocks[j]? = some
      (if ⟨f.kind, f.desc, j⟩ ∈ refs
      then ⟨.onLine, x.sentBefore || decide (f.dest ≠ .broadcast)⟩ else x) := by
  simp [goOnLine_blocks, List.getElem?_zipIdx, h]

theorem goOnLine_attempts {f : Frame} {j : Nat} {refs : List BlockRef}
    (h : (⟨f.kind, f.desc, j⟩ : BlockRef) ∈ refs) : (goOnLine f refs).attempts = f.attempts + 1 := by
  have carried : refs.any (fun r => f.holds r.kind r.desc) = true :=
    List.any_eq_true.mpr ⟨_, h, by simp [Frame.holds]⟩
  simp [goOnLine, carried]

/-! ### Won periods -/

/-- R44: CPE at a station still IN. -/
theorem claimPeriodEnd_won {s : State} {m : Time} (hm : s.clc.medium = .claiming)
    (hs : s.clc.markStart = some m) (hc : s.clc.claim = .contending)
    (due : reached s.now (after m 270) = true) (uncaught : ¬Caught s.now s) :
    claimPeriodEnd s = winPeriod m (silence s) := by
  simp only [claimPeriodEnd, lapse_uncaught hm uncaught, hm, hs, hc]
  exact if_pos due

/-- R14, R44: the station as it has won the period marked at `m`, no burst cut yet. -/
def wonAt (m : Time) (s : State) : State :=
  { s with
    lcu := { s.lcu with
      latchStart := after m 290, latchPhase := phaseAt s.lcu (after m 290), latchP16 := s.lcu.p16 }
    lmd := { s.lmd with lineOut := .silent }
    clc := wonPeriod s.clc
    mgu := { s.mgu with counters := { s.mgu.counters with
      claimsWon := min 4294967295 (s.mgu.counters.claimsWon + 1) } } }

theorem winPeriod_eq (m : Time) (s : State) :
    winPeriod m (silence s) = settleWin (cutBurst (wonAt m s)) := rfl

/-- R117: the burst that is cut goes to the record's tables, the records and the counters as well. -/
theorem cutBurst_some {s : State} {a : Train} {b : BurstOnLine} (ha : s.tsc.active = some a)
    (hb : burstFor s a = some b) :
    cutBurst s = countBurst a b (s.mapTsc fun t => { t with
      active := some { a with frames := a.frames.map fun f => goOnLine f b.refs }
      onLine := some b }) := by
  simp only [cutBurst, ha, hb]

/-- R117: no burst is cut without an active train, or when none of its blocks may go. -/
theorem cutBurst_none {s : State} (h : s.tsc.active = none ∨
    ∃ a, s.tsc.active = some a ∧ burstFor s a = none) : cutBurst s = s := by
  rcases h with h | ⟨a, ha, h⟩
  · simp only [cutBurst, h]
  · simp only [cutBurst, ha, h]

/-- The burst that a train gives is read from the records, the latch, the notches and the train. -/
theorem burstFor_congr {s r : State} (a : Train) (peers : r.peers = s.peers) (lcu : r.lcu = s.lcu)
    (notch : r.lmd.notch = s.lmd.notch) : burstFor r a = burstFor s a := by
  have gOn : r.gOn = s.gOn := congrArg groupsOn notch
  have peer : r.peer = s.peer := funext fun i => by rw [State.peer, State.peer, peers]
  have map : chooseMap r a.dest = chooseMap s a.dest := by
    unfold chooseMap
    rw [gOn, peer, lcu]
  have address : destAddress r a.dest = destAddress s a.dest := by
    unfold destAddress
    rw [peer]
  unfold burstFor
  rw [map, gOn, address]

/-- R18, R49: the medium is SENDING with the burst handed. -/
theorem settleWin_sends {s : State} (h : s.tsc.onLine.isSome = true) :
    (settleWin s).clc = withoutClaim .sending s.clc ∧ (settleWin s).lmd.inHand = none ∧
    (settleWin s).lmd.lineOut = s.lmd.lineOut := by
  obtain ⟨b, hb⟩ := Option.isSome_iff_exists.mp h
  have line : (dropBurstInHand s).lmd.lineOut = s.lmd.lineOut := by
    cases hand : s.lmd.inHand <;> simp [dropBurstInHand, hand, enterListen]
  simp only [settleWin, hb]
  exact ⟨by simp [clearClaim, withoutClaim], by simp, by simp [line]⟩

/-- R64, R120: the burst's counts at its peer. -/
theorem countBurst_peer {s : State} {a : Train} {i : Nat} {p : Peer} (b : BurstOnLine)
    (ha : a.dest = .peer i) (hp : s.peer i = some p) :
    (countBurst a b s).peers = tableSet s.peers i (some { p with counters := { p.counters with
      burstsSent := satInc p.counters.burstsSent
      blocksSent := satAdd b.refs.length p.counters.blocksSent
      blocksRetried := satAdd ((a.frames.map (retriedIn b.refs)).sum) p.counters.blocksRetried } }) := by
  simp only [countBurst, ha, countPeer, State.mapPeer, hp]
  rfl

theorem retriedIn_eq (refs : List BlockRef) : retriedIn refs = fun f =>
    (f.blocks.zipIdx.filter fun x =>
      x.1.sentBefore && decide ((⟨f.kind, f.desc, x.2⟩ : BlockRef) ∈ refs)).length := by
  funext f
  simp only [retriedIn, List.contains_eq_mem]

theorem countBurst_broadcast {s : State} {a : Train} (b : BurstOnLine) (ha : a.dest = .broadcast) :
    countBurst a b s = s := by simp only [countBurst, ha]

/-- Settles O21: the blocks that go on the line; then the win without and with a burst. -/
theorem claimWon : Obligations.ClaimWon := by
  refine ⟨fun f refs j x hx => ⟨fun h => ⟨?_, goOnLine_attempts h⟩, fun h => ?_⟩, ?_⟩
  · rw [goOnLine_block hx, if_pos h]
  · rw [goOnLine_block hx, if_neg h]
  intro t m s live hm hc hs due uncaught start latched won counted
  have wins : exec (.claimPeriodEnd t) s = .next (settleWin (cutBurst (wonAt m { s with now := t }))) :=
    exec_eq live ((claimPeriodEnd_won (by exact hm) (by exact hs) (by exact hc) (by exact due)
      (by exact uncaught)).trans (winPeriod_eq m _))
  have same (a : Train) : burstFor (wonAt m { s with now := t }) a =
      burstFor { s with lcu := latched } a := burstFor_congr a rfl rfl rfl
  refine ⟨fun noBurst off => ?_, fun a b ha hb => ⟨_, wins, ?_⟩⟩
  · have cut : cutBurst (wonAt m { s with now := t }) = wonAt m { s with now := t } := by
      refine cutBurst_none ?_
      rcases noBurst with h | ⟨a, ha, h⟩
      · exact .inl h
      · exact .inr ⟨a, ha, (same a).trans h⟩
    rw [wins, cut]
    simp only [settleWin, wonAt, off]
    rfl
  · rw [cutBurst_some (by exact ha) ((same a).trans hb)]
    have ⟨clc, hand, line⟩ := settleWin_sends (s := countBurst a b ((wonAt m { s with now := t }).mapTsc
      fun t => { t with
        active := some { a with frames := a.frames.map fun f => goOnLine f b.refs }
        onLine := some b })) (by simp)
    refine ⟨by simp; rfl, by simp; rfl, clc.trans (by simp; rfl), hand, line.trans (by simp; rfl), ?_, ?_, ?_⟩
    · simp [wonAt]
    · intro bcast
      simp [countBurst_broadcast b bcast]
      rfl
    · intro i p dest hp
      simp only [settleWin_keeps]
      rw [countBurst_peer b dest (by exact hp)]
      simp only [retriedIn_eq]
      rfl

end Sys2Proof.Machine
end

section
/-! Searches of a table: by a test, for the lowest vacant position, and for the oldest entry. -/

namespace Sys2Proof.Machine

/-- The entry that alone satisfies a test is the one found. -/
theorem tableFind_of_unique {α : Type} {p : α → Bool} {l : List (Option α)} {n : Nat} {x : α}
    (hx : tableGet l n = some x) (px : p x = true)
    (unique : ∀ m y, tableGet l m = some y → p y = true → m = n) : tableFind p l = some (n, x) := by
  cases h : tableFind p l with
  | none => exact absurd ((not_of_tableFind_none h hx).symm.trans px) (by decide)
  | some e =>
    obtain ⟨he, pe⟩ := tableFind_eq_some h
    have pos := unique _ _ he pe
    rw [pos, hx] at he
    exact congrArg some (Prod.ext pos (Option.some.inj he).symm)

theorem tableFind_of_none {α : Type} {p : α → Bool} {l : List (Option α)}
    (h : ∀ n x, tableGet l n = some x → p x = false) : tableFind p l = none := by
  refine List.find?_eq_none.mpr fun e he => ?_
  simp [h _ _ (mem_tableEntries.mp he)]

/-- A table with no vacant position has an entry at each. -/
theorem lowestVacant_of_first {α : Type} {l : List (Option α)} {i : Nat} (low : 1 ≤ i) (high : i ≤ l.length)
    (vacant : tableGet l i = none) (first : ∀ j, 1 ≤ j → j < i → tableGet l j ≠ none) :
    lowestVacant l = some i := by
  obtain ⟨k, rfl⟩ : ∃ k, i = k + 1 := ⟨i - 1, by omega⟩
  refine Option.map_eq_some_iff.mpr ⟨k, ?_, rfl⟩
  refine List.findIdx?_eq_some_iff_getElem.mpr ⟨by omega, ?_, fun j hj => ?_⟩
  · have hk : k < l.length := by omega
    simpa [tableGet, hk] using vacant
  · have hk : j < l.length := by omega
    have taken := first (j + 1) (by omega) (by omega)
    simp only [tableGet, List.getElem?_eq_getElem hk, Option.join_some] at taken
    simpa using taken

/-- The entries of a table stand in the order of their positions. -/
theorem tableEntries_sorted {α : Type} (l : List (Option α)) :
    (tableEntries l).Pairwise fun a b => a.1 < b.1 := by
  unfold tableEntries
  refine List.Pairwise.filterMap (R := fun a b => a.2 < b.2) _ ?_ ?_
  · rintro ⟨x, j⟩ ⟨y, k⟩ less a ha b hb
    obtain ⟨_, -, rfl⟩ := Option.map_eq_some_iff.mp ha
    obtain ⟨_, -, rfl⟩ := Option.map_eq_some_iff.mp hb
    exact Nat.succ_lt_succ less
  · refine List.pairwise_iff_getElem.mpr fun i j hi hj less => ?_
    simpa using less

/-- Of entries in the order of their positions, the oldest, the one at the lowest position among equals, is
the one chosen. -/
theorem oldestOf_eq_some {α : Type} {now : Time} {time : α → Time} {l : List (Nat × α)} {o : Nat × α}
    (sorted : l.Pairwise fun a b => a.1 < b.1) (ho : o ∈ l)
    (oldest : ∀ e ∈ l, elapsed (time e.2) now < elapsed (time o.2) now ∨
      (elapsed (time e.2) now = elapsed (time o.2) now ∧ o.1 ≤ e.1)) :
    oldestOf now time l = some o := by
  induction l with
  | nil => cases ho
  | cons e rest ih =>
    obtain ⟨before, sortedRest⟩ := List.pairwise_cons.mp sorted
    rcases List.mem_cons.mp ho with rfl | inRest
    · unfold oldestOf
      split
      next => rfl
      next r hr =>
        rw [if_pos]
        rcases oldest r (List.mem_cons_of_mem _ (oldestOf_mem hr)) with h | ⟨h, -⟩
        · exact Nat.le_of_lt h
        · exact Nat.le_of_eq h
    · rw [oldestOf, ih sortedRest inRest fun x hx => oldest x (List.mem_cons_of_mem _ hx)]
      dsimp only
      rw [if_neg]
      have later := before o inRest
      rcases oldest e List.mem_cons_self with h | ⟨-, h⟩
      · omega
      · omega

end Sys2Proof.Machine
end

section
/-! A sender's record: learned, evicted for, or not found (R54 to R58). -/

namespace Sys2Proof.Machine

/-! ### What the CLC answers to a declared free instant -/

/-- The modem, the claim state and the counters after the CLC has taken a declared free instant at `s`: the
modem may have fallen silent, a claim may count as lost, and no claim period can open. -/
structure ClcAnswer (s : State) (l : Lmd) (c : Clc) (k : Counters) : Prop where
  line : l = { s.lmd with lineOut := l.lineOut }
  counts : k = { s.mgu.counters with claimsLost := k.claimsLost }
  busy : c.medium ≠ .idle

/-- A state with the CLC's answer. -/
def State.answered (l : Lmd) (c : Clc) (k : Counters) (s : State) : State :=
  { s with lmd := l, clc := c, mgu := { s.mgu with counters := k } }

theorem lapse_clc_congr {r s : State} (now : r.now = s.now) (clc : r.clc = s.clc) (lmd : r.lmd = s.lmd) :
    (lapse r).clc = (lapse s).clc := by
  unfold lapse
  rw [lmd]
  split
  · rw [now]
    split
    · exact clc
    · simp [clc]
  · exact clc

theorem takenOut_congr {r s : State} (now : r.now = s.now) (clc : r.clc = s.clc) (lmd : r.lmd = s.lmd) :
    takenOut r = takenOut s := by
  unfold takenOut outByEnergy
  rw [lapse_clc_congr now clc lmd, clc, now]

/-- The CLC answers by the time base, its own state, the modem and the counters alone. -/
theorem declaredToClc_answer (free : Time) (s : State) : ∃ l c k, ClcAnswer s l c k ∧
    ∀ r : State, r.now = s.now → r.clc = s.clc → r.lmd = s.lmd → r.mgu.counters = s.mgu.counters →
      declaredToClc free r = r.answered l c k := by
  have kept (c : Clc) (h : c.medium ≠ .idle) : ClcAnswer s s.lmd c s.mgu.counters := ⟨rfl, rfl, h⟩
  have lostPart (c : Clc) (h : c.medium ≠ .idle) :
      ClcAnswer s (losing s).lmd c (losing s).mgu.counters := ⟨rfl, rfl, h⟩
  have same {r : State} {c : Clc} (lmd : r.lmd = s.lmd) (counters : r.mgu.counters = s.mgu.counters) :
      { r with clc := c } = r.answered s.lmd c s.mgu.counters := by
    rw [← lmd, ← counters]
    rfl
  have lose {r : State} {f : Clc → Clc} (clc : r.clc = s.clc) (lmd : r.lmd = s.lmd)
      (counters : r.mgu.counters = s.mgu.counters) :
      (losing r).mapClc f = r.answered (losing s).lmd (f (lost s.clc)) (losing s).mgu.counters := by
    simp only [losing, State.mapClc, State.answered, clc, lmd, counters]
  cases hm : s.clc.medium with
  | idle | gap | sensedBusy =>
    refine ⟨_, _, _, kept (occupyUntil free s.clc) (by simp [occupyUntil]), fun r now clc lmd counters => ?_⟩
    simp only [declaredToClc, clc, hm]
    rw [← same lmd counters, ← clc]
    rfl
  | occupied =>
    refine ⟨_, _, _, kept { s.clc with occupancyEnd := some (match s.clc.occupancyEnd with
      | some e => laterOf e free
      | none => free) } (by simp [hm]), fun r now clc lmd counters => ?_⟩
    simp only [declaredToClc, clc, hm, State.mapClc]
    exact same lmd counters
  | sending | awaitReceipt =>
    refine ⟨_, _, _, kept s.clc (by simp [hm]), fun r now clc lmd counters => ?_⟩
    simp only [declaredToClc, clc, hm]
    rw [← same lmd counters, ← clc]
  | claiming =>
    by_cases taken : takenOut s = true
    · refine ⟨_, _, _, lostPart (occupyUntil free (lost s.clc)) (by simp [occupyUntil]),
        fun r now clc lmd counters => ?_⟩
      simp only [declaredToClc, clc, hm, takenOut_congr now clc lmd, taken]
      exact lose clc lmd counters
    · by_cases hc : s.clc.claim = .contending
      · refine ⟨_, _, _, kept s.clc (by simp [hm]), fun r now clc lmd counters => ?_⟩
        simp only [declaredToClc, clc, hm, takenOut_congr now clc lmd, taken, hc]
        rw [← same lmd counters, ← clc]
        rfl
      · by_cases open' : LossOpen s.clc
        · refine ⟨_, _, _, lostPart (occupyUntil free (lost s.clc)) (by simp [occupyUntil]),
            fun r now clc lmd counters => ?_⟩
          have open'' : LossOpen r.clc := by rwa [clc]
          simp only [declaredToClc, clc, hm, takenOut_congr now clc lmd, taken, hc,
            (settleLoss_settled r).1 open'']
          exact lose clc lmd counters
        · refine ⟨_, _, _, kept (occupyUntil free s.clc) (by simp [occupyUntil]),
            fun r now clc lmd counters => ?_⟩
          have closed : ¬LossOpen r.clc := by rwa [clc]
          simp only [declaredToClc, clc, hm, takenOut_congr now clc lmd, taken, hc,
            (settleLoss_settled r).2 closed]
          rw [← same lmd counters, ← clc]
          rfl

/-- What a declared free instant leaves is the CLC's answer. -/
theorem DeclaredAt.answer {t free : Time} {s d : State} (h : DeclaredAt t free s d) :
    ∃ l c k, ClcAnswer s l c k ∧ d = s.answered l c k := by
  obtain ⟨l, c, k, answer, eq⟩ := declaredToClc_answer free { s with now := t }
  have e := (declaredToClc_of_declaredAt h.at).symm.trans (eq _ rfl rfl rfl rfl)
  refine ⟨l, c, k, ⟨answer.line, answer.counts, answer.busy⟩, ?_⟩
  have now : d.now = s.now := by
    rcases h with ⟨-, rfl⟩ | ⟨-, -, rfl⟩ | ⟨-, -, -, -, rfl⟩ | ⟨-, e, -, rfl⟩ | ⟨-, rfl⟩ <;> rfl
  calc d = { ({ d with now := t } : State) with now := d.now } := rfl
    _ = s.answered l c k := by rw [e, now]; rfl

/-! ### Own-label headers -/

theorem not_isForeign {s : State} {h : Header} (own : OwnLabel s h) (r : State) (suc : r.suc = s.suc) :
    isForeign r h = false := by
  obtain ⟨label, sender, individual⟩ := own
  simp [isForeign, suc, label, sender, individual]

/-- R30: an own-label header, once the CLC has taken its free instant. -/
theorem exec_ownLabel {t : Time} {s : State} {b : BurstInHand} {x : HeaderHeard} {h : Header}
    (due : HeaderDue t s b) (decoded : headerHeard s.lmd b x = some h) (own : OwnLabel s h) :
    exec (.headerOutcome t x) s = .next (ownLabel h b.measurement
      (declaredToClc (declaredFree b.start h) { s with now := t })) := by
  rw [exec_header due, decoded, takeHeader,
    if_neg (ne_true_of_eq_false (not_isForeign own { s with now := t } rfl))]

theorem exec_ownLabel_declared {t : Time} {s d : State} {b : BurstInHand} {x : HeaderHeard} {h : Header}
    (due : HeaderDue t s b) (decoded : headerHeard s.lmd b x = some h) (own : OwnLabel s h)
    (declared : DeclaredAt t (declaredFree b.start h) s d) :
    exec (.headerOutcome t x) s = .next (ownLabel h b.measurement { d with now := t }) := by
  rw [exec_ownLabel due decoded own, declaredToClc_of_declaredAt declared.at]

/-- R30: an own-label header from a sender with a record, new or not. -/
theorem ownLabel_learned {h : Header} {m : List Nat} {s r : State} {i : Nat}
    (e : learnSender h.sender (addressedHere s h) s = (r, some i)) :
    ownLabel h m s = if addressedHere s h = true ∨ h.dest = broadcastAddr
      then serveHeader i h (addressedHere s h) (fileMeasurement i m h.stamp r)
      else endReception (fileMeasurement i m h.stamp r) := by
  simp only [ownLabel, e]

theorem ownLabel_notLearned {h : Header} {m : List Nat} {s r : State}
    (e : learnSender h.sender (addressedHere s h) s = (r, none)) :
    ownLabel h m s = endReception r := by
  simp only [ownLabel, e]

theorem addressedHere_iff (s : State) (h : Header) :
    addressedHere s h = true ↔ s.suc.address = some h.dest := decide_eq_true_iff

/-! ### The search for the sender's record -/

/-- R57: a record can be evicted when nothing refers to it. -/
theorem evictable_iff (s : State) (i : Nat) : evictable s i = true ↔ ¬Busy s i := by
  simp only [evictable, Busy, not_or, Bool.and_eq_true, Bool.not_eq_true', List.any_eq_false,
    Frame.isFor, decide_eq_true_eq, not_exists, not_and, and_assoc]
  exact Iff.rfl

theorem evictionChoice_eq_none {s : State} (h : ∀ i p, s.peer i = some p → Busy s i) :
    evictionChoice s = none := by
  have empty : (tableEntries s.peers).filter (fun e => evictable s e.1) = [] := by
    refine List.filter_eq_nil_iff.mpr fun e he => ?_
    exact mt (evictable_iff s e.1).mp (not_not.mpr (h _ _ (mem_tableEntries.mp he)))
  simp [evictionChoice, empty, oldestOf]

theorem learnSender_of_full {a : Addr} {here : Bool} {s : State} (full : ∀ x ∈ s.peers, x ≠ none)
    (busy : ∀ i p, s.peer i = some p → p.address ≠ a ∧ Busy s i) :
    learnSender a here s = (notLearned s, none) := by
  have unknown : tableFind (fun p => decide (p.address = a)) s.peers = none :=
    tableFind_of_none fun n x hx => decide_eq_false (busy n x hx).1
  have noRoom : lowestVacant s.peers = none := lowestVacant_eq_none_iff.mpr fun h => full none h rfl
  simp only [learnSender, unknown, noRoom, evictionChoice_eq_none fun i p hp => (busy i p hp).2]

/-- Settles O27: no record is free or evictable. -/
theorem senderNotLearned : Obligations.SenderNotLearned := by
  intro t b x h s d due decoded own declared full busy
  obtain ⟨l, c, k, answer, rfl⟩ := declared.answer
  rw [exec_ownLabel_declared due decoded own declared,
    ownLabel_notLearned (learnSender_of_full (by exact full) (by exact busy)), notLearned, raise_eq]
  have unlearned : k.unlearnedBursts = s.mgu.counters.unlearnedBursts := by rw [answer.counts]
  rw [← unlearned]
  rfl

end Sys2Proof.Machine
end

section
/-! Records released, claimed and evicted (R54 to R60), and the measurements that headers file (R67 to R69).
-/

namespace Sys2Proof.Machine

/-! ### Positions set twice, and records that stand -/

theorem tableSet_tableSet {α : Type} (l : List (Option α)) (i : Nat) (x y : Option α) :
    tableSet (tableSet l i x) i y = tableSet l i y := by
  cases i <;> simp [tableSet]

theorem tableSet_of_get {α : Type} {l : List (Option α)} {i : Nat} {x : α} (h : tableGet l i = some x) :
    tableSet l i (some x) = l := by
  cases i with
  | zero => rfl
  | succ k =>
    simp only [tableGet, Option.join_eq_some_iff] at h
    obtain ⟨hk, e⟩ := List.getElem?_eq_some_iff.mp h
    simp [tableSet, ← e]

theorem mapPeer_eq {i : Nat} {f : Peer → Peer} {s : State} {p : Peer} (h : s.peer i = some p) :
    s.mapPeer i f = { s with peers := tableSet s.peers i (some (f p)) } := by
  simp only [State.mapPeer, h]
  rfl

theorem mapPeer_of_none {i : Nat} {f : Peer → Peer} {s : State} (h : s.peer i = none) :
    s.mapPeer i f = s := by
  simp only [State.mapPeer, h]

/-- A change that leaves the record as it is leaves the state. -/
theorem mapPeer_of_fixed {i : Nat} {f : Peer → Peer} {s : State} {p : Peer} (h : s.peer i = some p)
    (fixed : f p = p) : s.mapPeer i f = s := by
  rw [mapPeer_eq h, fixed, tableSet_of_get h]

/-! ### Released records -/

/-- No frame for the peer leaves full trains and queues as they are. -/
theorem dropFrames_of_none {p : Frame → Bool} {t : Tsc} (none : ∀ f ∈ framesHeld t, p f = false)
    (filled : ∀ r ∈ trains t, r.frames ≠ []) : dropFrames p t = t := by
  have keep {l : List Frame} (h : ∀ f ∈ l, f ∈ framesHeld t) : l.filter (fun f => !p f) = l :=
    List.filter_eq_self.mpr fun f hf => by simp [none f (h f hf)]
  have inTrain {r : Train} (hr : r ∈ trains t) : ∀ f ∈ r.frames, f ∈ framesHeld t := fun f hf => by
    rw [framesHeld_eq]
    exact List.mem_append_right _ (List.mem_flatMap.mpr ⟨r, hr, hf⟩)
  have train {r : Train} (hr : r ∈ trains t) :
      { r with frames := r.frames.filter fun f => !p f } = r := by rw [keep (inTrain hr)]
  have queues : t.queues.map (List.filter fun f => !p f) = t.queues := by
    refine (List.map_congr_left fun q hq => keep fun f hf => ?_).trans (List.map_id _)
    rw [framesHeld_eq]
    exact List.mem_append_left _ (List.mem_flatten.mpr ⟨q, hq, hf⟩)
  have active : t.active.map (fun a => { a with frames := a.frames.filter fun f => !p f }) = t.active := by
    cases ha : t.active with
    | none => rfl
    | some a => exact congrArg some (train (by simp [trains, ha]))
  have stack : t.stack.map (fun a => { a with frames := a.frames.filter fun f => !p f }) = t.stack :=
    (List.map_congr_left fun r hr => train (by simp [trains, hr])).trans (List.map_id _)
  have purged : t.stack.filter (fun r => !r.frames.isEmpty) = t.stack :=
    List.filter_eq_self.mpr fun r hr => by simpa using filled r (by simp [trains, hr])
  have pop : popIfComplete t = t := by
    cases ha : t.active with
    | none => simp [popIfComplete, ha]
    | some a => exact popIfComplete_of_filled ha (filled a (by simp [trains, ha]))
  unfold dropFrames
  simp only [queues, active, stack, purgeStack, purged, pop]

theorem returned_foldl_rxFree (l : List Frame) (b : Bpm) :
    (l.foldl (fun b f => returned f b) b).rxFree = b.rxFree := by
  induction l generalizing b with
  | nil => rfl
  | cons f l ih =>
    rw [List.foldl_cons, ih]
    unfold returned
    split <;> rfl

theorem freeFrame_foldl_eq (l : List Frame) (s : State) :
    l.foldl freeFrame s = { s with bpm := l.foldl (fun b f => returned f b) s.bpm } := by
  induction l generalizing s with
  | nil => rfl
  | cons f l ih =>
    rw [List.foldl_cons, ih]
    rfl

/-- R60: the frames for a record's peer leave. -/
theorem releaseFrames_eq (i : Nat) (s : State) : releaseFrames i s = { s with
    bpm := ((framesHeld s.tsc).filter fun f => decide (f.dest = .peer i)).foldl (fun b f => returned f b) s.bpm
    tsc := dropFrames (fun f => f.isFor i) s.tsc
    mgu := { s.mgu with counters := { s.mgu.counters with
      framesReleased := satAdd ((framesHeld s.tsc).filter fun f => decide (f.dest = .peer i)).length
        s.mgu.counters.framesReleased } } } := by
  unfold releaseFrames Frame.isFor
  dsimp only
  rw [freeFrame_foldl_eq]
  rfl

/-- R60, R131: the reassembly entries of a record's peer are freed. -/
theorem abandonEntries_eq (i : Nat) (s : State) : abandonEntries (fun e => decide (e.sender = i)) s =
    { s with
      bpm := { s.bpm with rxFree := s.bpm.rxFree +
        (((s.rxa.table.filterMap id).filter fun e => decide (e.sender = i)).map
          fun e => e.blocks.length).sum }
      rxa := { s.rxa with table := vacate (fun e => decide (e.sender = i)) s.rxa.table }
      mgu := { s.mgu with counters := { s.mgu.counters with
        abandoned := satAdd ((s.rxa.table.filterMap id).filter fun e => decide (e.sender = i)).length
          s.mgu.counters.abandoned } } } := rfl

/-- R60: what leaves with a record, before the prospective claim level is judged afresh. -/
theorem releasing_eq (i : Nat) (s : State) : releasing i s =
    let gone := (framesHeld s.tsc).filter fun f => decide (f.dest = .peer i)
    let entries := (s.rxa.table.filterMap id).filter fun e => decide (e.sender = i)
    { s with
      bpm := { gone.foldl (fun b f => returned f b) s.bpm with
        rxFree := s.bpm.rxFree + (entries.map fun e => e.blocks.length).sum }
      tsc := dropFrames (fun f => f.isFor i) s.tsc
      rxa := { s.rxa with table := vacate (fun e => decide (e.sender = i)) s.rxa.table }
      ptu := { s.ptu with fwd := vacate (fun e => decide (e.peer = i)) s.ptu.fwd }
      peers := tableSet s.peers i none
      lae := { s.lae with reviews := tableSet s.lae.reviews i none }
      mgu := latch .peerReleased { s.mgu with counters := { s.mgu.counters with
        framesReleased := satAdd gone.length s.mgu.counters.framesReleased
        abandoned := satAdd entries.length s.mgu.counters.abandoned } } } := by
  have free := returned_foldl_rxFree ((framesHeld s.tsc).filter fun f => decide (f.dest = .peer i)) s.bpm
  unfold releasing
  rw [releaseFrames_eq, abandonEntries_eq, raise_eq]
  dsimp only [State.mapPtu, State.mapPeers, State.mapLae]
  rw [free]

/-- R60: outside IDLE a release opens no claim period. -/
theorem releasePeer_of_noClaim {s : State} (i : Nat) (h : NoClaimOpens s) :
    releasePeer i s = (releasing i s).mapTsc fun t => { t with prospective := prospectiveLevel t } := by
  have h' : NoClaimOpens (releasing i s) := by rw [releasing_eq]; exact h
  rw [releasePeer_eq, recompute_of_noClaim h']
  rfl

/-! ### Claimed records -/

theorem claimRecord_eq (i : Nat) (a : Addr) (here : Bool) (s : State) : claimRecord i a here s =
    { s with
      peers := tableSet s.peers i (some (learnedPeer a s.now (if here = true then some s.now else none)))
      mgu := latch .peerLearned s.mgu } := rfl

theorem refreshPeer_eq {i : Nat} {s : State} {p : Peer} (h : s.peer i = some p) (here : Bool) :
    refreshPeer i here s = { s with peers := tableSet s.peers i (some { p with
      lastHeard := s.now, lastUnicast := if here = true then some s.now else p.lastUnicast }) } :=
  mapPeer_eq h

/-- R55: a record just claimed stands when the header that claimed it refreshes it. -/
theorem refreshPeer_learned {i : Nat} {s : State} {a : Addr} {here : Bool}
    (h : s.peer i = some (learnedPeer a s.now (if here = true then some s.now else none))) :
    refreshPeer i here s = s := by
  refine mapPeer_of_fixed h ?_
  cases here <;> rfl

/-- R54, R55: the record that holds the sender's address is refreshed. -/
theorem learnSender_known {a : Addr} {here : Bool} {s : State} {i : Nat} {p : Peer}
    (hp : s.peer i = some p) (ha : p.address = a)
    (unique : ∀ j q, s.peer j = some q → q.address = a → j = i) :
    learnSender a here s = (refreshPeer i here s, some i) := by
  have found : tableFind (fun p => decide (p.address = a)) s.peers = some (i, p) :=
    tableFind_of_unique hp (decide_eq_true ha) fun m y hy h => unique m y hy (of_decide_eq_true h)
  simp only [learnSender, found]

theorem learnSender_new {a : Addr} {here : Bool} {s : State} {i : Nat}
    (unknown : ∀ j p, s.peer j = some p → p.address ≠ a) (room : lowestVacant s.peers = some i) :
    learnSender a here s = (claimRecord i a here s, some i) := by
  have unknown' : tableFind (fun p => decide (p.address = a)) s.peers = none :=
    tableFind_of_none fun n x hx => decide_eq_false (unknown n x hx)
  simp only [learnSender, unknown', room]

theorem learnSender_evicts {a : Addr} {here : Bool} {s : State} {i : Nat}
    (unknown : ∀ j p, s.peer j = some p → p.address ≠ a) (full : ∀ x ∈ s.peers, x ≠ none)
    (choice : evictionChoice s = some i) :
    learnSender a here s = (claimRecord i a here (releasePeer i s), some i) := by
  have unknown' : tableFind (fun p => decide (p.address = a)) s.peers = none :=
    tableFind_of_none fun n x hx => decide_eq_false (unknown n x hx)
  have noRoom : lowestVacant s.peers = none := lowestVacant_eq_none_iff.mpr fun h => full none h rfl
  simp only [learnSender, unknown', noRoom, choice]

/-- R57: the evictable record heard longest ago is chosen. -/
theorem evictionChoice_eq_some {s : State} {i : Nat} {p : Peer} (hp : s.peer i = some p)
    (free : ¬Busy s i) (oldest : ∀ j q, s.peer j = some q → ¬Busy s j →
      elapsed q.lastHeard s.now < elapsed p.lastHeard s.now ∨
      (elapsed q.lastHeard s.now = elapsed p.lastHeard s.now ∧ i ≤ j)) :
    evictionChoice s = some i := by
  have sorted : ((tableEntries s.peers).filter fun e => evictable s e.1).Pairwise fun a b => a.1 < b.1 :=
    (tableEntries_sorted s.peers).filter _
  have chosen := oldestOf_eq_some (now := s.now) (time := fun p : Peer => p.lastHeard) (o := (i, p)) sorted
    (List.mem_filter.mpr ⟨mem_tableEntries.mpr hp, (evictable_iff s i).mpr free⟩) fun e he => by
      obtain ⟨hm, ev⟩ := List.mem_filter.mp he
      exact oldest e.1 e.2 (mem_tableEntries.mp hm) ((evictable_iff s e.1).mp ev)
  rw [evictionChoice, chosen]
  rfl

/-! ### Filed measurements -/

theorem fileMeasurement_unstamped (i : Nat) (m : List Nat) (s : State) :
    fileMeasurement i m none s = s := rfl

/-- R67, R68: a filing that begins no review. -/
theorem fileMeasurement_counts {i st : Nat} {m : List Nat} {s : State} {p : Peer} (hp : s.peer i = some p)
    (few : p.filings < 7 ∨ tableGet s.lae.reviews i ≠ none) :
    fileMeasurement i m (some st) s = { s with peers := tableSet s.peers i (some { p with
      store := updAt p.store (st / 100) (fileWindow m), filings := min 8 (p.filings + 1) }) } := by
  simp only [fileMeasurement, hp]
  rw [if_neg, mapPeer_eq hp]
  · rfl
  · rintro ⟨eight, idle⟩
    rcases few with h | h
    · omega
    · exact h idle

/-- R69: the eighth filing since review begins one, when none is running. -/
theorem fileMeasurement_reviews {i st : Nat} {m : List Nat} {s : State} {p : Peer} (hp : s.peer i = some p)
    (many : 7 ≤ p.filings) (idle : tableGet s.lae.reviews i = none) :
    fileMeasurement i m (some st) s = { s with
      peers := tableSet s.peers i (some { p with
        store := updAt p.store (st / 100) (fileWindow m), filings := 0 })
      lae := { s.lae with
        reviews :=
          tableSet s.lae.reviews i (some ⟨s.now, updAt p.store (st / 100) (fileWindow m)⟩) } } := by
  simp only [fileMeasurement, hp]
  rw [if_pos ⟨by omega, idle⟩, mapPeer_eq hp]
  rfl

/-! ### New senders -/

/-- R30: a header that a state with a new record takes as that of a known sender. -/
theorem exec_as_known {t : Time} {b : BurstInHand} {x : HeaderHeard} {h : Header} {s r : State} {i : Nat}
    (due : HeaderDue t s b) (decoded : headerHeard s.lmd b x = some h) (own : OwnLabel s h)
    (live : r.nrstLow = s.nrstLow) (clc : r.clc = s.clc) (lmd : r.lmd = s.lmd) (suc : r.suc = s.suc)
    (counters : r.mgu.counters = s.mgu.counters) (here : Bool)
    (ha : ∀ s', s'.suc = s.suc → addressedHere s' h = here)
    (same : ∀ l c k, ClcAnswer s l c k →
      learnSender h.sender here (({ s with now := t } : State).answered l c k) =
        (({ r with now := t } : State).answered l c k, some i) ∧
      learnSender h.sender here (({ r with now := t } : State).answered l c k) =
        (({ r with now := t } : State).answered l c k, some i)) :
    exec (.headerOutcome t x) s = exec (.headerOutcome t x) r := by
  obtain ⟨l, c, k, answer, eq⟩ := declaredToClc_answer (declaredFree b.start h) { s with now := t }
  obtain ⟨new, known⟩ := same l c k ⟨answer.line, answer.counts, answer.busy⟩
  have due' : HeaderDue t r b :=
    ⟨live.trans due.live, by rw [lmd]; exact due.receive, by rw [lmd]; exact due.hand, due.stage, due.due⟩
  have own' : OwnLabel r h := ⟨by rw [suc]; exact own.label, by rw [suc]; exact own.sender, own.individual⟩
  rw [exec_ownLabel due decoded own, exec_ownLabel due' (by rw [lmd]; exact decoded) own',
    eq _ rfl rfl rfl rfl, eq { r with now := t } rfl clc lmd counters]
  have here₁ : addressedHere (({ s with now := t } : State).answered l c k) h = here := ha _ rfl
  have here₂ : addressedHere (({ r with now := t } : State).answered l c k) h = here := ha _ suc
  rw [ownLabel_learned (by rw [here₁]; exact new), ownLabel_learned (by rw [here₂]; exact known),
    here₁, here₂]

/-- R30: a header to another station files its measurement, and the modem returns to LISTEN. -/
theorem exec_elsewhere {t : Time} {b : BurstInHand} {x : HeaderHeard} {h : Header} {s d r : State} {i : Nat}
    (due : HeaderDue t s b) (decoded : headerHeard s.lmd b x = some h) (own : OwnLabel s h)
    (declared : DeclaredAt t (declaredFree b.start h) s d) (suc : d.suc = s.suc)
    (notHere : s.suc.address ≠ some h.dest) (notAll : h.dest ≠ broadcastAddr)
    (learned : learnSender h.sender false { d with now := t } = (r, some i)) :
    exec (.headerOutcome t x) s = .next (endReception (fileMeasurement i b.measurement h.stamp r)) := by
  have here : addressedHere { d with now := t } h = false :=
    Bool.eq_false_iff.mpr (mt (addressedHere_iff _ h).mp (by rw [show ({ d with now := t } : State).suc = s.suc from suc]; exact notHere))
  rw [exec_ownLabel_declared due decoded own declared, ownLabel_learned (by rw [here]; exact learned),
    here, if_neg (by simp [notAll])]

end Sys2Proof.Machine
end

section
/-! The statements on new senders: a FREE record claimed, and a full table that evicts (R54 to R57). -/

namespace Sys2Proof.Machine

/-- R56: the record that a header from a sender without one claims at `t`. -/
def freshFor (s : State) (h : Header) (t : Time) : Peer :=
  learnedPeer h.sender t (if s.suc.address = some h.dest then some t else none)

/-- What is claimed is this record. -/
theorem claimRecord_fresh (s : State) (h : Header) (i : Nat) {r : State} (suc : r.suc = s.suc) :
    claimRecord i h.sender (addressedHere r h) r = { r with
      peers := tableSet r.peers i (some (freshFor s h r.now))
      mgu := latch .peerLearned r.mgu } := by
  have same : (if addressedHere r h = true then some r.now else none) =
      if s.suc.address = some h.dest then some r.now else none := by
    simp only [addressedHere_iff, suc]
  rw [claimRecord_eq, freshFor, same]

/-- R55: a record claimed at `t` is what a header at `t` makes of it. -/
theorem refreshPeer_fresh {s r : State} {h : Header} {i : Nat} (suc : r.suc = s.suc)
    (hp : r.peer i = some (freshFor s h r.now)) : refreshPeer i (addressedHere r h) r = r := by
  refine refreshPeer_learned (a := h.sender) (hp.trans ?_)
  simp only [freshFor, addressedHere_iff, suc]

/-- R67, R68: a record just claimed after the header that claimed it has filed its measurement. -/
def firstFiled (p : Peer) (m : List Nat) (stamp : Option Nat) : Peer :=
  { p with
    store := match stamp with
      | none => p.store
      | some st => updAt p.store (st / 100) (fileWindow m)
    filings := if stamp = none then 0 else 1 }

theorem fileMeasurement_fresh {s : State} {i : Nat} {a : Addr} {t : Time} {u : Option Time}
    (hp : s.peer i = some (learnedPeer a t u)) (m : List Nat) (stamp : Option Nat) :
    fileMeasurement i m stamp s =
      { s with peers := tableSet s.peers i (some (firstFiled (learnedPeer a t u) m stamp)) } := by
  cases stamp with
  | none => exact (mapPeer_of_fixed (f := id) hp rfl).symm.trans (mapPeer_eq hp)
  | some st => exact fileMeasurement_counts hp (.inl (show 0 < 7 by decide))

/-- No other record holds the sender's address. -/
theorem fresh_unique {s r : State} {h : Header} {i : Nat} {t : Time} {l : List (Option Peer)}
    (peers : r.peers = tableSet l i (some (freshFor s h t)))
    (unknown : ∀ j p, tableGet l j = some p → p.address ≠ h.sender) :
    ∀ j q, r.peer j = some q → q.address = h.sender → j = i := by
  intro j q hq ha
  by_contra hne
  rw [State.peer, peers, tableGet_tableSet_other _ _ (Ne.symm hne)] at hq
  exact unknown j q hq ha

/-- Settles O28: the lowest FREE record is claimed, and the header goes on with it. -/
theorem senderLearned : Obligations.SenderLearned := by
  intro t b x h s i due decoded own unknown low high vacant first fresh
  have room : lowestVacant s.peers = some i := lowestVacant_of_first low high vacant first
  refine ⟨?_, fun d declared notHere notAll => ?_⟩
  · refine exec_as_known (i := i) due decoded own rfl rfl rfl rfl rfl (decide (s.suc.address = some h.dest))
      (fun s' suc => by rw [addressedHere, suc]) fun l c k answer => ⟨?_, ?_⟩
    · rw [learnSender_new (by exact unknown) (by exact room)]
      exact congrArg (·, some i) (claimRecord_fresh s h i (r := ({ s with now := t } : State).answered l c k) rfl)
    · have hp := tableGet_tableSet_same (l := s.peers) (some fresh) low high
      refine (learnSender_known (p := fresh) (by exact hp) rfl ?_).trans ?_
      · exact fresh_unique (s := s) (t := t) (l := s.peers) rfl unknown
      · exact congrArg (·, some i) (refreshPeer_fresh (s := s) rfl hp)
  · obtain ⟨l, c, k, answer, rfl⟩ := declared.answer
    have here : addressedHere ({ s.answered l c k with now := t } : State) h = false :=
      decide_eq_false notHere
    have learned := learnSender_new (a := h.sender) (here := false)
      (s := { s.answered l c k with now := t }) (i := i) (by exact unknown) (by exact room)
    rw [exec_elsewhere due decoded own declared rfl notHere notAll learned]
    have claimed := claimRecord_fresh s h i (r := { s.answered l c k with now := t }) rfl
    rw [here] at claimed
    rw [claimed, fileMeasurement_fresh (by exact tableGet_tableSet_same (l := s.peers) _ low high),
      tableSet_tableSet]
    rfl

/-! ### A full table -/

/-- R57, R60: releasing a record that nothing refers to. -/
theorem releasing_idle {s : State} {i : Nat} (free : ¬Busy s i)
    (released : s.mgu.counters.framesReleased ≤ counterMax)
    (abandoned : s.mgu.counters.abandoned ≤ counterMax) : releasing i s = { s with
      peers := tableSet s.peers i none
      ptu := { s.ptu with fwd := s.ptu.fwd.map fun e => e.filter fun e => decide (e.peer ≠ i) }
      lae := { s.lae with reviews := tableSet s.lae.reviews i none }
      tsc := dropFrames (fun f => f.isFor i) s.tsc
      mgu := latch .peerReleased s.mgu } := by
  obtain ⟨noFrame, -, noEntry⟩ := not_or.mp free |>.imp id not_or.mp
  have noFrames : ((framesHeld s.tsc).filter fun f => decide (f.dest = .peer i)) = [] :=
    List.filter_eq_nil_iff.mpr fun f hf h => noFrame ⟨f, hf, of_decide_eq_true h⟩
  have noEntries : ((s.rxa.table.filterMap id).filter fun e => decide (e.sender = i)) = [] :=
    List.filter_eq_nil_iff.mpr fun e he h => noEntry ⟨e, he, of_decide_eq_true h⟩
  have table : vacate (fun e => decide (e.sender = i)) s.rxa.table = s.rxa.table := by
    rw [vacate_eq_filter]
    refine (List.map_congr_left fun e he => ?_).trans (List.map_id _)
    cases e with
    | none => rfl
    | some e =>
      have other : e.sender ≠ i := fun h => noEntry ⟨e, List.mem_filterMap.mpr ⟨some e, he, rfl⟩, h⟩
      simp [Option.filter, other]
  have fwd : vacate (fun e => decide (e.peer = i)) s.ptu.fwd =
      s.ptu.fwd.map fun e => e.filter fun e => decide (e.peer ≠ i) := by
    simp [vacate_eq_filter]
  have keep {n : Nat} (h : n ≤ counterMax) : satAdd 0 n = n := Nat.min_eq_right h
  rw [releasing_eq]
  dsimp only
  rw [noFrames, noEntries, table, fwd]
  simp [keep, released, abandoned]

/-- R57: eviction claims the record that it has released. -/
theorem claimRecord_released {s : State} (h : Header) {r : State} {i : Nat} (suc : r.suc = s.suc)
    (free : ¬Busy r i) (released : r.mgu.counters.framesReleased ≤ counterMax)
    (abandoned : r.mgu.counters.abandoned ≤ counterMax) (busy : r.clc.medium ≠ .idle) :
    claimRecord i h.sender (addressedHere r h) (releasePeer i r) = { r with
      peers := tableSet r.peers i (some (freshFor s h r.now))
      ptu := { r.ptu with fwd := r.ptu.fwd.map fun e => e.filter fun e => decide (e.peer ≠ i) }
      lae := { r.lae with reviews := tableSet r.lae.reviews i none }
      tsc := { dropFrames (fun f => f.isFor i) r.tsc with
        prospective := prospectiveLevel (dropFrames (fun f => f.isFor i) r.tsc) }
      mgu := latch .peerLearned (latch .peerReleased r.mgu) } := by
  have claimed := claimRecord_fresh s h i (r := releasePeer i r) (by simpa using suc)
  have here : addressedHere (releasePeer i r) h = addressedHere r h := by simp [addressedHere]
  rw [here, releasePeer_of_noClaim i (.inl busy), releasing_idle free released abandoned] at claimed
  rw [releasePeer_of_noClaim i (.inl busy), releasing_idle free released abandoned, claimed]
  simp only [State.mapTsc, tableSet_tableSet]

/-- Settles O29: the record chosen is released and claimed, and the header goes on with it. -/
theorem senderEvicts : Obligations.SenderEvicts := by
  intro t b x h s i p due decoded own range full unknown hp free oldest fresh
  obtain ⟨low, high⟩ := tableGet_range hp
  have ranges := (counters_range_iff _).mp range.1
  have claims {l : Lmd} {c : Clc} {k : Counters} (answer : ClcAnswer s l c k) (here : Bool)
      (hh : here = decide (s.suc.address = some h.dest)) :
      learnSender h.sender here ({ s.answered l c k with now := t } : State) =
        ({ s.answered l c k with
          now := t
          peers := tableSet s.peers i (some fresh)
          ptu := { s.ptu with fwd := s.ptu.fwd.map fun e => e.filter fun e => decide (e.peer ≠ i) }
          lae := { s.lae with reviews := tableSet s.lae.reviews i none }
          tsc := { dropFrames (fun f => f.isFor i) s.tsc with
            prospective := prospectiveLevel (dropFrames (fun f => f.isFor i) s.tsc) }
          mgu := latch .peerLearned (latch .peerReleased (s.answered l c k).mgu) }, some i) := by
    have choice : evictionChoice ({ s.answered l c k with now := t } : State) = some i :=
      evictionChoice_eq_some (p := p) hp free oldest
    have released : k.framesReleased ≤ counterMax := by rw [answer.counts]; simp [ranges]
    have abandoned : k.abandoned ≤ counterMax := by rw [answer.counts]; simp [ranges]
    have claimed := claimRecord_released (s := s) h (r := { s.answered l c k with now := t }) (i := i) rfl
      free released abandoned answer.busy
    subst hh
    refine (learnSender_evicts (by exact unknown) (by exact full) choice).trans ?_
    exact congrArg (·, some i) claimed
  refine ⟨fun filled => ?_, fun d declared notHere notAll => ?_⟩
  · have noFrame : ∀ f ∈ framesHeld s.tsc, f.isFor i = false := fun f hf =>
      decide_eq_false fun h => free (.inl ⟨f, hf, h⟩)
    refine exec_as_known (i := i) due decoded own rfl rfl rfl rfl rfl (decide (s.suc.address = some h.dest))
      (fun s' suc => by rw [addressedHere, suc]) fun l c k answer => ⟨?_, ?_⟩
    · refine (claims answer _ rfl).trans ?_
      rw [dropFrames_of_none noFrame filled]
      rfl
    · have hp' := tableGet_tableSet_same (l := s.peers) (some fresh) low high
      refine (learnSender_known (p := fresh) (by exact hp') rfl ?_).trans ?_
      · exact fresh_unique (s := s) (t := t) (l := s.peers) rfl unknown
      · exact congrArg (·, some i) (refreshPeer_fresh (s := s) rfl hp')
  · obtain ⟨l, c, k, answer, rfl⟩ := declared.answer
    have learned := claims answer false (decide_eq_false notHere).symm
    have files := exec_elsewhere due decoded own declared rfl notHere notAll learned
    have hp' := tableGet_tableSet_same (l := s.peers) (some fresh) low high
    rw [fileMeasurement_fresh (by exact hp')] at files
    refine ⟨_, firstFiled fresh b.measurement h.stamp, files, ?_, fun none => ?_, fun st some => ?_,
      fun j hj => ?_, fun n e he => ?_, ?_, rfl, rfl, ?_, rfl, rfl, ?_, rfl⟩
    · exact tableGet_tableSet_same (l := tableSet s.peers i _) _ low (by simpa using high)
    · rw [none]
      rfl
    · rw [some]
      rfl
    · exact (tableGet_tableSet_other _ _ (Ne.symm hj)).trans (tableGet_tableSet_other _ _ (Ne.symm hj))
    · change tableGet (s.ptu.fwd.map fun e => e.filter fun e => decide (e.peer ≠ i)) n = some e at he
      have gone : s.ptu.fwd.map (fun e => e.filter fun e => decide (e.peer ≠ i)) =
          vacate (fun e => decide (e.peer = i)) s.ptu.fwd := by simp [vacate_eq_filter]
      rw [gone, tableGet_vacate] at he
      exact of_decide_eq_false he.2
    · change tableGet (tableSet s.lae.reviews i none) i = none
      by_contra some
      obtain ⟨r, hr⟩ := Option.ne_none_iff_exists'.mp some
      exact (tableGet_tableSet_none hr).2 rfl
    · change (s.mgu.flags ||| 1#14 <<< 4) ||| 1#14 <<< 3 = _
      rw [BitVec.or_assoc, BitVec.or_comm (1#14 <<< 4), ← BitVec.or_assoc]
    · refine (dropFrames_framesHeld _ _).trans (List.filter_eq_self.mpr fun f hf => ?_)
      have other : f.dest ≠ .peer i := fun h => free (.inl ⟨f, hf, h⟩)
      simp [Frame.isFor, other]

end Sys2Proof.Machine
end

section
/-! Map notices as they are queued (R84, R90, R91, R109). -/

namespace Sys2Proof.Machine

@[simp] theorem slotRecord_length (m : Option VersionedMap) : (slotRecord m).length = 32 := by
  cases m <;> simp [slotRecord]

theorem encodeNotice_length (ws : WindowList) (slots : List (Option VersionedMap)) :
    (encodeNotice ws slots).length = ws.length + 32 * slots.length := by
  have records : (slots.map fun m => (slotRecord m).length) = List.replicate slots.length 32 := by
    simp [List.map_const']
  simp only [encodeNotice, List.length_append, List.length_map, List.length_flatMap, records,
    List.sum_replicate, smul_eq_mul]
  omega

@[simp] theorem currentSlots_length (p : Peer) : (currentSlots p).length = 4 := by
  simp [currentSlots, slotCount]

theorem isNoticeFor_iff (f : Frame) (i : Nat) :
    f.isNoticeFor i = true ↔ f.kind = .notice ∧ f.dest = .peer i := by
  simp [Frame.isNoticeFor, Frame.isFor]

/-- A notice to the peer `i`, whose content is `bytes`, is queued from `s`: queue 0, the control reserve and
the prospective claim level alone have changed in `r`. With room in the reserve it waits as the one notice
to the peer, its expiry 500 ms from now. -/
structure NoticeQueued (i : Nat) (bytes : List Byte) (s r : State) : Prop where
  frame : r = { s with
    tsc := { s.tsc with queues := r.tsc.queues, prospective := r.tsc.prospective }
    bpm := { s.bpm with ctlFree := r.bpm.ctlFree, ctlDesc := r.bpm.ctlDesc } }
  others : ∀ j, j ≠ 0 → queueAt r.tsc j = queueAt s.tsc j
  waits : s.tsc.queues.length = 8 → bytes.length = 140 → 2 ≤ s.bpm.ctlFree → 1 ≤ s.bpm.ctlDesc →
    ∃ f ∈ queueAt r.tsc 0, f.kind = .notice ∧ f.dest = .peer i
  content : s.tsc.queues.length = 8 → bytes.length = 140 → 2 ≤ s.bpm.ctlFree → 1 ≤ s.bpm.ctlDesc →
    ∀ f ∈ queueAt r.tsc 0, f.kind = .notice → f.dest = .peer i →
      f.bytes = bytes ∧ f.expiry = after s.now 500000
  grows : s.tsc.queues.length = 8 → bytes.length = 140 → 2 ≤ s.bpm.ctlFree → 1 ≤ s.bpm.ctlDesc →
    (∀ f ∈ queueAt s.tsc 0, f.kind = .notice → f.dest ≠ .peer i) →
    (queueAt r.tsc 0).length = (queueAt s.tsc 0).length + 1
  renews : s.tsc.queues.length = 8 → bytes.length = 140 → 2 ≤ s.bpm.ctlFree → 1 ≤ s.bpm.ctlDesc →
    (∃ f ∈ queueAt s.tsc 0, f.kind = .notice ∧ f.dest = .peer i) →
    (queueAt r.tsc 0).length = (queueAt s.tsc 0).length

/-- R91: the notice that waits takes the new content. -/
theorem mem_renewNotice {i : Nat} {bytes : List Byte} {e : Time} {q : List Frame} {f : Frame}
    (hf : f ∈ renewNotice i bytes e q) (kind : f.kind = .notice) (dest : f.dest = .peer i) :
    f.bytes = bytes ∧ f.expiry = e := by
  obtain ⟨g, -, rfl⟩ := List.mem_map.mp hf
  split at kind
  next h => rw [if_pos h]; exact ⟨rfl, rfl⟩
  next h =>
    rw [if_neg h] at dest
    exact absurd ((isNoticeFor_iff g i).mpr ⟨kind, dest⟩) h

theorem renewNotice_waits {i : Nat} {bytes : List Byte} {e : Time} {q : List Frame}
    (h : ∃ f ∈ q, f.isNoticeFor i = true) :
    ∃ f ∈ renewNotice i bytes e q, f.kind = .notice ∧ f.dest = .peer i := by
  obtain ⟨f, hf, hi⟩ := h
  refine ⟨_, List.mem_map_of_mem hf, ?_⟩
  rw [if_pos hi]
  exact (isNoticeFor_iff f i).mp hi

/-- The descriptor of a notice to the peer `i` (R109). -/
def noticeFrame (i : Nat) (bytes : List Byte) (s : State) : Frame :=
  newFrame .notice 0 (.peer i) bytes (after s.now noticeLifetime) s.tsc

/-- R84, R91, R109: a notice is admitted, or renews the one that waits; outside IDLE no claim opens. -/
theorem admitNotice_queued {s : State} (i : Nat) (bytes : List Byte) (busy : NoClaimOpens s) :
    NoticeQueued i bytes s (admitNotice i bytes s) := by
  have queue (r : Tsc) (f : List Frame → List Frame) (j : Nat) (hr : r.queues = updAt s.tsc.queues 0 f) :
      queueAt r j = if 0 = j ∧ 0 < s.tsc.queues.length then f (queueAt s.tsc 0) else queueAt s.tsc j := by
    rw [← queueAt_updAt, queueAt, queueAt, hr]
  by_cases waiting : ∃ f ∈ queueAt s.tsc 0, f.isNoticeFor i = true
  · have e : admitNotice i bytes s = s.mapTsc fun t => { t with
        queues := updAt t.queues 0 (renewNotice i bytes (after s.now noticeLifetime)) } :=
      if_pos (List.any_eq_true.mpr waiting)
    have queue' := queue (admitNotice i bytes s).tsc (renewNotice i bytes (after s.now noticeLifetime))
    rw [e] at queue' ⊢
    have first (h : s.tsc.queues.length = 8) := (queue' 0 rfl).trans (if_pos ⟨rfl, by omega⟩)
    constructor
    case frame => rfl
    case others => exact fun j hj => (queue' j rfl).trans (if_neg fun h => hj h.1.symm)
    case waits =>
      intro h _ _ _
      rw [first h]
      exact renewNotice_waits waiting
    case content =>
      intro h _ _ _ f hf
      rw [first h] at hf
      exact mem_renewNotice hf
    case grows =>
      intro _ _ _ _ none
      obtain ⟨f, hf, hi⟩ := waiting
      obtain ⟨kind, dest⟩ := (isNoticeFor_iff f i).mp hi
      exact absurd dest (none f hf kind)
    case renews =>
      intro h _ _ _ _
      rw [first h, renewNotice, List.length_map]
  · have none : ∀ f ∈ queueAt s.tsc 0, f.kind = .notice → f.dest ≠ .peer i := fun f hf kind dest =>
      waiting ⟨f, hf, (isNoticeFor_iff f i).mpr ⟨kind, dest⟩⟩
    have noneWaits : (queueAt s.tsc 0).any (fun f => f.isNoticeFor i) ≠ true :=
      fun h => waiting (List.any_eq_true.mp h)
    by_cases room : (noticeFrame i bytes s).blocks.length ≤ s.bpm.ctlFree ∧ 0 < s.bpm.ctlDesc
    · have e : admitNotice i bytes s = ((s.mapBpm fun b => { b with
            ctlFree := b.ctlFree - (noticeFrame i bytes s).blocks.length, ctlDesc := b.ctlDesc - 1 }).mapTsc
            (joinQueue (noticeFrame i bytes s))).mapTsc fun t => { t with prospective := prospectiveLevel t } := by
        unfold admitNotice
        rw [if_neg noneWaits]
        exact (if_pos room).trans (recompute_of_noClaim busy)
      have queue' := queue (admitNotice i bytes s).tsc fun q => q ++ [noticeFrame i bytes s]
      rw [e] at queue' ⊢
      have first (h : s.tsc.queues.length = 8) := (queue' 0 rfl).trans (if_pos ⟨rfl, by omega⟩)
      constructor
      case frame => rfl
      case others => exact fun j hj => (queue' j rfl).trans (if_neg fun h => hj h.1.symm)
      case waits =>
        intro h _ _ _
        rw [first h]
        exact ⟨noticeFrame i bytes s, by simp, rfl, rfl⟩
      case content =>
        intro h _ _ _ g hg kind dest
        rw [first h] at hg
        rcases List.mem_append.mp hg with hg | hg
        · exact absurd dest (none g hg kind)
        · obtain rfl := List.mem_singleton.mp hg
          exact ⟨rfl, rfl⟩
      case grows =>
        intro h _ _ _ _
        rw [first h, List.length_append, List.length_singleton]
      case renews =>
        rintro _ _ _ _ ⟨g, hg, kind, dest⟩
        exact absurd dest (none g hg kind)
    · have e : admitNotice i bytes s = s := by
        unfold admitNotice
        rw [if_neg noneWaits]
        exact if_neg room
      have full (h : bytes.length = 140) (free : 2 ≤ s.bpm.ctlFree) (desc : 1 ≤ s.bpm.ctlDesc) : False := by
        refine room ⟨?_, desc⟩
        have two : (noticeFrame i bytes s).blocks.length = 2 := by simp [noticeFrame, newFrame, blocksOf, blockPayload, h]
        omega
      rw [e]
      exact ⟨rfl, fun _ _ => rfl, fun _ h free desc => (full h free desc).elim,
        fun _ h free desc => (full h free desc).elim, fun _ h free desc => (full h free desc).elim,
        fun _ h free desc => (full h free desc).elim⟩

/-- R84: the current set of a record is queued. -/
theorem queueCurrentSet_queued {s : State} {i : Nat} {p : Peer} (hp : s.peer i = some p)
    (busy : NoClaimOpens s) :
    NoticeQueued i (encodeNotice p.announced (currentSlots p))
      { s with peers := tableSet s.peers i (some { p with
        lastNotice := some s.now, noticePending := false }) }
      (queueCurrentSet i s) := by
  simp only [queueCurrentSet, hp]
  rw [mapPeer_eq hp]
  exact admitNotice_queued i _ busy

end Sys2Proof.Machine
end

section
/-! A known sender's header: its record refreshed, its measurement filed, the map test, and the notices that
recover a lost one (R55, R67 to R69, R86, R95 to R101, R127). -/

namespace Sys2Proof.Machine

/-! ### The map test and the maps it discards -/

theorem updAt_of_get {α : Type} {l : List α} {k : Nat} {x : α} (h : l[k]? = some x) (f : α → α) :
    updAt l k f = l.set k (f x) := by simp only [updAt, h]

/-- A change that leaves the element as it is leaves the list. -/
theorem updAt_of_fixed {α : Type} {l : List α} {k : Nat} {f : α → α} (h : ∀ x, l[k]? = some x → f x = x) :
    updAt l k f = l := by
  unfold updAt
  split
  next x hx =>
    rw [h x hx]
    obtain ⟨hk, rfl⟩ := List.getElem?_eq_some_iff.mp hx
    exact List.set_getElem_self hk
  · rfl

theorem holdsVersion_of_version {m : VersionedMap} {v : Nat} (h : m.version = v) :
    holdsVersion (some m) v = some m := by simp [holdsVersion, h]

theorem holdsVersion_of_other {m : Option VersionedMap} {v : Nat} (h : ∀ x, m = some x → x.version ≠ v) :
    holdsVersion m v = none := by
  cases m with
  | none => rfl
  | some x => simp [holdsVersion, h x rfl]

theorem of_holdsVersion {m : Option VersionedMap} {v : Nat} {x : VersionedMap}
    (h : holdsVersion m v = some x) : m = some x ∧ x.version = v := by
  obtain ⟨hm, hv⟩ := Option.filter_eq_some_iff.mp h
  exact ⟨hm, of_decide_eq_true hv⟩

/-- The map test reads the receive maps alone. -/
theorem mapTest_congr {p q : Peer} (h : q.rxMaps = p.rxMaps) (sel : MapSelector) :
    mapTest q sel = mapTest p sel := by
  unfold mapTest
  rw [h]

theorem discardPrevious_robust (p : Peer) : discardPrevious .robust p = p := rfl

/-- R96: a header on the current version discards the slot's previous map. -/
theorem discardPrevious_current {p : Peer} {k v : Nat} {m : VersionedMap}
    (hc : (p.rxMaps.getD k ⟨none, none⟩).current = some m) (hv : m.version = v) :
    (discardPrevious (.slot k v) p).rxMaps = p.rxMaps.set k ⟨some m, none⟩ := by
  cases h : p.rxMaps[k]? with
  | none => simp [List.getD_eq_getElem?_getD, h] at hc
  | some r =>
    have current : r.current = some m := by simpa [List.getD_eq_getElem?_getD, h] using hc
    simp only [discardPrevious]
    rw [updAt_of_get h, current, holdsVersion_of_version hv]
    rfl

/-- A header on another version leaves every slot's maps. -/
theorem discardPrevious_other {p : Peer} {k v : Nat}
    (h : ∀ m, (p.rxMaps.getD k ⟨none, none⟩).current = some m → m.version ≠ v) :
    discardPrevious (.slot k v) p = p := by
  have same : updAt p.rxMaps k (fun r =>
      if (holdsVersion r.current v).isSome then { r with previous := none } else r) = p.rxMaps := by
    refine updAt_of_fixed fun r hr => if_neg ?_
    rw [holdsVersion_of_other fun m hm => h m (by simp [List.getD_eq_getElem?_getD, hr, hm])]
    decide
  simp only [discardPrevious, same]

theorem mapTest_current {p : Peer} {k v : Nat} {m : VersionedMap}
    (hc : (p.rxMaps.getD k ⟨none, none⟩).current = some m) (hv : m.version = v) :
    mapTest p (.slot k v) = .known (.window m.loads) := by
  simp only [mapTest, hc, holdsVersion_of_version hv]

/-- R95: another version that is known is that of the previous map. -/
theorem mapTest_previous {p : Peer} {k v : Nat} {map : PayloadMap}
    (h : ∀ m, (p.rxMaps.getD k ⟨none, none⟩).current = some m → m.version ≠ v)
    (known : mapTest p (.slot k v) = .known map) :
    ∃ m, (p.rxMaps.getD k ⟨none, none⟩).previous = some m ∧ m.version = v ∧ map = .window m.loads := by
  simp only [mapTest, holdsVersion_of_other h] at known
  cases hp : holdsVersion (p.rxMaps.getD k ⟨none, none⟩).previous v with
  | none =>
    rw [hp] at known
    cases known
  | some m =>
    rw [hp] at known
    obtain ⟨previous, version⟩ := of_holdsVersion hp
    exact ⟨m, previous, version, (MapTest.known.inj known).symm⟩

theorem discardPrevious_unknown {p : Peer} {sel : MapSelector} (h : mapTest p sel = .unknown) :
    discardPrevious sel p = p := by
  cases sel with
  | robust => rfl
  | slot k v =>
    refine discardPrevious_other fun m hm hv => ?_
    rw [mapTest_current hm hv] at h
    cases h

/-- What a discard leaves of a record. -/
theorem discardPrevious_eq (sel : MapSelector) (p : Peer) :
    discardPrevious sel p = { p with rxMaps := (discardPrevious sel p).rxMaps } := by
  cases sel <;> rfl

theorem discardPrevious_rxMaps_congr {p q : Peer} (h : q.rxMaps = p.rxMaps) (sel : MapSelector) :
    (discardPrevious sel q).rxMaps = (discardPrevious sel p).rxMaps := by
  cases sel <;> simp [discardPrevious, h]

/-- No current map is discarded. -/
theorem discardPrevious_currents (sel : MapSelector) (p : Peer) (j : Nat) :
    ((discardPrevious sel p).rxMaps.getD j ⟨none, none⟩).current =
      (p.rxMaps.getD j ⟨none, none⟩).current := by
  cases sel with
  | robust => rfl
  | slot k v =>
    by_cases h : ∃ m, (p.rxMaps.getD k ⟨none, none⟩).current = some m ∧ m.version = v
    · obtain ⟨m, hc, hv⟩ := h
      rw [discardPrevious_current hc hv]
      by_cases e : k = j
      · subst e
        cases hk : p.rxMaps[k]? with
        | none => simp [List.getD_eq_getElem?_getD, hk] at hc
        | some r =>
          obtain ⟨hl, -⟩ := List.getElem?_eq_some_iff.mp hk
          simp only [List.getD_eq_getElem?_getD, List.getElem?_eq_getElem hl, Option.getD_some] at hc
          simp [hl, hc]
      · simp [List.getD_eq_getElem?_getD, e]
    · rw [discardPrevious_other fun m hm hv => h ⟨m, hm, hv⟩]

/-- The current set is read from the announced list and the current maps. -/
theorem currentSlots_congr {p q : Peer} (list : q.announced = p.announced)
    (maps : ∀ j, (q.rxMaps.getD j ⟨none, none⟩).current = (p.rxMaps.getD j ⟨none, none⟩).current) :
    currentSlots q = currentSlots p := by
  simp only [currentSlots, list, maps]

/-! ### The record refreshed, the measurement filed -/

/-- A record with what a header's arrival and its measurement change. -/
def Peer.heard (p : Peer) (at' : Time) (unicast : Option Time) (store : Store) (filings : Nat) : Peer :=
  { p with lastHeard := at', lastUnicast := unicast, store := store, filings := filings }

theorem Refreshed.congr {t : Time} {b : BurstInHand} {h : Header} {i : Nat} {p q q' : Peer} {s r r' : State}
    (k : Refreshed t b h i p q s r) (heard : q'.lastHeard = q.lastHeard)
    (unicast : q'.lastUnicast = q.lastUnicast) (store : q'.store = q.store)
    (filings : q'.filings = q.filings) (lae : r'.lae = r.lae) : Refreshed t b h i p q' s r' where
  heard := heard.trans k.heard
  unicast := unicast.trans k.unicast
  unstamped := by rw [store, filings, lae]; exact k.unstamped
  stamped := by rw [store]; exact k.stamped
  reviews := by rw [store, filings, lae]; exact k.reviews
  counts := by rw [filings, lae]; exact k.counts

/-- R55, R67 to R69: a known sender's header refreshes its record and files its measurement. -/
theorem fileMeasurement_refreshed {t : Time} {b : BurstInHand} {h : Header} {i : Nat} {p : Peer} {s r : State}
    (hp : s.peer i = some p) (now : r.now = t) (peers : r.peers = s.peers) (lae : r.lae = s.lae)
    (suc : r.suc = s.suc) :
    ∃ u store filings la,
      fileMeasurement i b.measurement h.stamp (refreshPeer i (addressedHere r h) r) = { r with
        peers := tableSet s.peers i (some (p.heard t u store filings)), lae := la } ∧
      ∀ r' : State, r'.lae = la → Refreshed t b h i p (p.heard t u store filings) s r' := by
  have hp' : r.peer i = some p := by rw [State.peer, peers]; exact hp
  obtain ⟨u, hu⟩ : ∃ u, (if s.suc.address = some h.dest then some t else p.lastUnicast) = u := ⟨_, rfl⟩
  have unicast : (if addressedHere r h = true then some r.now else p.lastUnicast) = u := by
    simp only [addressedHere_iff, suc, now, hu]
  have refreshed : refreshPeer i (addressedHere r h) r = { r with peers := tableSet s.peers i (some
      (p.heard t u p.store p.filings)) } := by
    rw [refreshPeer_eq hp', unicast, now, peers]
    rfl
  have range := tableGet_range hp
  have there := tableGet_tableSet_same (l := s.peers)
    (some (p.heard t u p.store p.filings))
    range.1 range.2
  rw [refreshed]
  cases stamp : h.stamp with
  | none =>
    refine ⟨u, p.store, p.filings, r.lae, fileMeasurement_unstamped _ _ _, fun r' hr => ?_⟩
    exact ⟨rfl, hu.symm, fun _ => ⟨rfl, rfl, hr.trans lae⟩, fun st hst => by simp [stamp] at hst,
      fun hst => absurd stamp hst, fun hst => absurd stamp hst⟩
  | some st =>
    have stored : ∀ st', h.stamp = some st' →
        updAt p.store (st / 100) (fileWindow b.measurement) =
          updAt p.store (st' / 100) (fileWindow b.measurement) := by
      intro st' hst
      rw [← Option.some.inj (stamp.symm.trans hst)]
    by_cases reviews : 7 ≤ p.filings ∧ tableGet s.lae.reviews i = none
    · refine ⟨u, updAt p.store (st / 100) (fileWindow b.measurement), 0,
        { r.lae with
          reviews := tableSet r.lae.reviews i
            (some ⟨r.now, updAt p.store (st / 100) (fileWindow b.measurement)⟩) },
        (fileMeasurement_reviews (p := p.heard t u p.store p.filings) (by exact there) reviews.1
          (by exact (congrArg (fun l : Lae => tableGet l.reviews i) lae).trans reviews.2)).trans ?_,
        fun r' hr => ?_⟩
      · rw [tableSet_tableSet]
        rfl
      · refine ⟨rfl, hu.symm, fun hst => by simp [stamp] at hst, stored, fun _ _ _ => ⟨rfl, ?_⟩,
          fun _ few => ?_⟩
        · rw [hr]
          dsimp only
          rw [lae, now]
          rfl
        · rcases few with few | few
          · omega
          · exact absurd reviews.2 few
    · have few : p.filings < 7 ∨ tableGet s.lae.reviews i ≠ none := by
        by_cases h7 : p.filings < 7
        · exact .inl h7
        · exact .inr fun idle => reviews ⟨by omega, idle⟩
      refine ⟨u, updAt p.store (st / 100) (fileWindow b.measurement), min 8 (p.filings + 1), r.lae,
        (fileMeasurement_counts (p := p.heard t u p.store p.filings) (by exact there) ?_).trans ?_, fun r' hr => ?_⟩
      · exact few.imp id fun h => by rw [← lae] at h; exact h
      · rw [tableSet_tableSet]
        rfl
      · exact ⟨rfl, hu.symm, fun hst => by simp [stamp] at hst, stored,
          fun _ many idle => absurd ⟨many, idle⟩ reviews, fun _ _ => ⟨rfl, hr.trans lae⟩⟩

end Sys2Proof.Machine
end

section
/-! The header statements of known senders (R30, R55, R67 to R69, R84 to R86, R95 to R101, R127). -/

namespace Sys2Proof.Machine

/-! ### Notices recovered -/

/-- R101: a header addressed here has the current set queued. -/
def WantsNotice (now : Time) (q : Peer) (h : Header) (test : MapTest) : Prop :=
  q.noticePending = true ∨ test = .unknown ∨ robustInMapped now q h = true ∨
    keepAliveDue now q h = true

/-- R99: the record with its robust-resend time set where the rule holds. -/
def Peer.resent (now : Time) (h : Header) (q : Peer) : Peer :=
  { q with robustResend := if robustInMapped now q h = true then some now else q.robustResend }

theorem recoverNotices_eq {i : Nat} {h : Header} {test : MapTest} {s : State} {q : Peer}
    (hq : s.peer i = some q) : recoverNotices i h test s =
      (if q.noticePending = true ∨ test = .unknown ∨ robustInMapped s.now q h = true ∨
          keepAliveDue s.now q h = true
      then queueCurrentSet i { s with peers := tableSet s.peers i (some (q.resent s.now h)) }
      else { s with peers := tableSet s.peers i (some (q.resent s.now h)) }) := by
  have resent : (if robustInMapped s.now q h = true
      then s.mapPeer i fun p => { p with robustResend := some s.now } else s) =
      { s with peers := tableSet s.peers i (some (q.resent s.now h)) } := by
    by_cases robust : robustInMapped s.now q h = true
    · rw [if_pos robust, mapPeer_eq hq, Peer.resent, if_pos robust]
    · have same : q.resent s.now h = q := by rw [Peer.resent, if_neg robust]
      rw [if_neg robust, same, tableSet_of_get hq]
  simp only [recoverNotices, hq]
  rw [resent]

theorem recoverNotices_unwanted {i : Nat} {h : Header} {test : MapTest} {s : State} {q : Peer}
    (hq : s.peer i = some q) (no : ¬WantsNotice s.now q h test) :
    recoverNotices i h test s = { s with peers := tableSet s.peers i (some (q.resent s.now h)) } := by
  rw [recoverNotices_eq hq]
  exact if_neg no

/-- R84, R101: the current set is queued once, and its times are noted in the record. -/
theorem recoverNotices_wanted {i : Nat} {h : Header} {test : MapTest} {s : State} {q : Peer}
    (hq : s.peer i = some q) (wants : WantsNotice s.now q h test) (busy : NoClaimOpens s) :
    NoticeQueued i (encodeNotice q.announced (currentSlots q))
      { s with peers := tableSet s.peers i (some { q.resent s.now h with
        lastNotice := some s.now, noticePending := false }) }
      (recoverNotices i h test s) := by
  have range := tableGet_range hq
  have there := tableGet_tableSet_same (l := s.peers) (some (q.resent s.now h)) range.1 range.2
  have queued := queueCurrentSet_queued (s := { s with
    peers := tableSet s.peers i (some (q.resent s.now h)) }) (i := i) there busy
  rw [tableSet_tableSet] at queued
  rw [recoverNotices_eq hq]
  rw [show (if q.noticePending = true ∨ test = .unknown ∨ robustInMapped s.now q h = true ∨
      keepAliveDue s.now q h = true
    then queueCurrentSet i { s with peers := tableSet s.peers i (some (q.resent s.now h)) }
    else { s with peers := tableSet s.peers i (some (q.resent s.now h)) }) =
    queueCurrentSet i { s with peers := tableSet s.peers i (some (q.resent s.now h)) } from if_pos wants]
  exact queued

/-- R99: the condition, in the rule's words. -/
theorem robustInMapped_iff (now : Time) (p : Peer) (h : Header) : robustInMapped now p h = true ↔
    h.selector = .robust ∧ ∃ st, h.stamp = some st ∧ p.announced.getD (st / 100) none ≠ none ∧
      ∀ u, p.robustResend = some u → 1000000 ≤ elapsed u now := by
  unfold robustInMapped
  cases sel : h.selector with
  | slot k v => simp
  | robust =>
    cases stamp : h.stamp with
    | none => simp
    | some st =>
      cases last : p.robustResend with
      | none => simp [Option.isSome_iff_ne_none]
      | some u =>
        simp only [Option.isSome_iff_ne_none, Bool.and_eq_true, Option.some.injEq, exists_eq_left',
          forall_eq', true_and]
        exact and_congr_right fun _ => decide_eq_true_iff

/-- R100: the condition, in the rule's words. -/
theorem keepAliveDue_iff (now : Time) (p : Peer) (h : Header) : keepAliveDue now p h = true ↔
    h.selector ≠ .robust ∧ ∀ u, p.lastNotice = some u → 20000000 ≤ elapsed u now := by
  unfold keepAliveDue
  cases sel : h.selector with
  | robust => simp
  | slot k v =>
    cases last : p.lastNotice with
    | none => simp
    | some u =>
      simp only [ne_eq, reduceCtorEq, not_false_eq_true, true_and, Option.some.injEq, forall_eq']
      exact decide_eq_true_iff

/-! ### Headers of known senders -/

/-- R30: a known sender's header, once its record is refreshed and its measurement filed. -/
theorem exec_known {t : Time} {b : BurstInHand} {x : HeaderHeard} {h : Header} {s d : State} {i : Nat}
    {p : Peer} (due : HeaderDue t s b) (decoded : headerHeard s.lmd b x = some h) (own : OwnLabel s h)
    (declared : DeclaredAt t (declaredFree b.start h) s d) (distinct : PeersDistinct s)
    (hp : s.peer i = some p) (ha : p.address = h.sender) :
    ∃ u store filings la,
      exec (.headerOutcome t x) s = .next
        (if addressedHere s h = true ∨ h.dest = broadcastAddr
        then serveHeader i h (addressedHere s h) { d with
          now := t
          peers := tableSet s.peers i (some (p.heard t u store filings)), lae := la }
        else endReception { d with
          now := t
          peers := tableSet s.peers i (some (p.heard t u store filings)), lae := la }) ∧
      ∀ r' : State, r'.lae = la → Refreshed t b h i p (p.heard t u store filings) s r' := by
  obtain ⟨l, c, k, answer, rfl⟩ := declared.answer
  have here : addressedHere ({ s.answered l c k with now := t } : State) h = addressedHere s h := rfl
  have known := learnSender_known (here := addressedHere s h) (a := h.sender)
    (s := { s.answered l c k with now := t }) (i := i) (p := p) hp ha
    (fun j q hq hqa => distinct j i q p hq hp (hqa.trans ha.symm))
  obtain ⟨u, store, filings, la, files, refreshed⟩ := fileMeasurement_refreshed (t := t) (b := b) (h := h)
    (r := { s.answered l c k with now := t }) hp rfl rfl rfl rfl
  refine ⟨u, store, filings, la, ?_, refreshed⟩
  rw [exec_ownLabel_declared due decoded own declared, ownLabel_learned (by rw [here]; exact known), here]
  rw [here] at files
  rw [files]

/-- R95: the map test of a record that a header has refreshed. -/
theorem mapTest_heard (p : Peer) (sel : MapSelector) (t : Time) (u : Option Time) (st : Store) (n : Nat) :
    mapTest (p.heard t u st n) sel = mapTest p sel := mapTest_congr (p := p) rfl sel

/-- R96, R127: the record of a served burst. -/
def Peer.served (p : Peer) (sel : MapSelector) : Peer :=
  { p with
    rxMaps := (discardPrevious sel p).rxMaps
    counters := { p.counters with
      burstsReceived := min 4294967295 (p.counters.burstsReceived + 1) } }

/-- R95, R96, R127: a header on a map that is known. -/
theorem serveHeader_known {i : Nat} {h : Header} {here : Bool} {s : State} {p : Peer} {map : PayloadMap}
    (hp : s.peer i = some p) (known : mapTest p h.selector = .known map) :
    let opened := { s with
      peers := tableSet s.peers i (some (p.served h.selector))
      rxa := { s.rxa with service := some (servedBurst i here h.blocks) } }
    let recovered := if here then recoverNotices i h (.known map) opened else opened
    serveHeader i h here s = goOnReceiving h .payload map (map.bits recovered.gOn) recovered := by
  have range := tableGet_range hp
  have there := tableGet_tableSet_same (l := s.peers) (some (discardPrevious h.selector p)) range.1 range.2
  have opened : openService i h here (.known map) (s.mapPeer i (discardPrevious h.selector)) = { s with
      peers := tableSet s.peers i (some (p.served h.selector))
      rxa := { s.rxa with service := some (servedBurst i here h.blocks) } } := by
    simp only [openService, countPeer]
    rw [mapPeer_eq hp, mapPeer_eq (p := discardPrevious h.selector p) (by exact there)]
    simp only [State.mapRxa, tableSet_tableSet]
    rw [discardPrevious_eq]
    rfl
  simp only [serveHeader, hp, known]
  rw [opened]
  cases here <;> rfl

/-- R97, R127: a broadcast header on a map that is not known is not served. -/
theorem serveHeader_unknown_broadcast {i : Nat} {h : Header} {s : State} {p : Peer}
    (hp : s.peer i = some p) (unknown : mapTest p h.selector = .unknown) :
    serveHeader i h false s = endReception s := by
  have same : s.mapPeer i (discardPrevious h.selector) = s :=
    mapPeer_of_fixed hp (discardPrevious_unknown unknown)
  simp only [serveHeader, hp, unknown, same]
  rfl

/-! ### The statements -/

theorem ClcAnswer.hand {s : State} {l : Lmd} {c : Clc} {k : Counters} (a : ClcAnswer s l c k) :
    l.inHand = s.lmd.inHand := by rw [a.line]

theorem ClcAnswer.notch {s : State} {l : Lmd} {c : Clc} {k : Counters} (a : ClcAnswer s l c k) :
    l.notch = s.lmd.notch := by rw [a.line]

theorem goOnReceiving_eq {s : State} {b : BurstInHand} (hb : s.lmd.inHand = some b) (h : Header)
    (stage : RxStage) (map : PayloadMap) (n : Nat) : goOnReceiving h stage map n s = { s with
      lmd := { s.lmd with inHand := some { b with
        header := some h, stage := stage, map := map, dataBits := n } } } := by
  simp only [goOnReceiving, State.mapLmd, hb, Option.map_some]

/-- What a header that is served, or refused for its map, leaves: the record, the review, the queue of
notices and the burst in service, and the CLC's answer. -/
def headed (t : Time) (i : Nat) (q : Peer) (la : Lae) (ts : Tsc) (bp : Bpm) (b : BurstInHand) (sv : Service)
    (d : State) : State :=
  { d with
    now := t
    lmd := { d.lmd with inHand := some b }
    peers := tableSet d.peers i (some q)
    lae := la
    tsc := ts
    bpm := bp
    rxa := { d.rxa with service := some sv } }

/-- R101: what a header on the queue of notices leaves: nothing, or the current set of the record `p`
queued. -/
structure NoticesRecovered (t : Time) (i : Nat) (p : Peer) (wanted : Prop) (q : Peer) (s : State) (ts : Tsc)
    (bp : Bpm) : Prop where
  stands : ¬wanted → ts = s.tsc ∧ bp = s.bpm ∧ q.lastNotice = p.lastNotice ∧
    q.noticePending = p.noticePending
  queues : wanted → q.lastNotice = some t ∧ q.noticePending = false ∧
    NoticeQueued i (encodeNotice p.announced (currentSlots p)) { s with now := t }
      { s with now := t, tsc := ts, bpm := bp }

/-- A queued notice rests on the queues and the control reserve alone. -/
theorem NoticeQueued.congr {i : Nat} {bytes : List Byte} {s r s' r' : State} (n : NoticeQueued i bytes s r)
    (now : s'.now = s.now) (tsc : s'.tsc = s.tsc) (bpm : s'.bpm = s.bpm)
    (frame : r' = { s' with tsc := r.tsc, bpm := r.bpm }) : NoticeQueued i bytes s' r' := by
  obtain ⟨f, o, w, c, g, k⟩ := n
  have ts : r.tsc = { s.tsc with queues := r.tsc.queues, prospective := r.tsc.prospective } :=
    congrArg State.tsc f
  have bp : r.bpm = { s.bpm with ctlFree := r.bpm.ctlFree, ctlDesc := r.bpm.ctlDesc } :=
    congrArg State.bpm f
  subst frame
  refine ⟨?_, ?_, ?_, ?_, ?_, ?_⟩
  · dsimp only
    rw [tsc, bpm, ← ts, ← bp]
  · rw [tsc]; exact o
  · rw [tsc, bpm]; exact w
  · rw [tsc, bpm, now]; exact c
  · rw [tsc, bpm]; exact g
  · rw [tsc, bpm]; exact k

/-- R99 to R101: the notices that a header addressed here recovers, its record `q` having the announced set of
`p`. -/
theorem recoverNotices_headed {t : Time} {i : Nat} {h : Header} {test : MapTest} {s r : State} {p q : Peer}
    (hq : r.peer i = some q) (busy : NoClaimOpens r) (now : r.now = t) (tsc : r.tsc = s.tsc)
    (bpm : r.bpm = s.bpm) (list : q.announced = p.announced) (slots : currentSlots q = currentSlots p)
    (last : q.lastNotice = p.lastNotice) (pending : q.noticePending = p.noticePending) :
    ∃ n v ts bp, recoverNotices i h test r = { r with
        peers := tableSet r.peers i (some { q.resent t h with lastNotice := n, noticePending := v })
        tsc := ts, bpm := bp } ∧
      NoticesRecovered t i p (WantsNotice t q h test)
        { q.resent t h with lastNotice := n, noticePending := v } s ts bp := by
  subst now
  by_cases wants : WantsNotice r.now q h test
  · have queued := recoverNotices_wanted hq wants busy
    rw [list, slots] at queued
    refine ⟨_, _, (recoverNotices i h test r).tsc, (recoverNotices i h test r).bpm, ?_,
      fun no => absurd wants no, fun _ => ⟨rfl, rfl, queued.congr rfl tsc.symm bpm.symm rfl⟩⟩
    have ts := congrArg State.tsc queued.frame
    have bp := congrArg State.bpm queued.frame
    refine queued.frame.trans ?_
    dsimp only at ts bp ⊢
    rw [← ts, ← bp]
  · refine ⟨q.lastNotice, q.noticePending, r.tsc, r.bpm, recoverNotices_unwanted hq wants,
      fun _ => ⟨tsc, bpm, last, pending⟩, fun yes => absurd yes wants⟩

end Sys2Proof.Machine
end

section
/-! The statements on the headers of known senders (R30, R55, R67 to R69, R84 to R86, R95 to R101, R127). -/

namespace Sys2Proof.Machine

/-- What a declared free instant leaves of the records, the pools and the blocks, and what it leaves of the
modem. -/
theorem DeclaredAt.frame {t free : Time} {s d : State} (h : DeclaredAt t free s d) :
    d.lmd.inHand = s.lmd.inHand ∧ d.lmd.notch = s.lmd.notch ∧ d.clc.medium ≠ .idle ∧
    d.lcu = s.lcu ∧ d.peers = s.peers ∧ d.lae = s.lae ∧ d.tsc = s.tsc ∧ d.bpm = s.bpm ∧
    d.rxa = s.rxa ∧ d.ptu = s.ptu ∧ d.suc = s.suc := by
  obtain ⟨l, c, k, answer, rfl⟩ := h.answer
  exact ⟨answer.hand, answer.notch, answer.busy, rfl, rfl, rfl, rfl, rfl, rfl, rfl, rfl⟩

/-- The record of a served burst: refreshed, its measurement filed, the previous map discarded where the
current one is named, the burst counted, and the times of notices as the recovery leaves them. -/
def Peer.afterServed (p : Peer) (t : Time) (u : Option Time) (st : Store) (fl : Nat) (sel : MapSelector)
    (rs n : Option Time) (v : Bool) : Peer :=
  { (p.heard t u st fl).served sel with robustResend := rs, lastNotice := n, noticePending := v }

/-- The current set of a record stands when a burst is served. -/
theorem currentSlots_served (p : Peer) (t : Time) (u : Option Time) (st : Store) (fl : Nat)
    (sel : MapSelector) : currentSlots ((p.heard t u st fl).served sel) = currentSlots p :=
  currentSlots_congr rfl (discardPrevious_currents sel (p.heard t u st fl))

/-- R30, R127: a known sender's header that is served. -/
theorem exec_served {t : Time} {b : BurstInHand} {x : HeaderHeard} {h : Header} {s d : State} {i : Nat}
    {p : Peer} {map : PayloadMap} (due : HeaderDue t s b) (decoded : headerHeard s.lmd b x = some h)
    (own : OwnLabel s h) (declared : DeclaredAt t (declaredFree b.start h) s d) (distinct : PeersDistinct s)
    (hp : s.peer i = some p) (ha : p.address = h.sender) (known : mapTest p h.selector = .known map)
    (notAll : s.suc.address ≠ some broadcastAddr)
    (addressed : s.suc.address = some h.dest ∨ h.dest = broadcastAddr) :
    ∃ u st fl la rs n v ts bp,
      exec (.headerOutcome t x) s = .next (headed t i (p.afterServed t u st fl h.selector rs n v) la ts bp
        { b with header := some h, stage := .payload, map := map, dataBits := map.bits s.gOn }
        (servedBurst i (addressedHere s h) h.blocks) d) ∧
      (∀ r' : State, r'.lae = la → Refreshed t b h i p (p.heard t u st fl) s r') ∧
      (h.dest ≠ broadcastAddr → robustInMapped t p h = true → rs = some t) ∧
      (h.dest = broadcastAddr ∨ robustInMapped t p h ≠ true → rs = p.robustResend) ∧
      NoticesRecovered t i p (h.dest ≠ broadcastAddr ∧ WantsNotice t p h (.known map))
        (p.afterServed t u st fl h.selector rs n v) s ts bp := by
  obtain ⟨u, st, fl, la, executes, refreshed⟩ := exec_known due decoded own declared distinct hp ha
  obtain ⟨hand, notch, busy, -, peers, -, tsc, bpm, -, -, -⟩ := declared.frame
  have range := tableGet_range hp
  have there (q : Peer) := tableGet_tableSet_same (l := s.peers) (some q) range.1 range.2
  have there' (q q' : Peer) := tableGet_tableSet_same (l := tableSet s.peers i (some q)) (some q') range.1
    (by simpa using range.2)
  have gOn : groupsOn d.lmd.notch = s.gOn := congrArg groupsOn notch
  have toHere : addressedHere s h = true ∨ h.dest = broadcastAddr :=
    addressed.imp (addressedHere_iff s h).mpr id
  rw [if_pos toHere, serveHeader_known (p := p.heard t u st fl) (by exact there _)
    ((mapTest_heard p _ t u st fl).trans known)] at executes
  have hand' : d.lmd.inHand = some b := hand.trans due.hand
  by_cases all : h.dest = broadcastAddr
  · have notHere : addressedHere s h = false :=
      Bool.eq_false_iff.mpr fun e => notAll (((addressedHere_iff s h).mp e).trans (congrArg some all))
    rw [notHere] at executes ⊢
    refine ⟨u, st, fl, la, p.robustResend, p.lastNotice, p.noticePending, d.tsc, d.bpm,
      executes.trans ?_, refreshed, fun e => absurd all e, fun _ => rfl,
      fun _ => ⟨tsc, bpm, rfl, rfl⟩, fun e => absurd all e.1⟩
    rw [goOnReceiving_eq (by exact hand')]
    simp only [tableSet_tableSet, State.gOn, if_neg Bool.false_ne_true]
    rw [gOn, headed, peers]
    rfl
  · have isHere : addressedHere s h = true := toHere.resolve_right all
    rw [isHere] at executes ⊢
    obtain ⟨n, v, ts, bp, recovered, notices⟩ := recoverNotices_headed (t := t) (i := i) (h := h)
      (test := .known map) (s := s) (p := p)
      (r := { d with
        now := t
        peers := tableSet (tableSet s.peers i (some (p.heard t u st fl))) i
          (some ((p.heard t u st fl).served h.selector))
        lae := la
        rxa := { d.rxa with service := some (servedBurst i true h.blocks) } })
      (q := (p.heard t u st fl).served h.selector) (there' _ _) (.inl busy) rfl tsc bpm rfl
      (currentSlots_served p t u st fl h.selector) rfl rfl
    refine ⟨u, st, fl, la, if robustInMapped t p h = true then some t else p.robustResend, n, v, ts, bp,
      executes.trans ?_, refreshed, fun _ r => if_pos r, fun r => if_neg (r.resolve_left all), ?_⟩
    · rw [if_pos rfl, recovered, goOnReceiving_eq (by exact hand')]
      simp only [tableSet_tableSet, State.gOn]
      rw [gOn, headed, peers]
      rfl
    · exact ⟨fun no => notices.stands fun w => no ⟨all, w⟩, fun w => notices.queues w.2⟩

/-- R101: with a map that is known, a notice is wanted for three reasons. -/
theorem wantsNotice_known_iff (t : Time) (p : Peer) (h : Header) (map : PayloadMap) :
    WantsNotice t p h (.known map) ↔ p.noticePending = true ∨
      (h.selector = .robust ∧ ∃ st, h.stamp = some st ∧ p.announced.getD (st / 100) none ≠ none ∧
        ∀ u, p.robustResend = some u → 1000000 ≤ elapsed u t) ∨
      (h.selector ≠ .robust ∧ ∀ u, p.lastNotice = some u → 20000000 ≤ elapsed u t) := by
  rw [← robustInMapped_iff, ← keepAliveDue_iff]
  simp [WantsNotice]

/-- R127: the burst in service, by the destination of the header. -/
theorem servedBurst_eq {s : State} (i : Nat) (h : Header) (notAll : s.suc.address ≠ some broadcastAddr)
    (addressed : s.suc.address = some h.dest ∨ h.dest = broadcastAddr) :
    servedBurst i (addressedHere s h) h.blocks =
      { sender := i, bcast := decide (h.dest = broadcastAddr), blocks := h.blocks
        receipt := if h.dest = broadcastAddr then none
          else some ⟨.received, false, List.replicate h.blocks false⟩ } := by
  by_cases all : h.dest = broadcastAddr
  · have notHere : addressedHere s h = false := decide_eq_false fun e => notAll (e.trans (congrArg some all))
    rw [notHere]
    simp [servedBurst, all]
  · have here : addressedHere s h = true := decide_eq_true (addressed.resolve_right all)
    rw [here]
    simp [servedBurst, all]

/-- Settles O30: the burst of a known sender that is not served, and the one that is. -/
theorem headerServed : Obligations.HeaderServed := by
  intro t b x h s d i p due decoded own declared distinct hp ha
  obtain ⟨hand, notch, busy, lcu, peers, lae, tsc, bpm, rxa, ptu, suc⟩ := declared.frame
  have range := tableGet_range hp
  have there (q : Peer) := tableGet_tableSet_same (l := s.peers) (some q) range.1 range.2
  refine ⟨fun notHere refused => ?_, fun map known notAll addressed => ?_⟩
  · obtain ⟨u, st, fl, la, executes, refreshed⟩ := exec_known due decoded own declared distinct hp ha
    have notHere' : addressedHere s h = false := decide_eq_false notHere
    have ends : exec (.headerOutcome t x) s = .next (endReception { d with
        now := t, peers := tableSet s.peers i (some (p.heard t u st fl)), lae := la }) := by
      rw [executes, notHere']
      split
      next all =>
        have unknown : mapTest p h.selector = .unknown :=
          refused.resolve_left (not_not.mpr (all.resolve_left (by decide)))
        rw [serveHeader_unknown_broadcast (p := p.heard t u st fl) (by exact there _)
          ((mapTest_heard p _ t u st fl).trans unknown)]
      next => rfl
    exact ⟨_, p.heard t u st fl, ends, refreshed _ rfl, rfl, rfl⟩
  · obtain ⟨u, st, fl, la, rs, n, v, ts, bp, executes, refreshed, resent, keeps, notices⟩ :=
      exec_served due decoded own declared distinct hp ha known notAll addressed
    have robust := robustInMapped_iff t p h
    have wants := wantsNotice_known_iff t p h map
    have others (j : Nat) (hj : j ≠ i) : (headed t i (p.afterServed t u st fl h.selector rs n v) la ts bp
        { b with header := some h, stage := .payload, map := map, dataBits := map.bits s.gOn }
        (servedBurst i (addressedHere s h) h.blocks) d).peer j = s.peer j := by
      rw [State.peer, headed, peers]
      exact tableGet_tableSet_other _ _ (Ne.symm hj)
    have stands : ¬(h.dest ≠ broadcastAddr ∧ (p.noticePending = true ∨ _ ∨ _)) → _ := fun no =>
      notices.stands (mt (and_congr_right fun _ => wants).mp no)
    have queues : (h.dest ≠ broadcastAddr ∧ (p.noticePending = true ∨ _ ∨ _)) → _ := fun w =>
      notices.queues ((and_congr_right fun _ => wants).mpr w)
    refine ⟨_, p.afterServed t u st fl h.selector rs n v, executes, rfl, rfl,
      (congrArg Rxa.table rxa : d.rxa.table = s.rxa.table), congrArg some (servedBurst_eq i h notAll addressed), ?_, others, rfl,
      (refreshed _ rfl).congr rfl rfl rfl rfl rfl, rfl, ?_, ?_, ?_, ?_, stands, ?_, rfl, rfl, rfl, rfl,
      rfl, rfl, lcu, ptu, rfl, suc⟩
    · rw [State.peer, headed, peers]
      exact there _
    · intro sel
      rw [sel] at known ⊢
      exact ⟨(MapTest.known.inj known).symm, rfl⟩
    · intro k w sel
      rw [sel] at known ⊢
      refine ⟨fun m current version => ?_, fun other => ?_⟩
      · rw [mapTest_current current version] at known
        exact ⟨(MapTest.known.inj known).symm,
          (discardPrevious_rxMaps_congr rfl _).trans (discardPrevious_current current version)⟩
      · have same : (discardPrevious (.slot k w) (p.heard t u st fl)).rxMaps = p.rxMaps := by
          rw [discardPrevious_rxMaps_congr (p := p) (q := p.heard t u st fl) rfl, discardPrevious_other other]
        exact ⟨same, mapTest_previous other known⟩
    · exact fun notBcast r => resent notBcast (robust.mpr r)
    · exact fun no => keeps (no.imp id (mt robust.mp))
    · intro w
      obtain ⟨sent, pending, queued⟩ := queues w
      refine ⟨sent, pending, congrArg State.tsc queued.frame, queued.others,
        congrArg State.bpm queued.frame, fun length list free desc => ?_⟩
      have bytes : (encodeNotice p.announced (currentSlots p)).length = 140 := by
        rw [encodeNotice_length, list, currentSlots_length]
      exact ⟨queued.waits length bytes free desc, queued.content length bytes free desc,
        queued.grows length bytes free desc, queued.renews length bytes free desc⟩

/-! ### A map that is not known -/

/-- R97, R127: a header addressed here on a map that is not known. -/
theorem serveHeader_unknown {i : Nat} {h : Header} {s : State} {p : Peer} (hp : s.peer i = some p)
    (unknown : mapTest p h.selector = .unknown) :
    serveHeader i h true s = goOnReceiving h .refused .robust 0 (recoverNotices i h .unknown
      { s with rxa := { s.rxa with service := some (refusedBurst i h.blocks) } }) := by
  have same : s.mapPeer i (discardPrevious h.selector) = s :=
    mapPeer_of_fixed hp (discardPrevious_unknown unknown)
  simp only [serveHeader, hp, unknown, same]
  rfl

/-- Settles O31: the receipt is MAP_UNKNOWN, and the notice is always wanted. -/
theorem headerMapUnknown : Obligations.HeaderMapUnknown := by
  intro t b x h s d i p due decoded own declared distinct hp ha unknown here notAll length list free desc
  obtain ⟨u, st, fl, la, executes, refreshed⟩ := exec_known due decoded own declared distinct hp ha
  obtain ⟨hand, -, busy, lcu, peers, -, tsc, bpm, rxa, ptu, suc⟩ := declared.frame
  have range := tableGet_range hp
  have there (l : List (Option Peer)) (len : l.length = s.peers.length) (q : Peer) :=
    tableGet_tableSet_same (l := l) (some q) range.1 (len ▸ range.2)
  have isHere : addressedHere s h = true := (addressedHere_iff s h).mpr here
  have hand' : d.lmd.inHand = some b := hand.trans due.hand
  obtain ⟨n, v, ts, bp, recovered, notices⟩ := recoverNotices_headed (t := t) (i := i) (h := h)
    (test := .unknown) (s := s) (p := p)
    (r := { d with
      now := t
      peers := tableSet s.peers i (some (p.heard t u st fl))
      lae := la
      rxa := { d.rxa with service := some (refusedBurst i h.blocks) } })
    (q := p.heard t u st fl) (there _ rfl _) (.inl busy) rfl tsc bpm rfl rfl rfl rfl
  rw [isHere, if_pos (.inl rfl), serveHeader_unknown (p := p.heard t u st fl) (by exact there _ rfl _)
    ((mapTest_heard p _ t u st fl).trans unknown), recovered, goOnReceiving_eq (by exact hand')] at executes
  obtain ⟨sent, pending, queued⟩ := notices.queues (.inr (.inl rfl))
  have bytes : (encodeNotice p.announced (currentSlots p)).length = 140 := by
    rw [encodeNotice_length, list, currentSlots_length]
  exact ⟨_, { (p.heard t u st fl).resent t h with lastNotice := n, noticePending := v }, executes, rfl, rfl,
    (congrArg Rxa.table rxa : d.rxa.table = s.rxa.table), rfl, there _ (tableSet_length _ _ _) _, rfl, rfl,
    (refreshed _ rfl).congr rfl rfl rfl rfl rfl, sent, pending, queued.waits length bytes free desc,
    queued.content length bytes free desc, lcu, ptu, rfl, suc⟩

end Sys2Proof.Machine
end

section
/-! Filing, loading and grouping (R68, R73 to R79). -/

namespace Sys2Proof.Machine

/-! ### Measurements and loadings -/

/-- In an ordered list, the elements below a bound are the first ones. -/
theorem lt_filter_length_iff {l : List Nat} {p : Nat → Bool} (sorted : l.Pairwise (· ≤ ·))
    (down : ∀ a b, a ≤ b → p b = true → p a = true) {k x : Nat} (h : l[k]? = some x) :
    k < (l.filter p).length ↔ p x = true := by
  induction l generalizing k with
  | nil => cases h
  | cons y l ih =>
    obtain ⟨before, sortedRest⟩ := List.pairwise_cons.mp sorted
    cases hy : p y with
    | true =>
      rw [List.filter_cons_of_pos hy, List.length_cons]
      cases k with
      | zero =>
        obtain rfl : y = x := by simpa using h
        simp [hy]
      | succ k => rw [Nat.succ_lt_succ_iff, ih sortedRest (by simpa using h)]
    | false =>
      have none : ∀ z ∈ y :: l, p z = false := fun z hz => by
        rcases List.mem_cons.mp hz with rfl | hz
        · exact hy
        · exact Bool.eq_false_iff.mpr fun hp => absurd (hy.symm.trans (down _ _ (before z hz) hp)) (by decide)
      rw [List.filter_eq_nil_iff.mpr fun z hz => by simp [none z hz], none x (List.mem_of_getElem? h)]
      simp

/-- R74: a loading reaches `b` exactly when the effective value reaches its threshold and the margin. -/
theorem le_loading_iff {margin e b th : Nat} (hb : 1 ≤ b) (h : thresholds[b - 1]? = some th) :
    b ≤ loading margin e ↔ margin + th ≤ e := by
  have first := lt_filter_length_iff (p := fun t => decide (margin + t ≤ e)) (by decide)
    (fun a b hab hb => decide_eq_true (by have := of_decide_eq_true hb; omega)) h
  rw [decide_eq_true_iff] at first
  rw [← first, loading]
  omega

/-- R68: what a filing makes of a group. -/
theorem fileWindow_group {meas : List Nat} {w : WindowStore} {g : Nat} {x : GroupStat}
    (h : w.groups[g]? = some x) :
    (fileWindow meas w).groups[g]? = some (fileGroup (w.count = 0) x (meas.getD g 0)) := by
  simp [fileWindow, List.getElem?_zipIdx, h]

/-- Settles O32: the filing, then the loading. -/
theorem measurementArithmetic : Obligations.MeasurementArithmetic := by
  refine ⟨fun meas w g a x hg => ?_, fun margin e b th hb hth => ⟨le_loading_iff hb hth, loading_le _ _⟩⟩
  have filed := fileWindow_group (meas := meas) hg
  have first (h : w.count = 0) : (fileWindow meas w).groups[g]? = some ⟨meas.getD g 0, meas.getD g 0⟩ := by
    rw [filed]
    simp [fileGroup, h]
  have later (h : w.count ≠ 0) : (fileWindow meas w).groups[g]? =
      some ⟨(3 * a + meas.getD g 0 + 2) / 4, min (meas.getD g 0) (x + 2)⟩ := by
    rw [filed]
    simp [fileGroup, h]
  refine ⟨rfl, first, later, fun ha hm a' x' h' => ?_⟩
  by_cases h : w.count = 0
  · cases (first h).symm.trans h'
    exact ⟨hm, hm⟩
  · cases (later h).symm.trans h'
    exact ⟨by omega, by omega⟩

/-! ### Grouping -/

/-- R77: the model's test is the rule's. -/
theorem joins_iff (m w : List Nat) : joins m w = true ↔ Joins m w := by
  simp only [joins, Bool.and_eq_true, decide_eq_true_eq]
  exact Iff.rfl

/-- Entries in the order of their numbers are told apart by them. -/
theorem eq_of_number {l : List (Nat × List Nat)} (sorted : l.Pairwise fun a b => a.1 < b.1)
    {x y : Nat × List Nat} (hx : x ∈ l) (hy : y ∈ l) (h : x.1 = y.1) : x = y := by
  have distinct : (l.map Prod.fst).Nodup := by
    rw [List.Nodup, List.pairwise_map]
    exact sorted.imp fun h => Nat.ne_of_lt h
  exact List.inj_on_of_nodup_map distinct hx hy h

theorem forcedSlot_eq_none {w : List Nat} {l : List (Nat × List Nat)} (h : forcedSlot w l = none) :
    l = [] := by
  cases l with
  | nil => rfl
  | cons x rest =>
    unfold forcedSlot at h
    split at h
    · cases h
    · split at h
      · split at h <;> cases h
      · cases h

/-- R78: the forced slot has the largest merged map, the lowest number among equals. -/
theorem forcedSlot_largest {w : List Nat} {l : List (Nat × List Nat)} {k : Nat}
    (sorted : l.Pairwise fun a b => a.1 < b.1) (h : forcedSlot w l = some k) :
    ∃ m, (k, m) ∈ l ∧ ∀ x ∈ l, (mergeMaps x.2 w).sum < (mergeMaps m w).sum ∨
      ((mergeMaps x.2 w).sum = (mergeMaps m w).sum ∧ k ≤ x.1) := by
  induction l generalizing k with
  | nil => cases h
  | cons x rest ih =>
    obtain ⟨before, sortedRest⟩ := List.pairwise_cons.mp sorted
    unfold forcedSlot at h
    split at h
    next none =>
      cases h
      rw [forcedSlot_eq_none none]
      exact ⟨x.2, List.mem_cons_self, fun y hy => .inr (by simp [List.mem_singleton.mp hy])⟩
    next j hj =>
      obtain ⟨m, hm, largest⟩ := ih sortedRest hj
      have found : rest.find? (fun y => decide (y.1 = j)) = some (j, m) := by
        cases hf : rest.find? (fun y => decide (y.1 = j)) with
        | none => exact absurd (List.find?_eq_none.mp hf _ hm) (by simp)
        | some y =>
          have hy : y.1 = j := by simpa using List.find?_some hf
          rw [eq_of_number sortedRest (List.mem_of_find?_eq_some hf) hm hy]
      rw [found] at h
      dsimp only at h
      split at h
      next le =>
        cases h
        have le' : (mergeMaps m w).sum ≤ (mergeMaps x.2 w).sum := by
          simp only [rawBits] at le
          omega
        refine ⟨x.2, List.mem_cons_self, fun y hy => ?_⟩
        rcases List.mem_cons.mp hy with rfl | hy
        · exact .inr ⟨rfl, Nat.le_refl _⟩
        · have later := before y hy
          rcases largest y hy with h | ⟨h, -⟩ <;> omega
      next lt =>
        cases h
        have lt' : (mergeMaps x.2 w).sum < (mergeMaps m w).sum := by
          simp only [rawBits] at lt
          omega
        refine ⟨m, List.mem_cons_of_mem _ hm, fun y hy => ?_⟩
        rcases List.mem_cons.mp hy with rfl | hy
        · exact .inl lt'
        · exact largest y hy

/-- R77, R78: where a window is placed. -/
theorem placeWindow_placed (slots : List (List Nat)) (w : List Nat) : ∃ k,
    (placeWindow slots w).2 = some k ∧ Placed slots w (placeWindow slots w).1 k := by
  unfold placeWindow
  split
  next k hk =>
    obtain ⟨hl, fits, first⟩ := List.findIdx?_eq_some_iff_getElem.mp hk
    refine ⟨k, rfl, ?_⟩
    have at_k : slots[k]? = some slots[k] := List.getElem?_eq_getElem hl
    rw [updAt_of_get at_k]
    refine .joins k _ at_k ((joins_iff _ _).mp fits) fun j hj m' hm' joins => ?_
    obtain ⟨hjl, rfl⟩ := List.getElem?_eq_some_iff.mp hm'
    exact absurd ((joins_iff _ _).mpr joins) (first j hj)
  next none =>
    have alone : ∀ m ∈ slots, ¬Joins m w := fun m hm joins => by
      have := List.findIdx?_eq_none_iff.mp none m hm
      exact absurd ((joins_iff _ _).mpr joins) (by simp [this])
    split
    next room => exact ⟨_, rfl, .opens alone room⟩
    next full =>
      have sorted : (numberedSlots slots).Pairwise fun a b => a.1 < b.1 := by
        rw [numberedSlots, List.pairwise_map]
        exact List.pairwise_iff_getElem.mpr fun i j hi hj less => by simpa using less
      have member (j : Nat) (m : List Nat) : (j, m) ∈ numberedSlots slots ↔ slots[j]? = some m := by
        simp [numberedSlots, List.mem_zipIdx_iff_getElem?]
      split
      next k hk =>
        obtain ⟨m, hm, largest⟩ := forcedSlot_largest sorted hk
        have at_k := (member k m).mp hm
        refine ⟨k, rfl, ?_⟩
        rw [updAt_of_get at_k]
        exact .forced k m alone (Nat.le_of_not_lt full) at_k fun j m' hm' =>
          largest (j, m') ((member j m').mpr hm')
      next none =>
        have empty : slots = [] := by
          have := forcedSlot_eq_none none
          simpa [numberedSlots] using this
        exact absurd (by simp [empty, slotCount]) full

/-- At most four slots are open. -/
theorem Placed.length_le {slots slots' : List (List Nat)} {w : List Nat} {k : Nat}
    (h : Placed slots w slots' k) (four : slots.length ≤ 4) : slots'.length ≤ 4 := by
  cases h with
  | joins m => simpa using four
  | opens _ room => simpa using room
  | forced m => simpa using four

/-- R77, R78: the grouping of the candidates. -/
theorem groupWindows_grouped (slots : List (List Nat)) (cs : List (Option (List Nat))) :
    Grouped slots cs (groupWindows slots cs).1 (groupWindows slots cs).2 := by
  induction cs generalizing slots with
  | nil => exact .done slots
  | cons c cs ih =>
    cases c with
    | none => exact .passed (ih slots)
    | some w =>
      obtain ⟨k, hk, placed⟩ := placeWindow_placed slots w
      simp only [groupWindows, hk]
      exact .taken placed (ih _)

theorem Grouped.length_le {slots slots' : List (List Nat)} {cs : List (Option (List Nat))} {ws : WindowList}
    (h : Grouped slots cs slots' ws) (four : slots.length ≤ 4) : slots'.length ≤ 4 := by
  induction h with
  | done => exact four
  | passed _ ih => exact ih four
  | taken placed _ ih => exact ih (placed.length_le four)

theorem Grouped.windows_length {slots slots' : List (List Nat)} {cs : List (Option (List Nat))}
    {ws : WindowList} (h : Grouped slots cs slots' ws) : ws.length = cs.length := by
  induction h with
  | done => rfl
  | passed _ ih => simp [ih]
  | taken _ _ ih => simp [ih]

/-- A map loads no group higher than another. -/
def LoadsBelow (a b : List Nat) : Prop := ∀ g : Nat, a.getD g 0 ≤ b.getD g 0

theorem loadsBelow_merge (m w : List Nat) :
    LoadsBelow (m.zipWith min w) m ∧ LoadsBelow (m.zipWith min w) w := by
  constructor <;> intro g <;>
    · simp only [List.getD_eq_getElem?_getD, List.getElem?_zipWith]
      cases m[g]? <;> cases w[g]? <;> simp

/-- A placed window lowers the maps of the slots, and is loaded by its own slot no higher than its
candidate. -/
theorem Placed.loadsBelow {slots slots' : List (List Nat)} {w : List Nat} {k : Nat}
    (h : Placed slots w slots' k) :
    (∀ (j : Nat) (m : List Nat), slots[j]? = some m → ∃ m', slots'[j]? = some m' ∧ LoadsBelow m' m) ∧
    ∃ m', slots'[k]? = some m' ∧ LoadsBelow m' w := by
  have merged (k : Nat) (m : List Nat) (at_k : slots[k]? = some m) :
      (∀ (j : Nat) (a : List Nat), slots[j]? = some a →
        ∃ m', (slots.set k (m.zipWith min w))[j]? = some m' ∧ LoadsBelow m' a) ∧
      ∃ m', (slots.set k (m.zipWith min w))[k]? = some m' ∧ LoadsBelow m' w := by
    obtain ⟨hl, -⟩ := List.getElem?_eq_some_iff.mp at_k
    have set_k : (slots.set k (m.zipWith min w))[k]? = some (m.zipWith min w) := by simp [hl]
    refine ⟨fun j a ha => ?_, _, set_k, (loadsBelow_merge m w).2⟩
    by_cases e : k = j
    · subst e
      cases at_k.symm.trans ha
      exact ⟨_, set_k, (loadsBelow_merge m w).1⟩
    · exact ⟨a, by simp [e, ha], fun _ => Nat.le_refl _⟩
  cases h with
  | joins k m at_k => exact merged k m at_k
  | opens _ _ =>
    refine ⟨fun j m hm => ⟨m, ?_, fun _ => Nat.le_refl _⟩, w, by simp, fun _ => Nat.le_refl _⟩
    obtain ⟨hl, -⟩ := List.getElem?_eq_some_iff.mp hm
    rw [List.getElem?_append_left hl, hm]
  | forced k m _ _ at_k => exact merged k m at_k

/-- Each grouped window is loaded by its slot no higher than its own candidate. -/
theorem Grouped.loadsBelow {slots slots' : List (List Nat)} {cs : List (Option (List Nat))} {ws : WindowList}
    (h : Grouped slots cs slots' ws) :
    (∀ (j : Nat) (m : List Nat), slots[j]? = some m → ∃ m', slots'[j]? = some m' ∧ LoadsBelow m' m) ∧
    ∀ w k : Nat, ws[w]? = some (some k) → ∃ c m', cs[w]? = some (some c) ∧ slots'[k]? = some m' ∧
      LoadsBelow m' c := by
  induction h with
  | done slots =>
    exact ⟨fun j m hm => ⟨m, hm, fun _ => Nat.le_refl _⟩, fun w k h => by simp at h⟩
  | passed _ ih =>
    refine ⟨ih.1, fun w k h => ?_⟩
    cases w with
    | zero => simp at h
    | succ w => simpa using ih.2 w k (by simpa using h)
  | taken placed _ ih =>
    refine ⟨fun j m hm => ?_, fun w k h => ?_⟩
    · obtain ⟨m', hm', low⟩ := placed.loadsBelow.1 j m hm
      obtain ⟨m'', hm'', low'⟩ := ih.1 j m' hm'
      exact ⟨m'', hm'', fun g => (low' g).trans (low g)⟩
    · cases w with
      | zero =>
        cases Option.some.inj h
        obtain ⟨m', hm', low⟩ := placed.loadsBelow.2
        obtain ⟨m'', hm'', low'⟩ := ih.1 _ m' hm'
        exact ⟨_, m'', rfl, hm'', fun g => (low' g).trans (low g)⟩
      | succ w => simpa using ih.2 w k (by simpa using h)

end Sys2Proof.Machine
end

section
/-! The new set of a review, its announcement and its notice (R71 to R85). -/

namespace Sys2Proof.Machine

/-! ### The new set -/

theorem beatsRobust_iff (gOn : Nat) (m : List Nat) :
    beatsRobust gOn m = true ↔ 2 * gOn < 3 * (16 * m.sum) / 4 := decide_eq_true_iff

theorem windowLoads_getElem? (notch : List Bool) (margin : Nat) (w : WindowStore) {g : Nat} (hg : g < 60) :
    (windowLoads notch margin w)[g]? = some (if notch.getD g false = true then 0 else
      loading margin (effectiveValue (w.groups.getD g ⟨0, 0⟩))) := by
  simp [windowLoads, groupCount, hg]

/-- The loadings of a window are the only ones that R73 and R74 give its groups. -/
theorem windowLoads_unique {notch : List Bool} {margin : Nat} {w : WindowStore} {loads : List Nat}
    (length : loads.length = 60) (h : ∀ g, g < 60 → loads[g]? = some (if notch.getD g false = true then 0 else
      loading margin (effectiveValue (w.groups.getD g ⟨0, 0⟩)))) : loads = windowLoads notch margin w := by
  refine List.ext_getElem? fun g => ?_
  by_cases hg : g < 60
  · rw [h g hg, windowLoads_getElem? notch margin w hg]
  · rw [List.getElem?_eq_none (by omega), List.getElem?_eq_none (by simp [windowLoads, groupCount]; omega)]

theorem candidate_eq_none {notch : List Bool} {margin : Nat} {w : WindowStore} :
    candidate notch margin w = none ↔ w.count < 4 ∨
      ¬beatsRobust (groupsOn notch) (windowLoads notch margin w) = true := by
  simp only [candidate]
  split
  next h => simp [h.1, h.2]
  next h =>
    simp only [true_iff]
    by_cases h4 : 4 ≤ w.count
    · exact .inr fun b => h ⟨h4, b⟩
    · exact .inl (Nat.lt_of_not_le h4)

theorem settleSet_slots (gOn : Nat) (slots : List (List Nat)) (ws : WindowList) {k : Nat} (hk : k < 4) :
    (settleSet gOn slots ws).slots[k]? = some (slots[k]?.bind fun m => if beatsRobust gOn m then some m else none) := by
  simp only [settleSet, List.getElem?_map, slotCount, List.getElem?_range hk, Option.map_some]
  cases slots[k]? <;> rfl

theorem settleSet_windows (gOn : Nat) (slots : List (List Nat)) (ws : WindowList) (w : Nat) :
    (settleSet gOn slots ws).windows[w]? = ws[w]?.map fun x => x.bind fun k =>
      if ((settleSet gOn slots ws).slots.getD k none).isSome then some k else none := by
  simp only [settleSet, List.getElem?_map]
  congr 1
  funext x
  cases x <;> rfl

/-- A slot map of the review's set, before the slots are settled, is loaded within 0..10, and not on notched
groups. -/
theorem groupWindows_loads (notch : List Bool) (margin : Nat) (store : Store) :
    ∀ m ∈ (groupWindows [] (store.map (candidate notch margin))).1,
      LoadsInRange m ∧ ∀ g : Nat, notch.getD g false = true → m.getD g 0 = 0 := by
  refine groupWindows_forall (P := fun m => LoadsInRange m ∧ ∀ g : Nat, notch.getD g false = true → m.getD g 0 = 0)
    (fun a b ha hb => ⟨mergeMaps_inRange a b ha.1 hb.1, fun g hg => ?_⟩) (by simp) fun w hw => ?_
  · have low := (loadsBelow_merge a b).1 g
    rw [ha.2 g hg] at low
    exact Nat.le_zero.mp low
  · obtain ⟨x, -, hx⟩ := List.mem_map.mp hw
    rw [(candidate_eq_some.mp hx).1]
    refine ⟨windowLoads_inRange _ _ _, fun g hg => ?_⟩
    by_cases h60 : g < 60
    · rw [List.getD_eq_getElem?_getD, windowLoads_getElem? notch margin x h60, if_pos hg]
      rfl
    · rw [List.getD_eq_getElem?_getD, List.getElem?_eq_none (by simp [windowLoads, groupCount]; omega)]
      rfl

/-- Settles O33: the candidates, their grouping, and what is settled of the slots. -/
theorem newSetCarriesMore : Obligations.NewSetCarriesMore := by
  intro notch margin store n beats
  have grouped := groupWindows_grouped [] (store.map (candidate notch margin))
  have four := grouped.length_le (by decide)
  have length := grouped.windows_length
  have slotOf {k : Nat} (hk : k < 4) := settleSet_slots (groupsOn notch)
    (groupWindows [] (store.map (candidate notch margin))).1
    (groupWindows [] (store.map (candidate notch margin))).2 hk
  have lengthS : n.slots.length = 4 := by simp [n, reviewSet, settleSet, slotCount]
  have windowOf (w : Nat) := settleSet_windows (groupsOn notch)
    (groupWindows [] (store.map (candidate notch margin))).1
    (groupWindows [] (store.map (candidate notch margin))).2 w
  refine ⟨fun w loads hl h => ?_, ⟨_, _, grouped, four, fun k m hm => ?_, fun k out hk => ?_,
    fun w hw => ?_, fun w k m hw hm => ?_⟩, ?_, lengthS, fun m hm => ?_, fun w k hw => ?_⟩
  · have eq : loads = windowLoads notch margin w := windowLoads_unique hl h
    subst eq
    rw [candidate_eq_some, candidate_eq_none, beatsRobust_iff]
    exact ⟨by simp [beats], Iff.rfl⟩
  · have hk : k < 4 := Nat.lt_of_lt_of_le (List.getElem?_eq_some_iff.mp hm).1 four
    refine ⟨fun b => (slotOf hk).trans ?_, fun b => (slotOf hk).trans ?_⟩
    · rw [hm]
      exact congrArg some (if_pos ((beatsRobust_iff _ m).mpr b))
    · rw [hm]
      exact congrArg some (if_neg (mt (beatsRobust_iff _ m).mp b))
  · refine (slotOf hk).trans ?_
    rw [List.getElem?_eq_none out]
    rfl
  · refine (windowOf w).trans ?_
    rw [hw]
    rfl
  · have hk : k < 4 := Nat.lt_of_lt_of_le (List.getElem?_eq_some_iff.mp hm).1 four
    have slot := slotOf hk
    rw [hm] at slot
    refine ⟨fun b => (windowOf w).trans ?_, fun b => (windowOf w).trans ?_⟩
    · rw [hw, Option.map_some, Option.bind_some, List.getD_eq_getElem?_getD, slot]
      simp [(beatsRobust_iff _ m).mpr b]
    · rw [hw, Option.map_some, Option.bind_some, List.getD_eq_getElem?_getD, slot]
      simp [Bool.eq_false_iff.mpr (mt (beatsRobust_iff _ m).mp b)]
  · simpa [n, reviewSet, settleSet] using length
  · obtain ⟨k, hk⟩ := List.mem_iff_getElem?.mp hm
    have hk4 : k < 4 := lengthS ▸ (List.getElem?_eq_some_iff.mp hk).1
    obtain ⟨-, slot, b⟩ := settleSet_slot.mp
      (show n.slots.getD k none = some m by rw [List.getD_eq_getElem?_getD, hk]; rfl)
    obtain ⟨inRange, notched⟩ := groupWindows_loads notch margin store m (List.mem_of_getElem? slot)
    exact ⟨inRange.1, inRange.2, notched, (beatsRobust_iff _ m).mp b⟩
  · obtain ⟨m, hm⟩ := settleSet_window (List.mem_of_getElem? hw)
    obtain ⟨hk, slot, b⟩ := settleSet_slot.mp hm
    have named : (groupWindows [] (store.map (candidate notch margin))).2[w]? = some (some k) := by
      replace hw := (windowOf w).symm.trans hw
      rw [Option.map_eq_some_iff] at hw
      obtain ⟨x, hx, hb⟩ := hw
      obtain ⟨k', rfl, hk'⟩ := Option.bind_eq_some_iff.mp hb
      split at hk'
      · rwa [← Option.some.inj hk']
      · cases hk'
    obtain ⟨c, m', hc, hm', low⟩ := grouped.loadsBelow.2 w k named
    rw [List.getElem?_map, Option.map_eq_some_iff] at hc
    obtain ⟨ws, hws, hcand⟩ := hc
    cases slot.symm.trans hm'
    refine ⟨m, ws, c, ?_, hws, (candidate_eq_some.mp hcand).2.1, hcand, low⟩
    exact (slotOf hk).trans (by rw [slot, Option.bind_some, if_pos b])

end Sys2Proof.Machine
end

section
/-! What a claim decision, and the report of the prospective claim level, leave of the frames and of the
records: frames are tagged and tag counters move, and nothing else of them changes (R112 to R114). -/

namespace Sys2Proof.Machine

/-! ### Frames that a train takes -/

/-- The frame as a train takes it (R112). -/
def Frame.inTrain (tag : Nat) (f : Frame) : Frame :=
  { f with tag := some tag, blocks := f.blocks.map fun _ => freshBlock, attempts := 0 }

/-- The frame stands as it was, or a train has taken it (R112). -/
def FrameStands (f g : Frame) : Prop := g = f ∨ ∃ tag, g = f.inTrain tag

theorem mem_tagFrames_of_mem {l : List Frame} {f : Frame} (h : f ∈ l) (tag : Nat) :
    ∃ tag', f.inTrain tag' ∈ tagFrames tag l := by
  induction l generalizing tag with
  | nil => cases h
  | cons g l ih =>
    rcases List.mem_cons.mp h with rfl | h
    · exact ⟨tag, List.mem_cons_self⟩
    · obtain ⟨tag', h'⟩ := ih h ((tag + 1) % 256)
      exact ⟨tag', List.mem_cons_of_mem _ h'⟩

/-- Each frame held is held after `r` as it was, or as a train has taken it; and the frames held are the
same but for that. -/
structure FramesStand (s r : Tsc) : Prop where
  each : ∀ f ∈ framesHeld s, ∃ g ∈ framesHeld r, FrameStands f g
  all : ∀ g ∈ framesHeld r, ∃ f ∈ framesHeld s, FrameStands f g
  length : (framesHeld r).length = (framesHeld s).length

theorem FrameStands.trans {f g h : Frame} (a : FrameStands f g) (b : FrameStands g h) : FrameStands f h := by
  rcases a with rfl | ⟨tag, rfl⟩
  · exact b
  · rcases b with rfl | ⟨tag', rfl⟩
    · exact .inr ⟨tag, rfl⟩
    · exact .inr ⟨tag', by simp [Frame.inTrain]⟩

theorem FramesStand.of_eq {s r : Tsc} (h : framesHeld r = framesHeld s) : FramesStand s r :=
  ⟨fun f hf => ⟨f, h ▸ hf, .inl rfl⟩, fun g hg => ⟨g, h ▸ hg, .inl rfl⟩, by rw [h]⟩

theorem FramesStand.trans {s r q : Tsc} (a : FramesStand s r) (b : FramesStand r q) : FramesStand s q where
  each f hf := by
    obtain ⟨g, hg, sg⟩ := a.each f hf
    obtain ⟨k, hk, sk⟩ := b.each g hg
    exact ⟨k, hk, sg.trans sk⟩
  all k hk := by
    obtain ⟨g, hg, sg⟩ := b.all k hk
    obtain ⟨f, hf, sf⟩ := a.all g hg
    exact ⟨f, hf, sf.trans sg⟩
  length := b.length.trans a.length

theorem of_mem_tagFrames {l : List Frame} {g : Frame} {tag : Nat} (h : g ∈ tagFrames tag l) :
    ∃ f ∈ l, ∃ tag', g = f.inTrain tag' := by
  induction l generalizing tag with
  | nil => cases h
  | cons f l ih =>
    rcases List.mem_cons.mp h with rfl | h
    · exact ⟨f, List.mem_cons_self, tag, rfl⟩
    · obtain ⟨x, hx, tag', e⟩ := ih h
      exact ⟨x, List.mem_cons_of_mem _ hx, tag', e⟩

/-- Some of the frames held are tagged, and the others stay. -/
theorem FramesStand.of_perm {s r : Tsc} {a c : List Frame} (tag : Nat) (before : (framesHeld s).Perm (a ++ c))
    (after : (framesHeld r).Perm (tagFrames tag a ++ c)) : FramesStand s r where
  each f hf := by
    rcases List.mem_append.mp (before.mem_iff.mp hf) with h | h
    · obtain ⟨tag', h'⟩ := mem_tagFrames_of_mem h tag
      exact ⟨_, after.mem_iff.mpr (List.mem_append_left _ h'), .inr ⟨tag', rfl⟩⟩
    · exact ⟨f, after.mem_iff.mpr (List.mem_append_right _ h), .inl rfl⟩
  all g hg := by
    rcases List.mem_append.mp (after.mem_iff.mp hg) with h | h
    · obtain ⟨f, hf, tag', e⟩ := of_mem_tagFrames h
      exact ⟨f, before.mem_iff.mpr (List.mem_append_left _ hf), .inr ⟨tag', e⟩⟩
    · exact ⟨g, before.mem_iff.mpr (List.mem_append_right _ h), .inl rfl⟩
  length := by
    rw [after.length_eq, before.length_eq, List.length_append, List.length_append, tagFrames_length]

theorem advanceTags_framesHeld (d : Dest) (l n : Nat) (s : State) :
    framesHeld (advanceTags d l n s).tsc = framesHeld s.tsc := by
  obtain ⟨q, a, k⟩ := advanceTags_frames d l n s
  rw [framesHeld, q, a, k]
  rfl

theorem perm_swap_head {α : Type} {a b c d : List α} (h : (a ++ b ++ c).Perm (b ++ d)) :
    d.Perm (a ++ c) := by
  rw [List.append_assoc] at h
  exact ((List.perm_append_left_iff b).mp ((List.perm_append_comm_assoc b a c).trans h)).symm

theorem formTrain_framesStand (l : Nat) (s : State) : FramesStand s.tsc (formTrain l s).tsc := by
  rcases formTrain_cases l s with ⟨-, e⟩ | ⟨f, q, h, e⟩
  · rw [e]
    exact .of_eq rfl
  · have split := takeTrain_append f.dest trainFrames (f :: q)
    rw [e]
    generalize takeTrain f.dest trainFrames (f :: q) = r at split ⊢
    have perm := flatten_updAt_perm (queueAt_eq_cons h) fun _ => r.2
    rw [← split] at perm
    have queues := perm_swap_head perm
    refine .of_perm (tagCounter s f.dest l) (a := r.1)
      (c := (updAt s.tsc.queues l fun _ => r.2).flatten ++ (trains s.tsc).flatMap (·.frames)) ?_ ?_
    · rw [framesHeld_eq, ← List.append_assoc]
      exact queues.append_right _
    · rw [advanceTags_framesHeld, State.mapTsc_tsc, framesHeld_eq, formed_trains, List.flatMap_cons]
      exact List.perm_append_comm_assoc _ _ _

/-! ### Records whose tag counters move -/

/-- Each record stands but for its tag counters, and there is none besides. -/
def RecordsStand (s r : State) : Prop :=
  ∀ j, ∃ k : Peer → List Nat, r.peer j = (s.peer j).map fun p => { p with nextTag := k p }

theorem RecordsStand.of_peers {s r : State} (h : r.peers = s.peers) : RecordsStand s r :=
  fun j => ⟨fun p => p.nextTag, by rw [State.peer, State.peer, h, Option.map_id']⟩

theorem RecordsStand.trans {s r q : State} (a : RecordsStand s r) (b : RecordsStand r q) :
    RecordsStand s q := fun j => by
  obtain ⟨k, hk⟩ := a j
  obtain ⟨k', hk'⟩ := b j
  exact ⟨fun p => k' { p with nextTag := k p }, by rw [hk', hk, Option.map_map]; rfl⟩

theorem RecordsStand.none {s r : State} (h : RecordsStand s r) {j : Nat} (hj : s.peer j = none) :
    r.peer j = none := by
  obtain ⟨k, hk⟩ := h j
  rw [hk, hj]
  rfl

theorem RecordsStand.some {s r : State} (h : RecordsStand s r) {j : Nat} {p : Peer}
    (hj : s.peer j = some p) : ∃ q, r.peer j = some q ∧ q = { p with nextTag := q.nextTag } := by
  obtain ⟨k, hk⟩ := h j
  exact ⟨_, by rw [hk, hj, Option.map_some], rfl⟩

theorem advanceTags_recordsStand (d : Dest) (l n : Nat) (s : State) :
    RecordsStand s (advanceTags d l n s) := by
  cases d with
  | broadcast => exact .of_peers rfl
  | peer i =>
    intro j
    by_cases e : i = j
    · subst e
      exact ⟨fun p => updAt p.nextTag l fun k => (k + n) % 256, State.mapPeer_peer_same i _ s⟩
    · exact ⟨fun p => p.nextTag, by rw [Option.map_id']; exact State.mapPeer_peer_other _ s e⟩

theorem formTrain_recordsStand (l : Nat) (s : State) : RecordsStand s (formTrain l s) := by
  rcases formTrain_cases l s with ⟨-, e⟩ | ⟨f, q, -, e⟩
  · exact .of_peers (by rw [e])
  · rw [e]
    exact .trans (.of_peers rfl) (advanceTags_recordsStand _ _ _ _)

/-! ### Claim decisions and reports -/

/-- Frames and records stand, but for the tags of a train that is formed. -/
structure Stands (s r : State) : Prop where
  frames : FramesStand s.tsc r.tsc
  records : RecordsStand s r

theorem Stands.trans {s r q : State} (a : Stands s r) (b : Stands r q) : Stands s q :=
  ⟨a.frames.trans b.frames, a.records.trans b.records⟩

theorem claimDecision_stand (s : State) : Stands s (claimDecision s).1 := by
  unfold claimDecision
  dsimp only
  split
  next l _ => exact ⟨(formTrain_framesStand l s).trans (.of_eq rfl),
    (formTrain_recordsStand l s).trans (.of_peers rfl)⟩
  · exact ⟨.of_eq rfl, .of_peers rfl⟩

theorem startMark_stand (t : Time) (l : Nat) (s : State) : Stands s (startMark t l s) :=
  ⟨.of_eq (by simp), .of_peers (by simp)⟩

theorem openClaim_stand (t : Time) (s : State) : Stands s (openClaim t s) := by
  rcases openClaim_cases t s with ⟨-, e⟩ | ⟨l, -, e⟩
  · rw [e]; exact claimDecision_stand s
  · rw [e]; exact (claimDecision_stand s).trans (startMark_stand t l _)

theorem recompute_stand (s : State) : Stands s (recompute s) := by
  rcases recompute_cases s with ⟨-, e⟩ | ⟨-, e | ⟨-, -, -, e⟩⟩
  · rw [e]; exact ⟨.of_eq rfl, .of_peers rfl⟩
  · rw [e]; exact ⟨.of_eq rfl, .of_peers rfl⟩
  · rw [e]
    exact .trans (r := s.mapTsc _) ⟨.of_eq rfl, .of_peers rfl⟩ (openClaim_stand _ _)

end Sys2Proof.Machine
end

section
/-! Headers: what is read from a bit stream stands at its places there, a header is read back from its bits
and from its symbols, and what is not decoded (R24, R27, R29, R170). -/

namespace Sys2Proof.Machine

/-! ### Numbers read from bits -/

theorem bitsAt_lt (bs : List Bool) (i k : Nat) : bitsAt bs i k < 2 ^ k :=
  (bitsNat_lt _).trans_le (Nat.pow_le_pow_right (by omega) (List.length_take_le _ _))

/-- What stands within the first `n` bits is read from them alone. -/
theorem bitsAt_take (bs : List Bool) {n i k : Nat} (h : i + k ≤ n) :
    bitsAt (bs.take n) i k = bitsAt bs i k := by
  rw [bitsAt, bitsAt, List.drop_take, List.take_take, Nat.min_eq_left (by omega)]

theorem getD_take (bs : List Bool) {n i : Nat} (h : i < n) :
    (bs.take n).getD i false = bs.getD i false := by
  rw [List.getD_eq_getElem?_getD, List.getD_eq_getElem?_getD, List.getElem?_take_of_lt h]

/-- A bit that is there is what `getD` gives. -/
theorem getElem?_eq_getD {bs : List Bool} {i : Nat} (h : i < bs.length) :
    bs[i]? = some (bs.getD i false) := by
  rw [List.getD_eq_getElem _ _ h, List.getElem?_eq_getElem h]

/-! ### A header read, and its places -/

theorem readHeader_take (bs : List Bool) {n : Nat} (h : 142 ≤ n) :
    readHeader (bs.take n) = readHeader bs := by
  simp (disch := omega) only [readHeader, bitsAt_take, getD_take]

/-- What is read of a header stands at its places, when the check does. -/
theorem headerBits_readHeader {bs : List Bool} (hl : 158 ≤ bs.length)
    (check : bitsAt bs 142 16 = (crc16 (bs.take 142)).toNat) : HeaderBits bs (readHeader bs) where
  label := (Nat.mod_eq_of_lt (bitsAt_lt bs 0 16)).symm
  sender := (Nat.mod_eq_of_lt (bitsAt_lt bs 16 48)).symm
  dest := (Nat.mod_eq_of_lt (bitsAt_lt bs 64 48)).symm
  stamped p hp := by
    rw [getElem?_eq_getD (by omega)]
    by_cases hb : bs.getD 112 false = true
    · rw [readHeader, if_pos hb] at hp
      exact ⟨by rw [hb], Option.some.inj hp⟩
    · rw [readHeader, if_neg hb] at hp
      exact nomatch hp
  unstamped hp := by
    rw [getElem?_eq_getD (by omega)]
    by_cases hb : bs.getD 112 false = true
    · rw [readHeader, if_pos hb] at hp
      exact nomatch hp
    · rw [Bool.eq_false_iff.2 hb]
  robust hs := by
    rw [getElem?_eq_getD (by omega)]
    by_cases hb : bs.getD 124 false = true
    · rw [hb]
    · rw [readHeader, if_neg hb] at hs
      exact nomatch hs
  slot k v hs := by
    rw [getElem?_eq_getD (by omega)]
    by_cases hb : bs.getD 124 false = true
    · rw [readHeader, if_pos hb] at hs
      exact nomatch hs
    · rw [readHeader, if_neg hb] at hs
      obtain ⟨hk, hv⟩ := MapSelector.slot.inj hs
      exact ⟨by rw [Bool.eq_false_iff.2 hb], hk, hv⟩
  symbols := rfl
  blocks := rfl
  check := check

/-- Bits that have the fields of a header at their places are read as that header. -/
theorem HeaderBits.read {bs : List Bool} {h : Header} (hb : HeaderBits bs h) : readHeader bs = h := by
  obtain ⟨label, sender, dest, stamp, selector, symbols, blocks⟩ := h
  have hlabel : bitsAt bs 0 16 = _ := hb.label
  have hsender : bitsAt bs 16 48 = _ := hb.sender
  have hdest : bitsAt bs 64 48 = _ := hb.dest
  have hsymbols : bitsAt bs 131 5 = symbols := hb.symbols
  have hblocks : bitsAt bs 136 6 = blocks := hb.blocks
  have hstamp : (if bs.getD 112 false then some (bitsAt bs 113 11) else none) = stamp := by
    cases stamp with
    | none => rw [List.getD_eq_getElem?_getD, hb.unstamped rfl]; rfl
    | some p =>
      obtain ⟨bit, value⟩ := hb.stamped p rfl
      rw [List.getD_eq_getElem?_getD, bit]
      exact congrArg some value
  have hselector : (if bs.getD 124 false then MapSelector.robust
      else .slot (bitsAt bs 125 2) (bitsAt bs 127 4)) = selector := by
    cases selector with
    | robust => rw [List.getD_eq_getElem?_getD, hb.robust rfl]; rfl
    | slot k v =>
      obtain ⟨bit, hk, hv⟩ := hb.slot k v rfl
      rw [List.getD_eq_getElem?_getD, bit]
      exact congrArg₂ MapSelector.slot hk hv
  simp only [readHeader, hlabel, hsender, hdest, hsymbols, hblocks, hstamp, hselector,
    BitVec.ofNat_toNat, BitVec.setWidth_eq]

theorem headerWellFormed_iff (h : Header) : headerWellFormed h = true ↔
    1 ≤ h.symbols ∧ h.symbols ≤ 28 ∧ 1 ≤ h.blocks ∧ h.blocks ≤ 48 ∧ (∀ p, h.stamp = some p → p ≤ 1199) ∧
      h.dest ≠ h.sender := by
  obtain ⟨_, _, _, stamp, _, _, _⟩ := h
  cases stamp <;>
    simp only [headerWellFormed, and_assoc, Bool.and_eq_true, decide_eq_true_iff, bne_iff_ne] <;>
    simp [maxSymbols, maxBlocks]

/-! ### Decoding -/

theorem decodeHeader_eq_some {gOn : Nat} {bits : List Bool} {h : Header} :
    decodeHeader gOn bits = some h ↔ 40 ≤ gOn ∧ 158 ≤ bits.length ∧
      bitsAt bits 142 16 = (crc16 (bits.take 142)).toNat ∧ headerWellFormed h = true ∧
      readHeader bits = h := by
  have hlen : (158 ≤ (bits.take (4 * gOn)).length) ↔ 40 ≤ gOn ∧ 158 ≤ bits.length := by
    rw [List.length_take]; omega
  simp only [decodeHeader, headerBits, headerCovered, hlen]
  constructor
  · intro hd
    split at hd
    case isFalse => exact nomatch hd
    case isTrue hc =>
      obtain ⟨⟨hg, hb⟩, check, wf⟩ := hc
      rw [bitsAt_take bits (by omega : 142 + 16 ≤ 4 * gOn), List.take_take,
        Nat.min_eq_left (by omega)] at check
      have hr := Option.some.inj hd
      exact ⟨hg, hb, check, hr ▸ wf, readHeader_take bits (by omega : 142 ≤ 4 * gOn) ▸ hr⟩
  · rintro ⟨hg, hb, check, wf, rfl⟩
    rw [readHeader_take bits (by omega), bitsAt_take bits (by omega), List.take_take,
      Nat.min_eq_left (by omega)]
    exact if_pos ⟨⟨hg, hb⟩, check, wf⟩

theorem readHeader_slot {bs : List Bool} {k v : Nat} (h : (readHeader bs).selector = .slot k v) :
    k ≤ 3 ∧ v ≤ 15 := by
  have hk := bitsAt_lt bs 125 2
  have hv := bitsAt_lt bs 127 4
  by_cases hb : bs.getD 124 false = true
  · rw [readHeader, if_pos hb] at h
    exact nomatch h
  · rw [readHeader, if_neg hb] at h
    obtain ⟨rfl, rfl⟩ := MapSelector.slot.inj h
    omega

/-- Settles O26: the tests that a decoded header has passed, and its fields read back at their places. -/
theorem decodedHeadersInRange : Obligations.DecodedHeadersInRange := by
  intro gOn bits h hd
  obtain ⟨hg, hb, check, wf, rfl⟩ := decodeHeader_eq_some.1 hd
  obtain ⟨hs, hs', hn, hn', hst, hne⟩ := (headerWellFormed_iff _).1 wf
  exact ⟨hs, hs', hn, hn', hne, hst, fun _ _ => readHeader_slot, hg, hb,
    headerBits_readHeader hb check, check⟩

/-! ### The bits that a header is sent as -/

/-- The twelve bits of a header's stamp. -/
def stampBits : Option Nat → List Bool
  | some p => true :: natBits 11 p
  | none => false :: natBits 11 0

/-- The seven bits of a header's map selector. -/
def selectorBits : MapSelector → List Bool
  | .robust => true :: natBits 6 0
  | .slot s v => false :: (natBits 2 s ++ natBits 4 v)

theorem stampBits_length (p : Option Nat) : (stampBits p).length = 12 := by
  cases p <;> simp [stampBits, natBits_length]

theorem selectorBits_length (x : MapSelector) : (selectorBits x).length = 7 := by
  cases x <;> simp [selectorBits, natBits_length]

theorem headerFields_eq (h : Header) : headerFields h =
    natBits 16 h.label.toNat ++ (natBits 48 h.sender.toNat ++ (natBits 48 h.dest.toNat ++
      (stampBits h.stamp ++ (selectorBits h.selector ++ (natBits 5 h.symbols ++
        natBits 6 h.blocks))))) := by
  obtain ⟨_, _, _, stamp, selector, _, _⟩ := h
  cases stamp <;> cases selector <;>
    simp only [headerFields, stampBits, selectorBits, List.append_assoc]

theorem headerFields_length (h : Header) : (headerFields h).length = 142 := by
  simp only [headerFields_eq, List.length_append, natBits_length, stampBits_length, selectorBits_length]

theorem encodeHeader_length (h : Header) : (encodeHeader h).length = 158 := by
  rw [encodeHeader, List.length_append, headerFields_length, natBits_length]

/-- What stands after the first bits is read there. -/
theorem bitsAt_append {a l : List Bool} {i k : Nat} (h : a.length ≤ i) :
    bitsAt (a ++ l) i k = bitsAt l (i - a.length) k := by
  rw [bitsAt, bitsAt, List.drop_append, List.drop_of_length_le h, List.nil_append]

/-- A number in `w` bits is read back where they stand. -/
theorem bitsAt_natBits {w n : Nat} (h : n < 2 ^ w) (l : List Bool) : bitsAt (natBits w n ++ l) 0 w = n := by
  rw [bitsAt, List.drop_zero, List.take_left' (natBits_length w n), bitsNat_natBits h]

/-- A header whose fields have values that their places hold: the ranges of R29, and those of a map
selector. -/
structure HeaderFits (h : Header) : Prop where
  stamp : ∀ p, h.stamp = some p → p < 2 ^ 11
  slot : ∀ k v, h.selector = .slot k v → k < 2 ^ 2 ∧ v < 2 ^ 4
  symbols : h.symbols < 2 ^ 5
  blocks : h.blocks < 2 ^ 6

theorem HeaderFits.of_wellFormed {h : Header} (wf : headerWellFormed h = true)
    (slot : ∀ k v, h.selector = .slot k v → k ≤ 3 ∧ v ≤ 15) : HeaderFits h := by
  obtain ⟨_, hs, _, hn, hst, _⟩ := (headerWellFormed_iff h).1 wf
  exact ⟨fun p hp => by have := hst p hp; omega, fun k v hkv => by have := slot k v hkv; omega,
    by omega, by omega⟩

theorem bitsAt_skip {w n i k : Nat} {l : List Bool} (hw : w ≤ i) :
    bitsAt (natBits w n ++ l) i k = bitsAt l (i - w) k := by
  rw [bitsAt_append (by rwa [natBits_length]), natBits_length]

theorem bitsAt_skipStamp {p : Option Nat} {i k : Nat} {l : List Bool} (hi : 12 ≤ i) :
    bitsAt (stampBits p ++ l) i k = bitsAt l (i - 12) k := by
  rw [bitsAt_append (by rwa [stampBits_length]), stampBits_length]

theorem bitsAt_skipSelector {x : MapSelector} {i k : Nat} {l : List Bool} (hi : 7 ≤ i) :
    bitsAt (selectorBits x ++ l) i k = bitsAt l (i - 7) k := by
  rw [bitsAt_append (by rwa [selectorBits_length]), selectorBits_length]

/-- The bits of a header with its check, one field after the other, and what follows. -/
theorem encodeHeader_append (h : Header) (rest : List Bool) : encodeHeader h ++ rest =
    natBits 16 h.label.toNat ++ (natBits 48 h.sender.toNat ++ (natBits 48 h.dest.toNat ++
      (stampBits h.stamp ++ (selectorBits h.selector ++ (natBits 5 h.symbols ++
        (natBits 6 h.blocks ++ (natBits 16 (crc16 (headerFields h)).toNat ++ rest))))))) := by
  rw [encodeHeader, headerFields_eq]
  simp only [List.append_assoc]

theorem encodeHeader_covered (h : Header) (rest : List Bool) :
    (encodeHeader h ++ rest).take 142 = headerFields h := by
  rw [encodeHeader, List.append_assoc, List.take_left' (headerFields_length h)]

/-- The fields stand at their places, whatever follows the check. -/
theorem headerBits_encodeHeader {h : Header} (fits : HeaderFits h) (rest : List Bool) :
    HeaderBits (encodeHeader h ++ rest) h := by
  have check : bitsAt (encodeHeader h ++ rest) 142 16 =
      (crc16 ((encodeHeader h ++ rest).take 142)).toNat := by
    rw [encodeHeader_covered, encodeHeader_append]
    simp (disch := omega) only [bitsAt_skip, bitsAt_skipStamp, bitsAt_skipSelector, Nat.reduceSub]
    exact bitsAt_natBits (BitVec.isLt _) rest
  generalize hbs : encodeHeader h ++ rest = bs at check
  rw [encodeHeader_append] at hbs
  generalize natBits 16 (crc16 (headerFields h)).toNat ++ rest = rest at hbs
  constructor
  case check => exact check
  case label => exact hbs ▸ bitsAt_natBits (BitVec.isLt _) _
  case sender =>
    show bitsAt bs 16 48 = _
    rw [← hbs]
    simp (disch := omega) only [bitsAt_skip, Nat.reduceSub]
    exact bitsAt_natBits (BitVec.isLt _) _
  case dest =>
    show bitsAt bs 64 48 = _
    rw [← hbs]
    simp (disch := omega) only [bitsAt_skip, Nat.reduceSub]
    exact bitsAt_natBits (BitVec.isLt _) _
  case stamped =>
    intro p hp
    refine ⟨by rw [← hbs]; simp [List.getElem?_append, natBits_length, hp, stampBits], ?_⟩
    show bitsAt bs 113 11 = _
    rw [← hbs, hp]
    simp (disch := omega) only [bitsAt_skip, Nat.reduceSub]
    exact bitsAt_natBits (fits.stamp p hp) _
  case unstamped =>
    intro hp
    rw [← hbs]
    simp [List.getElem?_append, natBits_length, hp, stampBits]
  case robust =>
    intro hs
    rw [← hbs]
    simp [List.getElem?_append, natBits_length, stampBits_length, hs, selectorBits]
  case slot =>
    intro k v hs
    obtain ⟨hk, hv⟩ := fits.slot k v hs
    refine ⟨by rw [← hbs]; simp [List.getElem?_append, natBits_length, stampBits_length, hs, selectorBits],
      ?_, ?_⟩
    · show bitsAt bs 125 2 = _
      rw [← hbs, hs, selectorBits, List.cons_append, List.append_assoc]
      simp (disch := omega) only [bitsAt_skip, bitsAt_skipStamp, Nat.reduceSub]
      exact bitsAt_natBits hk _
    · show bitsAt bs 127 4 = _
      rw [← hbs, hs, selectorBits, List.cons_append, List.append_assoc]
      simp (disch := omega) only [bitsAt_skip, bitsAt_skipStamp, Nat.reduceSub]
      exact bitsAt_natBits hv _
  case symbols =>
    show bitsAt bs 131 5 = _
    rw [← hbs]
    simp (disch := omega) only [bitsAt_skip, bitsAt_skipStamp, bitsAt_skipSelector, Nat.reduceSub]
    exact bitsAt_natBits fits.symbols _
  case blocks =>
    show bitsAt bs 136 6 = _
    rw [← hbs]
    simp (disch := omega) only [bitsAt_skip, bitsAt_skipStamp, bitsAt_skipSelector, Nat.reduceSub]
    exact bitsAt_natBits fits.blocks _

/-! ### The header symbols -/

theorem headerSymbols_eq {gOn : Nat} (hg : 40 ≤ gOn) (h : Header) :
    headerSymbols gOn h = encodeHeader h ++ List.replicate (4 * gOn - 158) false := by
  rw [headerSymbols, fitTo, List.take_append, List.take_of_length_le (by rw [encodeHeader_length]; omega),
    encodeHeader_length, List.take_replicate, Nat.min_eq_left (by omega)]

theorem headerSymbols_short {gOn : Nat} (hg : gOn < 40) (h : Header) :
    headerSymbols gOn h = (encodeHeader h).take (4 * gOn) :=
  List.take_append_of_le_length (by rw [encodeHeader_length]; omega)

theorem decodeHeader_headerSymbols {gOn : Nat} (hg : 40 ≤ gOn) {h : Header}
    (wf : headerWellFormed h = true) (fits : HeaderFits h) :
    decodeHeader gOn (headerSymbols gOn h) = some h := by
  rw [headerSymbols_eq hg]
  have places := headerBits_encodeHeader fits (List.replicate (4 * gOn - 158) false)
  exact decodeHeader_eq_some.2 ⟨hg, by rw [List.length_append, encodeHeader_length]; omega,
    places.check, wf, places.read⟩

/-- R24, R27, R29: no header is decoded from a station with another notch mask, or with too few groups. -/
theorem headerHeard_unreadable {m : Lmd} {x : HeaderHeard} (b : BurstInHand)
    (h : x.senderNotch ≠ m.notch ∨ groupsOn x.senderNotch < 40) : headerHeard m b x = none := by
  have hr : headerReadable m x.senderNotch = false := by
    rcases h with h | h
    · simp [headerReadable, h]
    · simp [headerReadable, Nat.not_le.2 h]
  rw [headerHeard, hr]
  rfl

/-- R36: no header is decoded from symbols of which one is silent. -/
theorem headerHeard_silent {m : Lmd} {b : BurstInHand} {x : HeaderHeard} {i : Nat} (hi : i < 2)
    (h : symbolSilent m.notch .robust (chosenSymbol b.choice x.toSymbolsHeard i) = true) :
    headerHeard m b x = none :=
  if_pos (Bool.or_eq_true_iff.2 (.inr (List.any_eq_true.2 ⟨i, List.mem_range.2 hi, h⟩)))

/-- A header is decoded from symbols of which none is silent, of a station with the receiver's own mask. -/
theorem headerHeard_eq {m : Lmd} {b : BurstInHand} {x : HeaderHeard} (mask : x.senderNotch = m.notch)
    (groups : 40 ≤ groupsOn m.notch)
    (loud : ∀ i < 2, symbolSilent m.notch .robust (chosenSymbol b.choice x.toSymbolsHeard i) = false) :
    headerHeard m b x = decodeHeader (groupsOn m.notch)
      (readSymbols m.notch .robust b.choice 2 x.toSymbolsHeard) := by
  have hr : headerReadable m x.senderNotch = true := by simp [headerReadable, mask, groups]
  have hl : ((List.range 2).any fun i =>
      symbolSilent m.notch .robust (chosenSymbol b.choice x.toSymbolsHeard i)) = false :=
    List.any_eq_false.2 fun i hi => Bool.eq_false_iff.1 (loud i (List.mem_range.1 hi))
  rw [headerHeard, hr, hl]
  rfl

theorem robust_fits (notch : List Bool) : PayloadMap.robust.fits notch := trivial

/-- Settles O59, from the places of the fields in the bits sent, and from the symbols read back. -/
theorem headerRoundTrip : Obligations.HeaderRoundTrip := by
  refine ⟨fun gOn h hg wf slot => ?_, fun gOn h hg => headerSymbols_short hg h,
    fun m b x hx => headerHeard_unreadable b hx, fun m b x i hi silent => ?_,
    fun m b x h hn hg wf slot mask heard => ?_⟩
  · have fits := HeaderFits.of_wellFormed wf slot
    have places := headerBits_encodeHeader fits []
    rw [List.append_nil] at places
    exact ⟨encodeHeader_length h, places, headerSymbols_eq hg h, decodeHeader_headerSymbols hg wf fits⟩
  · refine headerHeard_silent hi (List.all_eq_true.2 fun g hg => ?_)
    rw [show (chosenSymbol b.choice x.toSymbolsHeard i).getD g [] = _ from
      fromPaths_getD _ _ _ (List.mem_range.1 hg)]
    have hs := silent g (List.mem_range.1 hg)
    cases hnotch : m.notch.getD g false with
    | true => rw [groupUsed, hnotch]; rfl
    | false =>
      refine Bool.or_eq_true_iff.2 (.inr (List.all_eq_true.2 fun c hc => ?_))
      refine List.isEmpty_iff.2 (hs hnotch c ?_)
      cases hch : b.choice.getD g .a <;> rw [hch] at hc <;> exact hc
  · have hbits : PayloadMap.robust.bits (groupsOn m.notch) = 2 * groupsOn m.notch := rfl
    have hlen : (headerSymbols (groupsOn m.notch) h).length =
        2 * PayloadMap.robust.bits (groupsOn m.notch) := by
      rw [headerSymbols, fitTo_length, hbits]; omega
    rw [headerHeard_eq mask hg fun i hi =>
        symbolSilent_heardOn (robust_fits _) hn (by rw [hbits]; omega) heard hi,
      readSymbols_mapSymbols (robust_fits _) hn hlen heard]
    exact decodeHeader_headerSymbols hg wf (HeaderFits.of_wellFormed wf slot)

end Sys2Proof.Machine
end

section
/-! Bytes and bits that stand one piece after the other, and the numbers that they spell (R169 to R172). -/

namespace Sys2Proof.Machine

/-! ### Pieces of one length -/

/-- What stands from piece `k` on, of pieces of one length. -/
theorem drop_flatMap {α β : Type} {f : α → List β} {w : Nat} {l : List α} (h : ∀ x ∈ l, (f x).length = w)
    (k : Nat) : (l.flatMap f).drop (w * k) = (l.drop k).flatMap f := by
  induction k generalizing l with
  | zero => rfl
  | succ k ih =>
    cases l with
    | nil => simp
    | cons x l =>
      have hx : (f x).length = w := h x List.mem_cons_self
      rw [List.flatMap_cons, List.drop_append, List.drop_of_length_le (by rw [hx, Nat.mul_succ]; omega),
        hx, Nat.mul_succ, Nat.add_sub_cancel, List.nil_append, ih fun y hy => h y (List.mem_cons_of_mem x hy),
        List.drop_succ_cons]

/-- Piece `k` stands first from its place on. -/
theorem drop_flatMap_of_get {α β : Type} {f : α → List β} {w : Nat} {l : List α}
    (h : ∀ x ∈ l, (f x).length = w) {k : Nat} {x : α} (hk : l[k]? = some x) :
    (l.flatMap f).drop (w * k) = f x ++ (l.drop (k + 1)).flatMap f := by
  obtain ⟨hlt, rfl⟩ := List.getElem?_eq_some_iff.1 hk
  rw [drop_flatMap h, List.drop_eq_getElem_cons hlt, List.flatMap_cons]

theorem flatMap_length {α β : Type} {f : α → List β} {w : Nat} {l : List α}
    (h : ∀ x ∈ l, (f x).length = w) : (l.flatMap f).length = w * l.length := by
  induction l with
  | nil => rfl
  | cons x l ih =>
    rw [List.flatMap_cons, List.length_append, h x List.mem_cons_self,
      ih fun y hy => h y (List.mem_cons_of_mem x hy), List.length_cons, Nat.mul_succ, Nat.add_comm]

/-! ### Bytes and the numbers in them -/

theorem byteAt_cons_one (b : Byte) (l : List Byte) : byteAt (b :: l) 1 = b := rfl

/-- What stands after the first bytes is read there. -/
theorem byteAt_append {a l : List Byte} {i : Nat} (h : a.length < i) :
    byteAt (a ++ l) i = byteAt l (i - a.length) := by
  rw [byteAt, byteAt, List.getD_append_right _ _ _ _ (by omega)]
  congr 1
  omega

theorem byteAt_append_left {a l : List Byte} {i : Nat} (h : i - 1 < a.length) :
    byteAt (a ++ l) i = byteAt a i :=
  List.getD_append _ _ _ _ h

theorem byteAt_of_get {l : List Byte} {i : Nat} {b : Byte} (h : l[i]? = some b) : byteAt l (i + 1) = b := by
  rw [byteAt, Nat.add_sub_cancel, List.getD_eq_getElem?_getD, h]
  rfl

theorem fieldAt_append {a l : List Byte} {i k : Nat} (h : a.length < i) :
    fieldAt (a ++ l) i k = fieldAt l (i - a.length) k := by
  rw [fieldAt, fieldAt, List.drop_append, List.drop_of_length_le (by omega), List.nil_append]
  congr 3
  omega

theorem natBytes_length (k n : Nat) : (natBytes k n).length = k := by simp [natBytes]

theorem natBytes_succ (k n : Nat) : natBytes (k + 1) n = natBytes k (n / 256) ++ [BitVec.ofNat 8 n] := by
  rw [natBytes, List.range_succ, List.map_append, natBytes]
  congr 1
  · refine List.map_congr_left fun i hi => ?_
    have hi := List.mem_range.1 hi
    rw [show 8 * (k + 1 - 1 - i) = 8 + 8 * (k - 1 - i) by omega, Nat.shiftRight_add, Nat.shiftRight_eq_div_pow n 8]
  · simp

theorem bytesNat_concat (l : List Byte) (b : Byte) : bytesNat (l ++ [b]) = 256 * bytesNat l + b.toNat := by
  rw [bytesNat, List.foldl_append]
  rfl

/-- The number that a number's bytes spell is that number. -/
theorem bytesNat_natBytes {k n : Nat} (h : n < 256 ^ k) : bytesNat (natBytes k n) = n := by
  induction k generalizing n with
  | zero =>
    rw [Nat.lt_one_iff.1 h]
    rfl
  | succ k ih =>
    have hq : n / 256 < 256 ^ k := by
      rw [pow_succ] at h
      exact Nat.div_lt_of_lt_mul (by omega)
    rw [natBytes_succ, bytesNat_concat, ih hq, BitVec.toNat_ofNat]
    omega

theorem fieldAt_natBytes {k n : Nat} (h : n < 256 ^ k) (l : List Byte) :
    fieldAt (natBytes k n ++ l) 1 k = n := by
  rw [fieldAt, Nat.sub_self, List.drop_zero, List.take_left' (natBytes_length k n), bytesNat_natBytes h]

theorem addrBytes_length (a : Addr) : (addrBytes a).length = 6 := natBytes_length _ _

theorem addrAt_append {a l : List Byte} {i : Nat} (h : a.length < i) :
    addrAt (a ++ l) i = addrAt l (i - a.length) := by
  rw [addrAt, addrAt, fieldAt_append h]

/-- An address is read back from its bytes. -/
theorem addrAt_addrBytes (a : Addr) (l : List Byte) : addrAt (addrBytes a ++ l) 1 = a := by
  rw [addrAt, addrBytes, fieldAt_natBytes a.isLt, BitVec.ofNat_toNat, BitVec.setWidth_eq]

theorem toNat_ofNat_byte {n : Nat} (h : n ≤ 255) : (BitVec.ofNat 8 n).toNat = n := by
  rw [BitVec.toNat_ofNat]
  omega

/-! ### The bits of bytes -/

theorem byteBits_length (b : Byte) : (natBits 8 b.toNat).length = 8 := natBits_length _ _

theorem bytesBits_length (l : List Byte) : (bytesBits l).length = 8 * l.length :=
  flatMap_length fun b _ => byteBits_length b

/-- A byte is read back where its bits stand. -/
theorem bitsAt_bytesBits {l : List Byte} {k : Nat} {b : Byte} (h : l[k]? = some b) (rest : List Bool) :
    bitsAt (bytesBits l ++ rest) (8 * k) 8 = b.toNat := by
  obtain ⟨hlt, -⟩ := List.getElem?_eq_some_iff.1 h
  rw [bitsAt, List.drop_append_of_le_length (by rw [bytesBits_length]; omega), bytesBits,
    drop_flatMap_of_get (fun b _ => byteBits_length b) h, List.append_assoc]
  exact bitsAt_natBits b.isLt _

/-- Bytes are read back from their bits. -/
theorem bytes_of_bitsAt (l : List Byte) (rest : List Bool) :
    ((List.range l.length).map fun k => BitVec.ofNat 8 (bitsAt (bytesBits l ++ rest) (8 * k) 8)) = l := by
  refine List.ext_getElem? fun k => ?_
  rw [List.getElem?_map]
  by_cases hk : k < l.length
  · rw [List.getElem?_range hk, List.getElem?_eq_getElem hk, Option.map_some,
      bitsAt_bytesBits (List.getElem?_eq_getElem hk), BitVec.ofNat_toNat, BitVec.setWidth_eq]
  · rw [List.getElem?_eq_none (by simpa using hk), List.getElem?_eq_none (by simpa using hk)]
    rfl

end Sys2Proof.Machine
end

section
/-! Receipts, blocks and map notices: their fields at their places, and read back as they were sent
(R26, R34, R35, R90, R128, R170, R171). -/

namespace Sys2Proof.Machine

/-! ### The receipt -/

/-- The bits of a receipt before its check, from its result bit, its buffer bit and its bitmap. -/
def receiptHead (a : Addr) (unknown short : Bool) (bitmap : List Bool) : List Bool :=
  natBits 48 a.toNat ++ (unknown :: short :: bitmap)

theorem receiptFields_received (a : Addr) (short : Bool) (bitmap : List Bool) :
    receiptFields a ⟨.received, short, bitmap⟩ = receiptHead a false short bitmap := by
  simp [receiptFields, receiptHead]

theorem receiptFields_mapUnknown (a : Addr) (short : Bool) :
    receiptFields a ⟨.mapUnknown, short, []⟩ = receiptHead a true short [] := by
  simp [receiptFields, receiptHead]

theorem receiptHead_length (a : Addr) (unknown short : Bool) (bitmap : List Bool) :
    (receiptHead a unknown short bitmap).length = 50 + bitmap.length := by
  simp only [receiptHead, List.length_append, natBits_length, List.length_cons]
  omega

/-- The fields of a receipt stand at their places in a bit stream, bits numbered from 0 (R170). -/
structure ReceiptBits (bits : List Bool) (a : Addr) (unknown short : Bool) (bitmap : List Bool) : Prop where
  address : bitsAt bits 0 48 = a.toNat
  result : bits[48]? = some unknown
  buffer : bits[49]? = some short
  blocks : (bits.drop 50).take bitmap.length = bitmap
  check : bitsAt bits (50 + bitmap.length) 16 = (crc16 (bits.take (50 + bitmap.length))).toNat
  zeros : ∀ v ∈ bits.drop (66 + bitmap.length), v = false

theorem receiptBits_sent (a : Addr) (unknown short : Bool) (bitmap : List Bool) (z : Nat) :
    ReceiptBits (receiptHead a unknown short bitmap ++
      (natBits 16 (crc16 (receiptHead a unknown short bitmap)).toNat ++ List.replicate z false))
      a unknown short bitmap where
  address := by
    rw [receiptHead, List.append_assoc]
    exact bitsAt_natBits a.isLt _
  result := by simp [receiptHead, natBits_length]
  buffer := by simp [receiptHead, List.getElem?_append, natBits_length]
  blocks := by
    have h50 : (natBits 48 a.toNat ++ [unknown, short]).length = 50 := by simp [natBits_length]
    rw [receiptHead, show natBits 48 a.toNat ++ (unknown :: short :: bitmap) =
      (natBits 48 a.toNat ++ [unknown, short]) ++ bitmap by simp, List.append_assoc,
      List.drop_left' h50, List.take_left]
  check := by
    have hl := receiptHead_length a unknown short bitmap
    rw [List.take_left' hl, bitsAt_append hl.le, hl, Nat.sub_self]
    exact bitsAt_natBits (BitVec.isLt _) _
  zeros v hv := by
    have hl := receiptHead_length a unknown short bitmap
    rw [← List.append_assoc, List.drop_left' (by rw [List.length_append, hl, natBits_length]; omega)] at hv
    exact List.eq_of_mem_replicate hv

/-- A receipt that fits into its symbol, with its check and the zeros after it. -/
theorem receiptSymbol_eq {gOn : Nat} {a : Addr} {r : Receipt} {unknown short : Bool} {bitmap : List Bool}
    (fields : receiptFields a r = receiptHead a unknown short bitmap)
    (fits : 66 + bitmap.length ≤ 2 * gOn) : receiptSymbol gOn a r = receiptHead a unknown short bitmap ++
      (natBits 16 (crc16 (receiptHead a unknown short bitmap)).toNat ++
        List.replicate (2 * gOn - (66 + bitmap.length)) false) := by
  have hl : (receiptHead a unknown short bitmap ++
      natBits 16 (crc16 (receiptHead a unknown short bitmap)).toNat).length = 66 + bitmap.length := by
    rw [List.length_append, receiptHead_length, natBits_length]
    omega
  rw [receiptSymbol, fields, fitTo, List.take_append, List.take_of_length_le (by omega), hl,
    List.take_replicate, Nat.min_eq_left (by omega), List.append_assoc]

/-- A receipt's bits are read back, by a sender whose burst has as many blocks as the bitmap bits. -/
theorem decodeReceipt_of_places {gOn n : Nat} {a : Addr} {unknown short : Bool} {bitmap bits : List Bool}
    (places : ReceiptBits bits a unknown short bitmap) (len : bits.length = 2 * gOn)
    (hn : bitmap.length = if unknown then 0 else n) (fits : 66 + bitmap.length ≤ 2 * gOn) :
    decodeReceipt gOn a n bits = some ⟨if unknown then .mapUnknown else .received, short, bitmap⟩ := by
  have hu : bits.getD 48 false = unknown := by rw [List.getD_eq_getElem?_getD, places.result]; rfl
  have hs : bits.getD 49 false = short := by rw [List.getD_eq_getElem?_getD, places.buffer]; rfl
  have hcovered : (if unknown then 50 else 50 + n) = 50 + bitmap.length := by
    cases unknown <;> simp_all
  have hbitmap : (if unknown then [] else (bits.drop 50).take n) = bitmap := by
    have := places.blocks
    cases unknown <;> simp_all
  simp only [decodeReceipt, List.take_of_length_le len.le, hu, hs, hcovered, hbitmap]
  exact if_pos ⟨by omega, places.check, places.address⟩

/-! ### The block -/

theorem encodeBlockHeader_length (h : BlockHeader) : (encodeBlockHeader h).length = 4 := rfl

theorem encodeBlock_eq (h : BlockHeader) (payload : List Byte) : encodeBlock h payload =
    (encodeBlockHeader h ++ payload) ++
      (natBytes 4 (blockCheck (encodeBlockHeader h ++ payload)).toNat ++ []) := by
  rw [List.append_nil]
  rfl

/-- The ranges of a block header's fields that its bytes hold. -/
structure BlockHeader.Fits (h : BlockHeader) : Prop where
  level : h.level ≤ 7
  tag : h.tag ≤ 255
  index : h.index ≤ 15
  total : h.total ≤ 15
  last : 1 ≤ h.last ∧ h.last ≤ 128

section BlockHeaders

variable {h : BlockHeader} (fits : h.Fits) (l : List Byte)

theorem byteAt_blockHeader_one (level : h.level ≤ 7) : (byteAt (encodeBlockHeader h ++ l) 1).toNat =
    (match h.kind with | .data => 0 | .notice => 128) + 16 * h.level :=
  toNat_ofNat_byte (by cases h.kind <;> simp only <;> omega)

theorem byteAt_blockHeader_two (tag : h.tag ≤ 255) :
    (byteAt (encodeBlockHeader h ++ l) 2).toNat = h.tag := toNat_ofNat_byte tag

theorem byteAt_blockHeader_three (index : h.index ≤ 15) (total : h.total ≤ 15) :
    (byteAt (encodeBlockHeader h ++ l) 3).toNat = 16 * h.index + h.total := toNat_ofNat_byte (by omega)

theorem byteAt_blockHeader_four (last : 1 ≤ h.last ∧ h.last ≤ 128) :
    (byteAt (encodeBlockHeader h ++ l) 4).toNat = h.last - 1 := toNat_ofNat_byte (by omega)

include fits in
/-- A block header is read back from its four bytes. -/
theorem readBlockHeader_encode : readBlockHeader (encodeBlockHeader h ++ l) = h := by
  have one := byteAt_blockHeader_one l fits.level
  have two := byteAt_blockHeader_two l fits.tag
  have three := byteAt_blockHeader_three l fits.index fits.total
  have four := byteAt_blockHeader_four l fits.last
  obtain ⟨hl, ht, hi, ho, hlast⟩ := fits
  have kind : (if (byteAt (encodeBlockHeader h ++ l) 1).getLsbD 7 then FrameKind.notice else .data) =
      h.kind := by
    rw [← BitVec.testBit_toNat, one, Nat.testBit_eq_decide_div_mod_eq]
    cases h.kind
    · rw [if_neg (by simp only [decide_eq_true_iff]; omega)]
    · rw [if_pos (by simp only [decide_eq_true_iff]; omega)]
  simp only [readBlockHeader, kind]
  have level : (byteAt (encodeBlockHeader h ++ l) 1).toNat / 16 % 8 = h.level := by
    rw [one]; cases h.kind <;> simp only <;> omega
  rw [level, two, three, four]
  obtain ⟨_, _, _, _, _, _⟩ := h
  simp only at *
  congr 1 <;> omega

end BlockHeaders

/-- A block's 136 bytes: its header, its payload and the check over both (R26). -/
theorem encodeBlock_places {h : BlockHeader} {payload : List Byte} (hp : payload.length = 128) :
    (encodeBlock h payload).length = 136 ∧
    (encodeBlock h payload).take 132 = encodeBlockHeader h ++ payload ∧
    ((encodeBlock h payload).drop 4).take 128 = payload ∧
    fieldAt (encodeBlock h payload) 133 4 = (blockCheck ((encodeBlock h payload).take 132)).toNat := by
  have hb : (encodeBlockHeader h ++ payload).length = 132 := by
    rw [List.length_append, encodeBlockHeader_length, hp]
  have htake : (encodeBlock h payload).take 132 = encodeBlockHeader h ++ payload := List.take_left' hb
  refine ⟨?_, htake, ?_, ?_⟩
  · rw [encodeBlock_eq, List.length_append, hb, List.append_nil, natBytes_length]
  · rw [encodeBlock_eq, List.append_assoc, List.drop_left' (encodeBlockHeader_length h),
      List.take_left' hp]
  · rw [htake, encodeBlock_eq, fieldAt_append (by omega), hb]
    exact fieldAt_natBytes (BitVec.isLt _) []

/-! ### The map notice -/

theorem slotRecord_byte {m : VersionedMap} {k : Nat} (hk : k < 30) : byteAt (slotRecord (some m)) (3 + k) =
    BitVec.ofNat 8 (16 * m.loads.getD (2 * k) 0 + m.loads.getD (2 * k + 1) 0) := by
  rw [slotRecord, show 3 + k = k + 2 + 1 by omega]
  exact byteAt_of_get (by rw [List.getElem?_cons_succ, List.getElem?_cons_succ, List.getElem?_map,
    List.getElem?_range hk, Option.map_some])

/-- Loadings and versions of which a record's nibbles and bytes hold the value. -/
structure VersionedMap.Fits (m : VersionedMap) : Prop where
  version : m.version ≤ 255
  length : m.loads.length = 60
  loads : ∀ b ∈ m.loads, b ≤ 15

theorem VersionedMap.Fits.getD {m : VersionedMap} (fits : m.Fits) (g : Nat) : m.loads.getD g 0 ≤ 15 := by
  rw [List.getD_eq_getElem?_getD]
  cases hg : m.loads[g]? with
  | none => exact Nat.zero_le _
  | some b => exact fits.loads b (List.mem_of_getElem? hg)

theorem recordBytes_slotRecord {m : Option VersionedMap} (fits : ∀ x, m = some x → x.Fits) :
    RecordBytes (slotRecord m) m := by
  refine ⟨slotRecord_length m, ?_⟩
  cases m with
  | none => exact fun x hx => List.eq_of_mem_replicate hx
  | some m =>
    refine ⟨rfl, toNat_ofNat_byte (fits m rfl).version, fun k hk => ?_⟩
    have he := (fits m rfl).getD (2 * k)
    have ho := (fits m rfl).getD (2 * k + 1)
    rw [slotRecord_byte hk, toNat_ofNat_byte (by omega)]

/-- A record's bytes are read as the map that they hold. -/
theorem readSlotRecord_of_bytes {bytes : List Byte} {m : Option VersionedMap} (h : RecordBytes bytes m)
    (fits : ∀ x, m = some x → x.Fits) : readSlotRecord bytes = m := by
  cases m with
  | none =>
    obtain ⟨hl, hz⟩ := h
    have hlt : 1 - 1 < bytes.length := by omega
    have h0 : byteAt bytes 1 = 0 := by
      rw [byteAt, List.getD_eq_getElem _ _ hlt]
      exact hz _ (List.getElem_mem hlt)
    rw [readSlotRecord, h0]
    rfl
  | some m =>
    obtain ⟨-, present, version, loads⟩ := h
    have loads_eq : ((List.range groupCount).map fun g =>
        if g % 2 = 0 then (byteAt bytes (3 + g / 2)).toNat / 16
        else (byteAt bytes (3 + g / 2)).toNat % 16) = m.loads := by
      refine List.ext_getElem (by simp [groupCount, (fits m rfl).length]) fun g hg hg' => ?_
      have hg60 : g < 60 := (fits m rfl).length ▸ hg'
      have he := (fits m rfl).getD (2 * (g / 2))
      have ho := (fits m rfl).getD (2 * (g / 2) + 1)
      rw [List.getElem_map, List.getElem_range, loads (g / 2) (by omega)]
      rw [← List.getD_eq_getElem m.loads 0 hg']
      by_cases hpar : g % 2 = 0
      · rw [if_pos hpar, show m.loads.getD g 0 = m.loads.getD (2 * (g / 2)) 0 by congr 1; omega]
        omega
      · rw [if_neg hpar, show m.loads.getD g 0 = m.loads.getD (2 * (g / 2) + 1) 0 by congr 1; omega]
        omega
    rw [readSlotRecord, if_pos present, version]
    exact congrArg some (congrArg (VersionedMap.mk m.version) loads_eq)

section Notices

variable {windows : WindowList} {slots : List (Option VersionedMap)}

theorem byteAt_encodeNotice {w : Nat} {x : Option Nat} (h : windows[w]? = some x) :
    byteAt (encodeNotice windows slots) (w + 1) = windowByte x := by
  obtain ⟨hlt, -⟩ := List.getElem?_eq_some_iff.1 h
  refine byteAt_of_get ?_
  rw [encodeNotice, List.getElem?_append_left (by rwa [List.length_map]), List.getElem?_map, h]
  rfl

theorem record_encodeNotice (hw : windows.length = 12) {k : Nat} {m : Option VersionedMap}
    (h : slots[k]? = some m) :
    ((encodeNotice windows slots).drop (12 + 32 * k)).take 32 = slotRecord m := by
  rw [encodeNotice, ← List.drop_drop, List.drop_left' (by rw [List.length_map, hw]),
    drop_flatMap_of_get (fun m _ => slotRecord_length m) h, List.take_left' (slotRecord_length m)]

theorem windowByte_toNat {k : Nat} (h : k ≤ 3) : (windowByte (some k)).toNat = k :=
  toNat_ofNat_byte (by omega)

/-- A map notice is read back as it was sent. -/
theorem readNotice_encodeNotice (hw : windows.length = 12) (hs : slots.length = 4)
    (named : ∀ k : Nat, some k ∈ windows → k ≤ 3) (fits : ∀ m, some m ∈ slots → m.Fits) :
    readNotice (encodeNotice windows slots) = (windows, slots) := by
  refine Prod.ext (List.ext_getElem (by simp [readNotice, windowCount, hw]) fun w h h' => ?_)
    (List.ext_getElem (by simp [readNotice, slotCount, hs]) fun k h h' => ?_)
  · have hbyte := byteAt_encodeNotice (slots := slots) (List.getElem?_eq_getElem h')
    simp only [readNotice, List.getElem_map, List.getElem_range, hbyte]
    cases hx : windows[w] with
    | none => rfl
    | some k =>
      have hk := named k (hx ▸ List.getElem_mem h')
      rw [windowByte_toNat hk, if_pos (by rw [slotCount]; omega)]
  · simp only [readNotice, List.getElem_map, List.getElem_range]
    have hf : ∀ x, slots[k] = some x → x.Fits := fun x hx => fits x (hx ▸ List.getElem_mem h')
    rw [record_encodeNotice hw (List.getElem?_eq_getElem h')]
    exact readSlotRecord_of_bytes (recordBytes_slotRecord hf) hf

end Notices

/-! ### Payloads and receipts on the line -/

/-- The bits of block `j` of a payload stand where it is read from, if the blocks fit into its symbols. -/
theorem payloadBits_block {symbols d j : Nat} {blocks : List (List Byte)} {block : List Byte}
    (fits : blocks.length * 1088 ≤ symbols * d) (whole : ∀ y ∈ blocks, y.length = 136)
    (hj : blocks[j]? = some block) :
    ∃ rest, (payloadBits symbols d blocks).drop (1088 * j) = bytesBits block ++ rest := by
  have hbits : ∀ y ∈ blocks, (bytesBits y).length = 1088 := fun y hy => by
    rw [bytesBits_length, whole y hy]
  have hlen : (blocks.flatMap bytesBits).length = 1088 * blocks.length := flatMap_length hbits
  obtain ⟨hlt, -⟩ := List.getElem?_eq_some_iff.1 hj
  refine ⟨(blocks.drop (j + 1)).flatMap bytesBits ++
    List.replicate (symbols * d - 1088 * blocks.length) false, ?_⟩
  rw [payloadBits, fitTo, List.take_append, List.take_of_length_le (by omega), hlen, List.take_replicate,
    Nat.min_eq_left (by omega), List.drop_append_of_le_length (by omega), drop_flatMap_of_get hbits hj,
    List.append_assoc]

/-- A block is read back from the symbols of its burst. -/
theorem blockHeard_sent {m : Lmd} {b : BurstInHand} {x : SymbolsHeard} {h : Header}
    {blocks : List (List Byte)} {j : Nat} {block : List Byte} (hn : m.notch.length = 60)
    (map : b.map.fits m.notch)
    (fits : blocks.length * 1088 ≤ h.symbols * b.map.bits (groupsOn m.notch))
    (whole : ∀ y ∈ blocks, y.length = 136) (hj : blocks[j]? = some block)
    (heard : HeardOn b.choice (mapSymbols m.notch b.map h.symbols
      (payloadBits h.symbols (b.map.bits (groupsOn m.notch)) blocks)) x) :
    blockHeard m b h (j + 1) x = block := by
  obtain ⟨rest, hrest⟩ := payloadBits_block fits whole hj
  have hb : block.length = 136 := whole block (List.mem_of_getElem? hj)
  rw [blockHeard, readSymbols_mapSymbols map hn (fitTo_length _ _ _) heard, Nat.add_sub_cancel, ← hb]
  refine Eq.trans ?_ (bytes_of_bitsAt block rest)
  refine List.map_congr_left fun k _ => ?_
  rw [bitsAt, bitsAt, ← hrest, List.drop_drop]
  rfl

/-- No block of a payload that is sent and heard counts as gone silent. -/
theorem blockSilent_sent {m : Lmd} {b : BurstInHand} {x : SymbolsHeard} {h : Header} {data : List Bool}
    (hn : m.notch.length = 60) (map : b.map.fits m.notch) (carries : 1 ≤ b.map.bits (groupsOn m.notch))
    (heard : HeardOn b.choice (mapSymbols m.notch b.map h.symbols data) x) (j : Nat) :
    blockSilent m b h j x = false := by
  refine List.any_eq_false.2 fun i hi => ?_
  rw [symbolSilent_heardOn map hn carries heard (List.mem_range.1 hi), Bool.and_false]
  exact Bool.false_ne_true

/-- The data bits of a receipt's robust symbol are read back. -/
theorem receiptBits_sentSymbol {m : Lmd} {r : ReceiptHeard} {data : List Bool} (hn : m.notch.length = 60)
    (len : data.length = 2 * groupsOn m.notch)
    (heard : HeardOn (choosePaths m.path m.notch r.snrA r.snrB) [robustSymbol m.notch data]
      ⟨[r.symbolA], [r.symbolB]⟩) : receiptBits m r = data := by
  have hlen : (robustSymbol m.notch data).length = groupCount := by
    rw [robustSymbol, placeRobust_length, hn, groupCount]
  have hsym : receiptOnPaths m r = asHeard (robustSymbol m.notch data) :=
    chosenSymbol_heardOn heard (i := 0) (by simp) hlen
  rw [receiptBits, hsym]
  exact readSymbol_mapSymbol (map := .robust) trivial len

/-- Settles O60, format by format. -/
theorem formatsRoundTrip : Obligations.FormatsRoundTrip := by
  refine ⟨fun gOn n a short bitmap hn fits => ?_, fun h payload hl ht hi ho hlast hlast' hp => ?_,
    fun windows slots hw hs named fits => ?_,
    fun m b x h blocks j block hn map fits whole hj heard => ?_,
    fun m r data hn len heard => receiptBits_sentSymbol hn len heard⟩
  · subst hn
    have received := receiptBits_sent a false short bitmap (2 * gOn - (66 + bitmap.length))
    have unknown := receiptBits_sent a true short [] (2 * gOn - (66 + ([] : List Bool).length))
    rw [← receiptSymbol_eq (receiptFields_received a short bitmap) fits] at received
    rw [← receiptSymbol_eq (gOn := gOn) (receiptFields_mapUnknown a short)
      (by rw [List.length_nil]; omega)] at unknown
    have len := fun r => fitTo_length (2 * gOn) false
      (receiptFields a r ++ natBits 16 (crc16 (receiptFields a r)).toNat)
    exact ⟨decodeReceipt_of_places received (len _) rfl fits,
      decodeReceipt_of_places unknown (len _) rfl (by rw [List.length_nil]; omega),
      ⟨len _, received.address, received.result, received.buffer, received.blocks, received.check,
        received.zeros⟩,
      ⟨len _, unknown.address, unknown.result, unknown.buffer, unknown.check, unknown.zeros⟩⟩
  · obtain ⟨length, covered, carried, check⟩ := encodeBlock_places (h := h) hp
    have header : encodeBlock h payload = encodeBlockHeader h ++ (payload ++
        natBytes 4 (blockCheck (encodeBlockHeader h ++ payload)).toNat) := by
      rw [encodeBlock, List.append_assoc]
    refine ⟨length, ?_, ?_, carried, ?_, ?_, ?_, ?_, carried, check⟩
    · rw [blockIntact, length, check]
      simp
    · rw [header]
      exact readBlockHeader_encode ⟨hl, ht, hi, ho, hlast, hlast'⟩ _
    · rw [header]
      exact byteAt_blockHeader_one _ hl
    · rw [header]
      exact byteAt_blockHeader_two _ ht
    · rw [header]
      exact byteAt_blockHeader_three _ hi ho
    · rw [header]
      exact byteAt_blockHeader_four _ ⟨hlast, hlast'⟩
  · have fits : ∀ m, some m ∈ slots → m.Fits := fun m hm =>
      let ⟨hv, hl, hb⟩ := fits m hm
      ⟨hv, hl, hb⟩
    refine ⟨by rw [encodeNotice_length, hw, hs], fun w h => byteAt_encodeNotice h, fun w k h => ?_,
      fun k m h => ?_, readNotice_encodeNotice hw hs named fits⟩
    · rw [byteAt_encodeNotice h, windowByte_toNat (named k (List.mem_of_getElem? h))]
    · rw [record_encodeNotice hw h]
      exact recordBytes_slotRecord fun x hx => fits x (hx ▸ List.mem_of_getElem? h)
  · have carries : 1 ≤ b.map.bits (groupsOn m.notch) := by
      obtain ⟨hlt, -⟩ := List.getElem?_eq_some_iff.1 hj
      refine Nat.pos_of_ne_zero fun h0 => ?_
      rw [h0, Nat.mul_zero] at fits
      omega
    exact ⟨blockHeard_sent hn map fits whole hj heard, blockSilent_sent hn map carries heard (j + 1)⟩

end Sys2Proof.Machine
end

section
/-! A block handed: refused as damaged, accepted as a duplicate, stored, or completing its frame, and the
room that is made for it (R129, R132, R133, R141). -/

namespace Sys2Proof.Machine

/-! ### Damaged blocks -/

/-- R31, R129: a block that is due is taken with the result of its tests. -/
theorem exec_blockHanded {t : Time} {heard : SymbolsHeard} {bytes : List Byte} {b : BurstInHand}
    {h : Header} {sv : Service} {s : State} (due : BlockDue t s heard bytes b h sv) :
    exec (.blockHanded t heard) s = .next (takeBlock (b.handed + 1) bytes
      (blockIntact bytes && decide (h.blocks ≤ blocksCarried h.symbols b.dataBits) &&
        !blockSilent s.lmd b h (b.handed + 1) heard) (handOver t b s)) := by
  obtain ⟨live, receive, hand, header, stage, left, reachedNow, decoded, service⟩ := due
  refine (taking_live live t _).trans ?_
  simp only [blockHanded, handOver, State.mapLmd, hand, header, receive, stage, left, reachedNow,
    decoded, and_self, if_true]

theorem exec_blockHanded_of_damaged {t : Time} {heard : SymbolsHeard} {bytes : List Byte} {b : BurstInHand}
    {h : Header} {sv : Service} {s : State} (due : BlockDue t s heard bytes b h sv)
    (damaged : Damaged s heard bytes b h sv) :
    exec (.blockHanded t heard) s = .next (handOver t b s) := by
  have tests := Bool.eq_false_iff.mpr fun h => sound_iff.mp h damaged
  rw [exec_blockHanded due]
  simp only [takeBlock, handOver, due.service, tests, Bool.false_eq_true, if_false]

/-- Settles O35: the tests of R129 fail for exactly the damaged blocks. -/
theorem blockDamaged : Obligations.BlockDamaged := fun _ _ _ _ _ _ _ due =>
  ⟨exec_blockHanded_of_damaged due, exec_blockHanded_of_sound due⟩

/-! ### Blocks accepted -/

/-- R132: what the acceptance of a block changes, for the burst in service. -/
theorem acceptBlock_eq {sv : Service} {i : Nat} {s : State} {p : Peer} (service : s.rxa.service = some sv)
    (peer : s.peer sv.sender = some p) : acceptBlock sv (i + 1) s = { s with
      rxa := { s.rxa with service := some (sv.accepting i) }
      peers := tableSet s.peers sv.sender (some p.acceptingOne) } := by
  rw [acceptBlock, countPeer,
    mapPeer_eq (s := mapReceipt (fun r => { r with bitmap := r.bitmap.set (i + 1 - 1) true }) s) peer]
  simp only [mapReceipt, State.mapRxa, service, Option.map_some]
  rfl

/-- Settles O36: both kinds of duplicate are accepted and nothing else. -/
theorem duplicateAccepted : Obligations.DuplicateAccepted := by
  intro t x bytes b h sv p s due sound peer duplicate
  have accepted : decideBlock sv (b.handed + 1) (readBlockHeader bytes) (blockPayloadOf bytes)
      (handOver t b s) = acceptBlock sv (b.handed + 1) (handOver t b s) := by
    unfold decideBlock
    by_cases before : CompletedBefore s sv (readBlockHeader bytes)
    · exact if_pos ((completedBefore_iff (s := handOver t b s)).mpr before)
    · obtain before' | ⟨pos, e, key, agrees, holds⟩ := duplicate
      · exact absurd before' before
      rw [if_neg (mt (completedBefore_iff (s := handOver t b s)).mp before),
        show tableFind _ (handOver t b s).rxa.table = some (pos, e) from key]
      simp only [agrees, holds, if_true]
  rw [exec_blockHanded_of_sound due sound, accepted,
    acceptBlock_eq (s := handOver t b s) due.service peer]
  rfl

/-! ### Room for a block -/

theorem abandonAt_eq {pos : Nat} {e : Entry} {s : State} (h : tableGet s.rxa.table pos = some e) :
    abandonAt pos s = freedAt pos e s := by
  simp only [abandonAt, h]
  rfl

/-- R133: of a full table the entry that lies furthest back gives way, if it is old. -/
theorem makeRoom_of_old {pos : Nat} {e : Entry} {s : State} (full : none ∉ s.rxa.table)
    (at_pos : tableGet s.rxa.table pos = some e) (old : 20000 ≤ elapsed e.lastTime s.now)
    (oldest : ∀ j f, tableGet s.rxa.table j = some f →
      elapsed f.lastTime s.now < elapsed e.lastTime s.now ∨
      (elapsed f.lastTime s.now = elapsed e.lastTime s.now ∧ pos ≤ j)) :
    makeRoom s = freedAt pos e s := by
  have first : oldestOf s.now (fun e => e.lastTime) (tableEntries s.rxa.table) = some (pos, e) :=
    oldestOf_eq_some (tableEntries_sorted _) (mem_tableEntries.mpr at_pos) fun f hf =>
      oldest f.1 f.2 (mem_tableEntries.mp hf)
  simp only [makeRoom, lowestVacant_eq_none_iff.mpr full, first]
  exact (if_pos old).trans (abandonAt_eq at_pos)

theorem openEntry_stores {sv : Service} {i pos : Nat} {k : BlockHeader} {payload : List Byte}
    {s r : State} (room : makeRoom s = r) (vacant : lowestVacant r.rxa.table = some pos)
    (free : r.bpm.rxFree ≠ 0) : openEntry sv i k payload s =
      storeBlock sv i pos (newEntry sv k payload r.now) r := by
  simp only [openEntry, room, vacant]
  exact if_neg free

/-- R132, case 4: a stale entry of the block's key is freed first. -/
theorem decideBlock_of_stale {sv : Service} {i pos : Nat} {e : Entry} {k : BlockHeader}
    {payload : List Byte} {s : State} (new : ¬CompletedBefore s sv k) (key : KeyAt s sv k pos e)
    (differs : e.agrees k = false) :
    decideBlock sv i k payload s = openEntry sv i k payload (freedAt pos e s) := by
  rw [decideBlock, if_neg (mt completedBefore_iff.mp new), show tableFind _ _ = some (pos, e) from key,
    ← abandonAt_eq (tableFind_eq_some key).1]
  simp only [differs, Bool.false_eq_true, if_false]

/-- R132, R133: a new block is stored in a new entry, in the state with room for it. -/
theorem decideBlock_of_room {sv : Service} {i pos : Nat} {k : BlockHeader} {payload : List Byte}
    {t : Time} {s r : State} (now : s.now = t) (new : ¬CompletedBefore s sv k)
    (room : MakesRoom t s sv k r) (vacant : lowestVacant r.rxa.table = some pos)
    (free : r.bpm.rxFree ≠ 0) :
    decideBlock sv i k payload s = storeBlock sv i pos (newEntry sv k payload t) r := by
  subst now
  cases room with
  | vacant key room =>
    exact (decideBlock_of_noKey new key).trans (openEntry_stores (makeRoom_of_vacant room) vacant free)
  | stale n e key differs =>
    have room : none ∈ (freedAt n e s).rxa.table := by
      by_contra hn
      exact absurd (vacant.symm.trans (lowestVacant_eq_none_iff.mpr hn)) (Option.some_ne_none pos)
    exact (decideBlock_of_stale new key differs).trans
      (openEntry_stores (r := freedAt n e s) (makeRoom_of_vacant room) vacant free)
  | evicted n e key full at_n old oldest =>
    exact (decideBlock_of_noKey new key).trans
      (openEntry_stores (r := freedAt n e s) (makeRoom_of_old full at_n old oldest) vacant free)

/-- Room is made alike with the burst in hand one block further. -/
theorem MakesRoom.handOver {t : Time} {s r : State} {sv : Service} {k : BlockHeader} (b : BurstInHand)
    (room : MakesRoom t s sv k r) : MakesRoom t (handOver t b s) sv k (Machine.handOver t b r) := by
  cases room with
  | vacant key room => exact .vacant key room
  | stale n e key differs => exact .stale n e key differs
  | evicted n e key full at_n old oldest => exact .evicted n e key full at_n old oldest

/-- What making room leaves: free blocks, entries and the abandoned ones counted, and nothing else. -/
theorem MakesRoom.frame {t : Time} {s r : State} {sv : Service} {k : BlockHeader}
    (room : MakesRoom t s sv k r) : ∃ free table n, r = { s with
      bpm := { s.bpm with rxFree := free }
      rxa := { s.rxa with table := table }
      mgu := { s.mgu with counters := { s.mgu.counters with abandoned := n } } } := by
  cases room with
  | vacant key room => exact ⟨_, _, _, rfl⟩
  | stale n e key differs => exact ⟨_, _, _, rfl⟩
  | evicted n e key full at_n old oldest => exact ⟨_, _, _, rfl⟩

/-! ### Blocks stored -/

/-- The state with a block of the burst in service stored in the entry `e` at a position, and its bit set
(R132). -/
def storedIn (sv : Service) (i pos : Nat) (e : Entry) (p : Peer) (s : State) : State :=
  { s with
    bpm := { s.bpm with rxFree := s.bpm.rxFree - 1 }
    rxa := ⟨tableSet s.rxa.table pos (some e), some (sv.accepting i)⟩
    peers := tableSet s.peers sv.sender (some p.acceptingOne) }

theorem storeBlock_eq {sv : Service} {i pos : Nat} {e : Entry} {s : State} {p : Peer}
    (service : s.rxa.service = some sv) (peer : s.peer sv.sender = some p) :
    storeBlock sv (i + 1) pos e s =
      if e.isComplete then completeFrame pos e (storedIn sv i pos e p s) else storedIn sv i pos e p s := by
  have accepted := acceptBlock_eq (i := i)
    (s := (s.mapBpm fun b => { b with rxFree := b.rxFree - 1 }).mapRxa fun r =>
      { r with table := tableSet r.table pos (some e) }) service peer
  simp only [storeBlock, accepted]
  rfl

/-- R132, case 3: a block that its entry misses is stored in it. -/
theorem decideBlock_of_missing {sv : Service} {i pos : Nat} {k : BlockHeader} {bytes : List Byte}
    {t : Time} {s : State} {e : Entry} (now : s.now = t) (new : ¬CompletedBefore s sv k)
    (key : KeyAt s sv k pos e) (agrees : e.agrees k = true) (missing : e.holdsIndex k.index = false)
    (free : s.bpm.rxFree ≠ 0) : decideBlock sv i k (blockPayloadOf bytes) s =
      storeBlock sv i pos (e.adding k bytes t) s := by
  subst now
  rw [decideBlock, if_neg (mt completedBefore_iff.mp new), show tableFind _ _ = some (pos, e) from key]
  simp only [agrees, missing, if_true, Bool.false_eq_true, if_false]
  exact if_neg free

theorem newEntry_isComplete_iff {sv : Service} {k : BlockHeader} {payload : List Byte} {t : Time} :
    (newEntry sv k payload t).isComplete = true ↔ k.total = 0 ∨ (k.total = 1 ∧ k.index = 1) := by
  simp only [Entry.isComplete, newEntry, Entry.holdsIndex, List.all_eq_true, List.mem_range,
    List.any_cons, List.any_nil, Bool.or_false, decide_eq_true_iff]
  constructor
  · intro h
    by_cases h1 : 1 < k.total
    · have := h 0 (by omega)
      have := h 1 h1
      omega
    · by_cases h0 : k.total = 0
      · exact .inl h0
      · exact .inr ⟨by omega, h 0 (by omega)⟩
  · rintro h j hj
    omega

/-- Settles O37: the two ways to a place for the block, and the storing there. -/
theorem blockStored : Obligations.BlockStored := by
  intro t y bytes b h sv p s due sound peer new
  refine ⟨fun pos e key agrees missing free unfinished => ?_, fun r pos room vacant free total => ?_⟩
  · rw [exec_blockHanded_of_sound due sound,
      decideBlock_of_missing (s := handOver t b s) (t := t) rfl new key agrees missing free,
      storeBlock_eq (s := handOver t b s) due.service peer, if_neg (by rw [unfinished]; decide)]
    rfl
  · obtain ⟨freeBlocks, table, n, frame⟩ := room.frame
    have unfinished : ¬(newEntry sv (readBlockHeader bytes) (blockPayloadOf bytes) t).isComplete = true :=
      fun h => by have := newEntry_isComplete_iff.mp h; omega
    rw [exec_blockHanded_of_sound due sound,
      decideBlock_of_room (s := handOver t b s) (t := t) rfl new (room.handOver b) vacant free]
    subst frame
    rw [storeBlock_eq (by exact due.service) (by exact peer), if_neg unfinished]
    rfl

end Sys2Proof.Machine
end

section
/-! A block that completes its frame: a data frame is delivered to the egress FIFO and its source address
learned, a map notice is rejected or installed (R93, R94, R137 to R140, R151). -/

namespace Sys2Proof.Machine

/-! ### A source address is learned -/

theorem learnable_iff {own : Option Addr} {a : Addr} :
    learnable own a = true ↔ isGroup a = false ∧ a ≠ 0 ∧ own ≠ some a := by
  simp [learnable, and_assoc]

/-- R151: the forwarding table and the count of its replacements after the address `a` is met behind a peer
at `t`. -/
structure AddressLearned (t : Time) (a : Addr) (peer : Nat) (own : Option Addr)
    (fwd : List (Option ForwardEntry)) (replaced : Nat) (fwd' : List (Option ForwardEntry))
    (replaced' : Nat) : Prop where
  known : ∀ n f, learnable own a = true → forwardFind a fwd = some (n, f) →
    fwd' = tableSet fwd n (some ⟨a, peer, t⟩) ∧ replaced' = replaced
  vacant : ∀ n, learnable own a = true → forwardFind a fwd = none → lowestVacant fwd = some n →
    fwd' = tableSet fwd n (some ⟨a, peer, t⟩) ∧ replaced' = replaced
  full : ∀ n f, learnable own a = true → forwardFind a fwd = none → (∀ y ∈ fwd, y ≠ none) →
    tableGet fwd n = some f →
    (∀ j g, tableGet fwd j = some g → elapsed g.lastSeen t < elapsed f.lastSeen t ∨
      (elapsed g.lastSeen t = elapsed f.lastSeen t ∧ n ≤ j)) →
    fwd' = tableSet fwd n (some ⟨a, peer, t⟩) ∧ replaced' = satInc replaced
  stands : ¬learnable own a = true → fwd' = fwd ∧ replaced' = replaced

section Learning

variable {s : State} {a : Addr} {peer : Nat}

theorem learnAddress_of_not (h : ¬learnable s.suc.address a = true) : learnAddress a peer s = s :=
  if_neg fun hc => h hc.1

theorem learnAddress_of_known (h : learnable s.suc.address a = true) (active : (s.peer peer).isSome = true)
    {n : Nat} {f : ForwardEntry} (known : forwardFind a s.ptu.fwd = some (n, f)) :
    learnAddress a peer s =
      s.mapPtu fun p => { p with fwd := tableSet p.fwd n (some ⟨a, peer, s.now⟩) } := by
  refine (if_pos ⟨h, active⟩).trans ?_
  simp only [known]

theorem learnAddress_of_vacant (h : learnable s.suc.address a = true)
    (active : (s.peer peer).isSome = true) (new : forwardFind a s.ptu.fwd = none) {n : Nat}
    (vacant : lowestVacant s.ptu.fwd = some n) : learnAddress a peer s =
      s.mapPtu fun p => { p with fwd := tableSet p.fwd n (some ⟨a, peer, s.now⟩) } := by
  refine (if_pos ⟨h, active⟩).trans ?_
  simp only [new, vacant]

theorem learnAddress_of_full (h : learnable s.suc.address a = true) (active : (s.peer peer).isSome = true)
    (new : forwardFind a s.ptu.fwd = none) (full : lowestVacant s.ptu.fwd = none)
    {o : Nat × ForwardEntry}
    (oldest : oldestOf s.now (fun e => e.lastSeen) (tableEntries s.ptu.fwd) = some o) :
    learnAddress a peer s = count (fun c => { c with forwardReplacements := satInc c.forwardReplacements })
      (s.mapPtu fun p => { p with fwd := tableSet p.fwd o.1 (some ⟨a, peer, s.now⟩) }) := by
  refine (if_pos ⟨h, active⟩).trans ?_
  simp only [new, full, oldest]

theorem learnAddress_of_empty (new : forwardFind a s.ptu.fwd = none)
    (full : lowestVacant s.ptu.fwd = none)
    (none_oldest : oldestOf s.now (fun e => e.lastSeen) (tableEntries s.ptu.fwd) = none) :
    learnAddress a peer s = s := by
  unfold learnAddress
  split
  · simp only [new, full, none_oldest]
  · rfl

end Learning

/-- R150, R151: an address met behind an ACTIVE record is learned, and nothing else changes. -/
theorem learnAddress_learned (a : Addr) {peer : Nat} {s : State} (active : (s.peer peer).isSome = true) :
    ∃ fwd n, AddressLearned s.now a peer s.suc.address s.ptu.fwd s.mgu.counters.forwardReplacements fwd n ∧
      learnAddress a peer s = { s with
        ptu := { s.ptu with fwd := fwd }
        mgu := { s.mgu with counters := { s.mgu.counters with forwardReplacements := n } } } := by
  have found : ∀ {n : Nat} {f : ForwardEntry}, tableGet s.ptu.fwd n = some f →
      (∀ j g, tableGet s.ptu.fwd j = some g → elapsed g.lastSeen s.now < elapsed f.lastSeen s.now ∨
        (elapsed g.lastSeen s.now = elapsed f.lastSeen s.now ∧ n ≤ j)) →
      oldestOf s.now (fun e => e.lastSeen) (tableEntries s.ptu.fwd) = some (n, f) := fun at_n first =>
    oldestOf_eq_some (tableEntries_sorted _) (mem_tableEntries.mpr at_n) fun e he =>
      first e.1 e.2 (mem_tableEntries.mp he)
  by_cases h : learnable s.suc.address a = true
  case neg =>
    exact ⟨_, _, ⟨fun _ _ h' => absurd h' h, fun _ h' => absurd h' h, fun _ _ h' => absurd h' h,
      fun _ => ⟨rfl, rfl⟩⟩, learnAddress_of_not h⟩
  cases known : forwardFind a s.ptu.fwd with
  | some o =>
    refine ⟨_, _, ⟨fun n f _ ho => ?_, fun _ _ new => absurd new (by simp [known]),
      fun _ _ _ new => absurd new (by simp [known]), fun h' => absurd h h'⟩,
      learnAddress_of_known h active known⟩
    rw [known] at ho
    exact (Option.some.inj ho) ▸ ⟨rfl, rfl⟩
  | none =>
    cases vacant : lowestVacant s.ptu.fwd with
    | some m =>
      refine ⟨_, _, ⟨fun _ _ _ ho => absurd ho (by simp [known]), fun n _ _ hn => ?_,
        fun _ _ _ _ taken => ?_, fun h' => absurd h h'⟩, learnAddress_of_vacant h active known vacant⟩
      · rw [vacant] at hn
        exact (Option.some.inj hn) ▸ ⟨rfl, rfl⟩
      · have := lowestVacant_eq_none_iff.mpr fun hn => taken none hn rfl
        exact absurd (vacant.symm.trans this) (Option.some_ne_none m)
    | none =>
      cases oldest : oldestOf s.now (fun e => e.lastSeen) (tableEntries s.ptu.fwd) with
      | some o =>
        refine ⟨_, _, ⟨fun _ _ _ ho => absurd ho (by simp [known]),
          fun _ _ _ hn => absurd hn (by simp [vacant]), fun n f _ _ _ at_n first => ?_,
          fun h' => absurd h h'⟩, learnAddress_of_full h active known vacant oldest⟩
        obtain rfl := Option.some.inj (oldest.symm.trans (found at_n first))
        exact ⟨rfl, rfl⟩
      | none =>
        refine ⟨_, _, ⟨fun _ _ _ ho => absurd ho (by simp [known]),
          fun _ _ _ hn => absurd hn (by simp [vacant]), fun n f _ _ _ at_n first => ?_,
          fun h' => absurd h h'⟩, learnAddress_of_empty known vacant oldest⟩
        exact absurd (oldest.symm.trans (found at_n first)) nofun

/-! ### The egress arbiter's choice -/

theorem startNext_chosen (p : Ptu) : Chosen p (startNext p) where
  reply r rest h := by rw [startNext, h]
  data f rest h h' := by rw [startNext, h, h']
  nothing h h' := by rw [startNext, h, h']

/-- R155: the port at `t` after the arbiter has been asked for its choice. -/
structure EgressChosen (t : Time) (p q : Ptu) : Prop where
  waits : p.egress ≠ .idle ∨ pauseHolds t p = true → q = p
  chosen : p.egress = .idle → pauseHolds t p = false → Chosen p q
  fwd : q.fwd = p.fwd

/-- R155: an idle arbiter that no pause holds makes its choice, and nothing else changes. -/
theorem egressChoice_chosen (s : State) :
    ∃ q, EgressChosen s.now s.ptu q ∧ egressChoice s = { s with ptu := q } := by
  obtain ⟨-, -, fwd, -, -⟩ := egressChoice_lengths s
  refine ⟨(egressChoice s).ptu, ⟨fun waits => ?_, fun idle free => ?_, fwd⟩, rfl⟩
  · rw [egressChoice_waits waits]
  · rw [egressChoice_idle idle free]
    exact startNext_chosen s.ptu

/-! ### A data frame is delivered -/

/-- The record of a sender from which the frame of an entry has completed (R137). -/
def Entry.recorded (e : Entry) (p : Peer) : Peer :=
  { p with recent := if e.bcast then p.recent else appendRecent (e.level, e.tag) p.recent }

/-- The frame that a complete data entry gives to the FIFO (R139). -/
def Entry.egressFrame (e : Entry) : EgressFrame := ⟨e.frameBytes, e.blocks.length, e.level⟩

theorem deliverData_room {e : Entry} {s : State} (room : s.ptu.fifo.length < 32)
    (active : (s.peer e.sender).isSome = true) :
    ∃ fwd n q, AddressLearned s.now (addrAt e.frameBytes 7) e.sender s.suc.address s.ptu.fwd
        s.mgu.counters.forwardReplacements fwd n ∧
      EgressChosen s.now { s.ptu with fwd := fwd, fifo := s.ptu.fifo ++ [e.egressFrame] } q ∧
      deliverData e s = { s with
        ptu := q
        mgu := { s.mgu with counters := { s.mgu.counters with
          lineDelivered := satInc s.mgu.counters.lineDelivered, forwardReplacements := n } } } := by
  obtain ⟨fwd, n, learned, eq⟩ := learnAddress_learned (addrAt e.frameBytes 7) (peer := e.sender)
    (s := count (fun c => { c with lineDelivered := satInc c.lineDelivered })
      (s.mapPtu fun p => { p with fifo := p.fifo ++ [e.egressFrame] })) active
  obtain ⟨q, chosen, choice⟩ := egressChoice_chosen { s with
    ptu := { s.ptu with fwd := fwd, fifo := s.ptu.fifo ++ [e.egressFrame] }
    mgu := { s.mgu with counters := { s.mgu.counters with
      lineDelivered := satInc s.mgu.counters.lineDelivered, forwardReplacements := n } } }
  refine ⟨fwd, n, q, learned, chosen, ?_⟩
  rw [deliverData, if_pos (show s.ptu.fifo.length < fifoCapacity from room)]
  exact (congrArg egressChoice eq).trans choice

theorem deliverData_full {e : Entry} {s : State} (full : 32 ≤ s.ptu.fifo.length) : deliverData e s = { s with
    bpm := { s.bpm with rxFree := s.bpm.rxFree + e.blocks.length }
    mgu := latch .egressOverflow { s.mgu with counters := { s.mgu.counters with
      egressOverflows := satInc s.mgu.counters.egressOverflows } } } := by
  rw [deliverData, if_neg (Nat.not_lt.mpr (show fifoCapacity ≤ s.ptu.fifo.length from full))]
  exact raise_eq _ _

/-! ### Completion -/

/-- R137: a frame that is not broadcast joins its sender's recent-completion list. -/
theorem recorded_eq {e : Entry} {s : State} {p : Peer} (peer : s.peer e.sender = some p) :
    (if e.bcast then s else s.mapPeer e.sender fun p =>
      { p with recent := appendRecent (e.level, e.tag) p.recent }) =
    { s with peers := tableSet s.peers e.sender (some (e.recorded p)) } := by
  unfold Entry.recorded
  cases e.bcast with
  | false => exact mapPeer_eq peer
  | true => exact congrArg (fun l => { s with peers := l }) (tableSet_of_get peer).symm

theorem completeFrame_data {pos : Nat} {e : Entry} {s : State} {p : Peer} (peer : s.peer e.sender = some p)
    (kind : e.kind = .data) : completeFrame pos e s =
      (deliverData e { s with peers := tableSet s.peers e.sender (some (e.recorded p)) }).mapRxa
        fun r => { r with table := tableSet r.table pos none } := by
  simp only [completeFrame, recorded_eq peer, kind]

theorem completeFrame_notice {pos : Nat} {e : Entry} {s : State} {p : Peer}
    (peer : s.peer e.sender = some p) (kind : e.kind = .notice) : completeFrame pos e s =
      (deliverNotice e { s with peers := tableSet s.peers e.sender (some (e.recorded p)) }).mapRxa
        fun r => { r with table := tableSet r.table pos none } := by
  simp only [completeFrame, recorded_eq peer, kind]

section Completing

variable {t : Time} {x : SymbolsHeard} {bytes : List Byte} {b : BurstInHand} {h : Header} {sv : Service}
  {pos : Nat} {e : Entry} {p : Peer} {s r : State}

/-- The entry that completes has the sender, broadcast flag and kind of the block. -/
theorem Completes.key (c : Completes t s x bytes b h sv r pos e p) :
    e.sender = sv.sender ∧ e.bcast = sv.bcast ∧ e.kind = (readBlockHeader bytes).kind := by
  rcases c.entry with ⟨e₀, key, agrees, -, rfl, -⟩ | ⟨-, -, -, rfl⟩
  · have hkey := (tableFind_eq_some key).2
    simp only [Entry.hasKey, Bool.and_eq_true, decide_eq_true_iff, beq_iff_eq] at hkey
    simp only [Entry.agrees, Bool.and_eq_true, decide_eq_true_iff] at agrees
    obtain ⟨⟨⟨sender, -⟩, -⟩, bcast⟩ := hkey
    obtain ⟨⟨kind, -⟩, -⟩ := agrees
    exact ⟨sender, bcast, kind⟩
  · exact ⟨rfl, rfl, rfl⟩

/-- The room for the entry that completes. -/
theorem Completes.frame (c : Completes t s x bytes b h sv r pos e p) : ∃ free table n, r = { s with
    bpm := { s.bpm with rxFree := free }
    rxa := { s.rxa with table := table }
    mgu := { s.mgu with counters := { s.mgu.counters with abandoned := n } } } := by
  rcases c.entry with ⟨-, -, -, -, -, rfl⟩ | ⟨room, -, -, -⟩
  · exact ⟨_, _, _, rfl⟩
  · exact room.frame

/-- R132, R138: the block is stored in its entry, and the frame completes. -/
theorem exec_completes (c : Completes t s x bytes b h sv r pos e p) : exec (.blockHanded t x) s =
    .next (completeFrame pos e (storedIn sv b.handed pos e p (handOver t b r))) := by
  obtain ⟨free, table, n, frame⟩ := c.frame
  have stored : decideBlock sv (b.handed + 1) (readBlockHeader bytes) (blockPayloadOf bytes)
      (handOver t b s) = storeBlock sv (b.handed + 1) pos e (handOver t b r) := by
    rcases c.entry with ⟨e₀, key, agrees, missing, rfl, rfl⟩ | ⟨room, vacant, -, rfl⟩
    · exact decideBlock_of_missing (s := handOver t b r) (t := t) rfl c.new key agrees missing c.room
    · exact decideBlock_of_room (s := handOver t b s) (t := t) rfl c.new (room.handOver b) vacant c.room
  have service : r.rxa.service = some sv := by rw [frame]; exact c.due.service
  have peer : r.peer sv.sender = some p := by rw [frame]; exact c.peer
  rw [exec_blockHanded_of_sound c.due c.sound, stored,
    storeBlock_eq (s := handOver t b r) service peer, if_pos c.last]

/-- The state with the last block stored, its bit set, and the frame in its sender's record (R132, R137):
`r` is the state with room for it. -/
def recordedIn (t : Time) (b : BurstInHand) (sv : Service) (pos : Nat) (e : Entry) (p : Peer)
    (s r : State) : State :=
  { handOver t b r with
    bpm := { r.bpm with rxFree := r.bpm.rxFree - 1 }
    rxa := ⟨tableSet r.rxa.table pos (some e), some (sv.accepting b.handed)⟩
    peers := tableSet s.peers sv.sender (some (e.recorded p.acceptingOne)) }

/-- The sender's record in the state with the last block stored. -/
theorem Completes.accepted (c : Completes t s x bytes b h sv r pos e p) :
    (storedIn sv b.handed pos e p (handOver t b r)).peer e.sender = some p.acceptingOne := by
  obtain ⟨free, table, n, rfl⟩ := c.frame
  rw [c.key.1]
  have range := tableGet_range c.peer
  exact tableGet_tableSet_same _ range.1 range.2

theorem Completes.recordedIn (c : Completes t s x bytes b h sv r pos e p) :
    { storedIn sv b.handed pos e p (handOver t b r) with
      peers := tableSet (storedIn sv b.handed pos e p (handOver t b r)).peers e.sender
        (some (e.recorded p.acceptingOne)) } = Machine.recordedIn t b sv pos e p s r := by
  obtain ⟨free, table, n, rfl⟩ := c.frame
  rw [c.key.1]
  simp only [storedIn, Machine.recordedIn, handOver, tableSet_tableSet]

/-- The sender's record stays ACTIVE. -/
theorem Completes.active (c : Completes t s x bytes b h sv r pos e p) :
    ((Machine.recordedIn t b sv pos e p s r).peer e.sender).isSome = true := by
  have range := tableGet_range c.peer
  rw [c.key.1]
  exact congrArg Option.isSome (tableGet_tableSet_same _ range.1 range.2)

theorem exec_completes_data (c : Completes t s x bytes b h sv r pos e p) (kind : e.kind = .data) :
    exec (.blockHanded t x) s = .next ((deliverData e (Machine.recordedIn t b sv pos e p s r)).mapRxa
      fun a => { a with table := tableSet a.table pos none }) := by
  rw [exec_completes c, completeFrame_data c.accepted kind, c.recordedIn]

theorem exec_completes_notice (c : Completes t s x bytes b h sv r pos e p) (kind : e.kind = .notice) :
    exec (.blockHanded t x) s = .next ((deliverNotice e (Machine.recordedIn t b sv pos e p s r)).mapRxa
      fun a => { a with table := tableSet a.table pos none }) := by
  rw [exec_completes c, completeFrame_notice c.accepted kind, c.recordedIn]

end Completing

end Sys2Proof.Machine
end

section
/-! What a completed data frame and a completed map notice leave (R93, R94, R137 to R140, R151). -/

namespace Sys2Proof.Machine

/-- Settles O39: the last block is stored, and the frame delivered or dropped. -/
theorem dataFrameCompletes : Obligations.DataFrameCompletes := by
  intro t x bytes b h sv pos e p s r c kind
  have active := c.active
  have result := exec_completes_data c kind
  obtain ⟨free, table, n, rfl⟩ := c.frame
  refine ⟨fun room => ?_, fun full => ?_⟩
  · obtain ⟨fwd, replaced, q, learned, chosen, eq⟩ := deliverData_room (e := e) (by exact room) active
    rw [eq] at result
    obtain rfl : q.fwd = fwd := chosen.fwd
    refine ⟨_, ⟨result, congrArg (Rxa.mk · _) (tableSet_tableSet _ _ _ _), rfl, rfl, rfl, rfl, rfl, rfl, rfl⟩,
      fun waits => ?_, fun idle free => ?_, fun idle free slot fifo => ?_, rfl, fun m f h known => ?_,
      fun m h new vacant => ?_, fun m f h new taken at_m oldest => ?_, fun h => ?_⟩
    · exact chosen.waits waits
    · exact chosen.chosen idle free
    · have alone : s.ptu.fifo ++ [e.egressFrame] = [e.egressFrame] := by rw [fifo, List.nil_append]
      have data := (chosen.chosen idle free).data e.egressFrame [] slot alone
      exact ⟨congrArg Ptu.fifo data, congrArg Ptu.egress data⟩
    · obtain ⟨fwd, rfl⟩ := learned.known m f (learnable_iff.mpr h) known
      exact ⟨fwd, rfl⟩
    · obtain ⟨fwd, rfl⟩ := learned.vacant m (learnable_iff.mpr h) new vacant
      exact ⟨fwd, rfl⟩
    · obtain ⟨fwd, rfl⟩ := learned.full m f (learnable_iff.mpr h) new taken at_m oldest
      exact ⟨fwd, rfl⟩
    · obtain ⟨fwd, rfl⟩ := learned.stands fun hl => h (learnable_iff.mp hl)
      exact ⟨fwd, rfl⟩
  · rw [deliverData_full (by exact full)] at result
    exact ⟨_, ⟨result, congrArg (Rxa.mk · _) (tableSet_tableSet _ _ _ _), rfl, rfl, rfl, rfl, rfl, rfl, rfl⟩,
      rfl, rfl, rfl⟩

/-! ### A map notice is taken -/

/-- R93: what makes a notice rejected. -/
theorem noticeRejected_iff {notch : List Bool} {slots : List (Option VersionedMap)} :
    noticeRejected notch slots = true ↔ ∃ m, some m ∈ slots ∧ (15 < m.version ∨ (∃ x ∈ m.loads, 10 < x) ∨
      ∃ g, g < 60 ∧ notch.getD g false = true ∧ m.loads.getD g 0 ≠ 0) := by
  rw [noticeRejected, List.any_eq_true]
  constructor
  · rintro ⟨_ | m, hm, bad⟩
    · exact absurd bad Bool.false_ne_true
    · refine ⟨m, hm, ?_⟩
      simpa [or_assoc, groupCount] using bad
  · rintro ⟨m, hm, bad⟩
    exact ⟨some m, hm, by simpa [or_assoc, groupCount] using bad⟩

/-- R94: how one entry of a window list is settled. -/
def settledWindow (gOn : Nat) (slots : List (Option VersionedMap)) (w : Option Nat) : Option Nat :=
  w.bind fun k => (slots.getD k none).bind fun m =>
    if dataBits m.loads ≤ robustBits gOn then none else some k

theorem settleWindows_eq (gOn : Nat) (slots : List (Option VersionedMap)) (ws : WindowList) :
    settleWindows gOn slots ws = ws.map (settledWindow gOn slots) := by
  refine List.map_congr_left fun w _ => ?_
  cases w with
  | none => rfl
  | some k =>
    simp only [settledWindow, Option.bind_some]
    cases slots.getD k none <;> rfl

theorem settleWindows_settled (gOn : Nat) (slots : List (Option VersionedMap)) (ws : WindowList) :
    WindowsSettled gOn slots ws (settleWindows gOn slots ws) := by
  rw [settleWindows_eq]
  refine ⟨List.length_map _, fun w h => ?_, fun w k h absent => ?_, fun w k m h there thin => ?_,
    fun w k m h there more => ?_⟩ <;>
  rw [List.getElem?_map, h, Option.map_some, settledWindow]
  · rfl
  · rw [Option.bind_some, absent]; rfl
  · rw [Option.bind_some, there, Option.bind_some]
    exact congrArg some (if_pos thin)
  · rw [Option.bind_some, there, Option.bind_some]
    exact congrArg some (if_neg (Nat.not_le.mpr more))

section Notices

variable {i : Nat} {bytes : List Byte} {s : State} {p : Peer}

theorem takeNotice_rejected (bad : noticeRejected s.lmd.notch (readNotice bytes).2 = true) :
    takeNotice i bytes s = { s with mgu := { s.mgu with counters := { s.mgu.counters with
      noticesRejected := satInc s.mgu.counters.noticesRejected } } } :=
  if_pos bad

theorem takeNotice_installed (good : ¬noticeRejected s.lmd.notch (readNotice bytes).2 = true)
    (peer : s.peer i = some p) : takeNotice i bytes s = { s with
      peers := tableSet s.peers i (some { p with
        txMaps := some (installedSet s.gOn s.now (readNotice bytes)), fallback := 0 })
      mgu := latch .mapInstalled s.mgu } := by
  refine (if_neg good).trans ?_
  rw [mapPeer_eq peer]
  rfl

end Notices

/-- R129: a sound block of a notice is of a burst that is not broadcast. -/
theorem Completes.unicast {t : Time} {x : SymbolsHeard} {bytes : List Byte} {b : BurstInHand} {h : Header}
    {sv : Service} {pos : Nat} {e : Entry} {p : Peer} {s r : State}
    (c : Completes t s x bytes b h sv r pos e p) (kind : e.kind = .notice) : e.bcast = false := by
  obtain ⟨-, bcast, kind'⟩ := c.key
  rw [bcast, ← Bool.not_eq_true]
  intro broadcast
  refine c.sound ?_
  simp only [Damaged]
  exact .inr (.inr (.inr (.inr (.inr (.inr (.inr (.inr (.inr
    ⟨kind'.symm.trans kind, .inr (.inr (.inr broadcast))⟩))))))))

/-- Settles O40: the last block is stored, and the notice rejected or installed. -/
theorem noticeCompletes : Obligations.NoticeCompletes := by
  intro t x bytes b h sv pos e p s r c kind
  have result := exec_completes_notice c kind
  have recorded : e.recorded p.acceptingOne =
      { p.acceptingOne with recent := appendRecent (e.level, e.tag) p.recent } := by
    rw [Entry.recorded, c.unicast kind]
    rfl
  have range := tableGet_range c.peer
  have peer : (recordedIn t b sv pos e p s r).peer e.sender = some (e.recorded p.acceptingOne) := by
    rw [c.key.1]
    exact tableGet_tableSet_same _ range.1 range.2
  obtain ⟨free, table, n, rfl⟩ := c.frame
  refine ⟨fun bad => ?_, fun good => ⟨_, settleWindows_settled _ _ _,
    by simp [settleWindows, readNotice, windowCount], ?_⟩⟩
  · rw [deliverNotice, takeNotice_rejected (by exact noticeRejected_iff.mpr bad)] at result
    refine result.trans (congrArg Host.Outcome.next ?_)
    simp only [State.mapBpm, State.mapRxa, recordedIn, tableSet_tableSet, recorded]
    rfl
  · rw [deliverNotice, takeNotice_installed (by exact fun hr => good (noticeRejected_iff.mp hr)) peer] at result
    refine result.trans (congrArg Host.Outcome.next ?_)
    rw [c.key.1]
    simp only [State.mapBpm, State.mapRxa, recordedIn, tableSet_tableSet, recorded]
    rfl

end Sys2Proof.Machine
end

section
/-! Timers of records, of reassembly and of forwarding entries; the end of a reception and the receipt; and
egress (R31, R34, R55, R62, R84, R99, R135, R147, R152 to R155). -/

namespace Sys2Proof.Machine

/-! ### Timers -/

/-- A timer of a record that has come changes the record alone. -/
theorem timePeer_changes {i : Nat} {expire : Time → Peer → Peer} {s : State} {p q : Peer}
    (peer : s.peer i = some p) (h : expire s.now p = q) :
    timePeer i expire s = { s with peers := tableSet s.peers i (some q) } := by
  rw [timePeer, mapPeer_eq peer, h]

theorem timePeer_stands {i : Nat} {expire : Time → Peer → Peer} {s : State} {p : Peer}
    (peer : s.peer i = some p) (h : expire s.now p = p) : timePeer i expire s = s := by
  rw [timePeer_changes peer h, tableSet_of_get peer]

section Records

variable {p : Peer} {t u : Time}

theorem expireMapSet_due {m : TxMapSet} (h : p.txMaps = some m)
    (due : reached t (after m.installed 60000000) = true) : expireMapSet t p = { p with txMaps := none } := by
  simp only [expireMapSet, h]
  exact if_pos due

theorem expireMapSet_early {m : TxMapSet} (h : p.txMaps = some m)
    (early : reached t (after m.installed 60000000) = false) : expireMapSet t p = p := by
  simp only [expireMapSet, h]
  exact if_neg (Bool.eq_false_iff.mp early)

theorem expireUnicast_due (h : p.lastUnicast = some u) (due : 10000000 < elapsed u t) :
    expireUnicast t p = { p with lastUnicast := none } := by
  simp only [expireUnicast, h]
  exact if_pos due

theorem expireUnicast_early (h : p.lastUnicast = some u) (early : elapsed u t ≤ 10000000) :
    expireUnicast t p = p := by
  simp only [expireUnicast, h]
  exact if_neg (Nat.not_lt.mpr early)

theorem expireNotice_due (h : p.lastNotice = some u) (due : 20000000 ≤ elapsed u t) :
    expireNotice t p = { p with lastNotice := none } := by
  simp only [expireNotice, h]
  exact if_pos due

theorem expireNotice_early (h : p.lastNotice = some u) (early : elapsed u t < 20000000) :
    expireNotice t p = p := by
  simp only [expireNotice, h]
  exact if_neg (Nat.not_le.mpr early)

theorem expireResend_due (h : p.robustResend = some u) (due : 1000000 ≤ elapsed u t) :
    expireResend t p = { p with robustResend := none } := by
  simp only [expireResend, h]
  exact if_pos due

theorem expireResend_early (h : p.robustResend = some u) (early : elapsed u t < 1000000) :
    expireResend t p = p := by
  simp only [expireResend, h]
  exact if_neg (Nat.not_le.mpr early)

end Records

section Entries

variable {s : State} {i : Nat}

theorem reassemblyTimeout_due {e : Entry} (h : tableGet s.rxa.table i = some e)
    (due : 250000 ≤ elapsed e.lastTime s.now) : reassemblyTimeout i s = freedAt i e s := by
  simp only [reassemblyTimeout, h]
  exact (if_pos due).trans (abandonAt_eq h)

theorem reassemblyTimeout_early {e : Entry} (h : tableGet s.rxa.table i = some e)
    (early : elapsed e.lastTime s.now < 250000) : reassemblyTimeout i s = s := by
  simp only [reassemblyTimeout, h]
  exact if_neg (Nat.not_le.mpr early)

theorem forwardingAging_due {e : ForwardEntry} (h : tableGet s.ptu.fwd i = some e)
    (due : 300000000 ≤ elapsed e.lastSeen s.now) : forwardingAging i s =
      { s with ptu := { s.ptu with fwd := tableSet s.ptu.fwd i none } } := by
  simp only [forwardingAging, h]
  exact if_pos due

theorem forwardingAging_early {e : ForwardEntry} (h : tableGet s.ptu.fwd i = some e)
    (early : elapsed e.lastSeen s.now < 300000000) : forwardingAging i s = s := by
  simp only [forwardingAging, h]
  exact if_neg (Nat.not_le.mpr early)

end Entries

/-- Settles O51: each timer before its time and when it has come. -/
theorem timersExpire : Obligations.TimersExpire := by
  intro t u i s live
  refine ⟨fun p peer => ?_, fun e h => ⟨fun due => ?_, fun early => ?_⟩,
    fun e h => ⟨fun due => ?_, fun early => ?_⟩⟩
  · have changes {c : Instr} {expire : Time → Peer → Peer} {q : Peer} (now : c.time = t)
        (timed : effect c = timePeer i expire) (he : expire t p = q) :
        exec c s = .next { s with now := t, peers := tableSet s.peers i (some q) } :=
      exec_eq live (by rw [now, timed, timePeer_changes (s := { s with now := t }) peer he])
    have stands {c : Instr} {expire : Time → Peer → Peer} (now : c.time = t)
        (timed : effect c = timePeer i expire) (he : expire t p = p) :
        exec c s = .next { s with now := t } :=
      exec_eq live (by rw [now, timed, timePeer_stands (s := { s with now := t }) peer he])
    exact ⟨fun m h => ⟨fun due => changes rfl rfl (expireMapSet_due h due),
        fun early => stands rfl rfl (expireMapSet_early h early)⟩,
      fun h => ⟨fun due => changes rfl rfl (expireUnicast_due h due),
        fun early => stands rfl rfl (expireUnicast_early h early)⟩,
      fun h => ⟨fun due => changes rfl rfl (expireNotice_due h due),
        fun early => stands rfl rfl (expireNotice_early h early)⟩,
      fun h => ⟨fun due => changes rfl rfl (expireResend_due h due),
        fun early => stands rfl rfl (expireResend_early h early)⟩⟩
  · exact exec_eq live (reassemblyTimeout_due (s := { s with now := t }) h due)
  · exact exec_eq live (reassemblyTimeout_early (s := { s with now := t }) h early)
  · exact exec_eq live (forwardingAging_due (s := { s with now := t }) h due)
  · exact exec_eq live (forwardingAging_early (s := { s with now := t }) h early)

/-! ### The end of a reception -/

section Reception

variable {s : State} {b : BurstInHand} {h : Header}

theorem rxPayloadEnd_due (receive : s.lmd.activity = .receive) (hand : s.lmd.inHand = some b)
    (header : b.header = some h) (stage : b.stage = .payload) (handed : b.handed = h.blocks)
    (due : reached s.now (after b.start (160 + 40 * h.symbols)) = true) : rxPayloadEnd s =
      if h.dest = broadcastAddr then endReception (s.mapRxa fun r => { r with service := none })
      else s.mapLmd fun m => { m with inHand := some { b with stage := .ended } } := by
  simp only [rxPayloadEnd, hand, header]
  exact if_pos ⟨receive, stage, handed, due⟩

theorem sendReceipt_due {sv : Service} {r : Receipt} (receive : s.lmd.activity = .receive)
    (hand : s.lmd.inHand = some b) (header : b.header = some h)
    (stage : b.stage = .ended ∨ b.stage = .refused) (service : s.rxa.service = some sv)
    (receipt : sv.receipt = some r)
    (due : reached s.now (after b.start (220 + 40 * h.symbols)) = true) :
    sendReceipt s = startReceipt (after b.start (220 + 40 * h.symbols)) r s := by
  simp only [sendReceipt, hand, builtReceipt, service, Option.bind_some, receipt, header]
  exact if_pos ⟨receive, stage, due⟩

theorem receiptEnd_due (sending : s.lmd.activity = .sendReceipt)
    (due : reached s.now (after s.lmd.receiptStart 80) = true) :
    receiptEnd s = resumeListen (silence s) :=
  if_pos ⟨sending, due⟩

end Reception

theorem preambleSymbol_eq (notch : List Bool) :
    preambleSymbol notch = notch.map fun n => if n then .silent else .preamble := rfl

/-- Settles O41, instant by instant. -/
theorem receptionEnds : Obligations.ReceptionEnds := by
  intro t b h s live
  refine ⟨fun receive hand header stage handed due => ⟨fun bcast => ?_, fun unicast => ?_⟩,
    fun sv r a receive hand header stage service receipt address due => ?_, fun sending due => ?_⟩
  · exact exec_eq live ((rxPayloadEnd_due (s := { s with now := t }) receive hand header stage handed
      due).trans (if_pos bcast))
  · exact exec_eq live ((rxPayloadEnd_due (s := { s with now := t }) receive hand header stage handed
      due).trans (if_neg unicast))
  · refine exec_eq live ((sendReceipt_due (s := { s with now := t }) receive hand header stage service
      receipt due).trans ?_)
    simp only [startReceipt, State.mapLmd, State.mapRxa, address, Option.getD_some]
    rfl
  · exact exec_eq live (receiptEnd_due (s := { s with now := t }) sending due)

/-! ### Egress -/

section Egress

variable {s : State}

theorem portOutput_data {f : EgressFrame} (live : s.nrstLow = false) (h : s.ptu.egress = .sendingData f) :
    portOutput s = .frame f.bytes := by
  simp [portOutput, live, h]

theorem portOutput_reply {r : Reply} (live : s.nrstLow = false) (h : s.ptu.egress = .sendingReply r) :
    portOutput s = .frame (replyOnWire r.bytes) := by
  simp [portOutput, live, h]

theorem portOutput_nothing (live : s.nrstLow = false) (h : s.ptu.egress = .idle ∨ s.ptu.egress = .gap) :
    portOutput s = .nothing := by
  rcases h with h | h <;> simp [portOutput, live, h]

theorem egressLastByte_data {f : EgressFrame} (h : s.ptu.egress = .sendingData f) : egressLastByte s =
    beginGap (count (fun c => { c with portSent := satInc c.portSent })
      (s.mapBpm fun b => { b with rxFree := b.rxFree + f.blocks })) := by
  simp only [egressLastByte, h]

theorem egressLastByte_reply {r : Reply} (h : s.ptu.egress = .sendingReply r) : egressLastByte s =
    beginGap ((count (fun c => { c with repliesSent := satInc c.repliesSent }) s).mapMgu fun m =>
      { m with restart := if r.restart then .due else m.restart }) := by
  simp only [egressLastByte, h]

theorem pauseHolds_iff {t : Time} {p : Ptu} :
    pauseHolds t p = true ↔ ∃ e, p.pauseEnd = some e ∧ reached t e = false := by
  cases h : p.pauseEnd <;> simp [pauseHolds, h]

/-- R155: asked when idle, the arbiter waits for a pause that holds, and chooses otherwise. -/
theorem egressChoice_of_idle (idle : s.ptu.egress = .idle) :
    (pauseHolds s.now s.ptu = true → egressChoice s = s) ∧
    (pauseHolds s.now s.ptu = false → ∃ q, Chosen s.ptu q ∧ egressChoice s = { s with ptu := q }) := by
  obtain ⟨q, chosen, choice⟩ := egressChoice_chosen s
  exact ⟨fun holds => egressChoice_waits (.inr holds), fun free => ⟨q, chosen.chosen idle free, choice⟩⟩

theorem pauseEnd_early {e : Time} (h : s.ptu.pauseEnd = some e) (early : reached s.now e = false) :
    pauseEnd s = s := by
  simp only [pauseEnd, h]
  exact if_neg (Bool.eq_false_iff.mp early)

theorem pauseEnd_due {e : Time} (h : s.ptu.pauseEnd = some e) (due : reached s.now e = true) :
    pauseEnd s = egressChoice (s.mapPtu fun p => { p with pauseEnd := none }) := by
  simp only [pauseEnd, h]
  exact if_pos due

theorem replyPlaced_full {r : Reply} (h : s.mgu.service = some r) (full : 2 ≤ s.ptu.slot.length) :
    replyPlaced s = s := by
  simp only [replyPlaced, h]
  exact if_neg (Nat.not_lt.mpr full)

/-- R164: a reply that waited is placed as one that is offered with room in the slot. -/
theorem replyPlaced_room {r : Reply} (h : s.mgu.service = some r) (room : s.ptu.slot.length < 2) :
    replyPlaced s = offerReply r (s.mapMgu fun m => { m with service := none }) := by
  simp only [replyPlaced, h]
  exact (if_pos room).trans (if_pos (by exact room)).symm

end Egress

/-- Settles O55, clause by clause. -/
theorem egressGoesOn : Obligations.EgressGoesOn := by
  intro t s live
  refine ⟨fun f h => portOutput_data live h, fun r h => ⟨_, rfl, portOutput_reply live h⟩,
    fun h => portOutput_nothing live h, fun f h => ?_, fun r h => ?_,
    fun gap => ⟨fun e he early => ?_, fun free => ?_⟩,
    fun e he => ⟨fun early => ?_, fun due busy => ?_, fun due idle => ?_⟩,
    fun r h => ⟨fun full => ?_, fun room => ?_⟩⟩
  · exact exec_eq live (egressLastByte_data (s := { s with now := t }) h)
  · exact exec_eq live (egressLastByte_reply (s := { s with now := t }) h)
  · have holds : pauseHolds t { s.ptu with egress := .idle } = true := pauseHolds_iff.mpr ⟨e, he, early⟩
    exact exec_eq live ((if_pos gap).trans ((egressChoice_of_idle
      (s := { s with now := t, ptu := { s.ptu with egress := .idle } }) rfl).1 holds))
  · have allowed : pauseHolds t { s.ptu with egress := .idle } = false := Bool.eq_false_iff.mpr fun holds => by
      obtain ⟨e, he, early⟩ := pauseHolds_iff.mp holds
      exact absurd ((free e he).symm.trans early) (by decide)
    obtain ⟨q, chosen, choice⟩ := (egressChoice_of_idle
      (s := { s with now := t, ptu := { s.ptu with egress := .idle } }) rfl).2 allowed
    exact ⟨q, chosen, exec_eq live ((if_pos gap).trans choice)⟩
  · exact exec_eq live (pauseEnd_early (s := { s with now := t }) he early)
  · exact exec_eq live ((pauseEnd_due (s := { s with now := t }) he due).trans
      (egressChoice_waits (.inl (by exact busy))))
  · obtain ⟨q, chosen, choice⟩ := (egressChoice_of_idle
      (s := { s with now := t, ptu := { s.ptu with pauseEnd := none } }) idle).2 rfl
    exact ⟨q, chosen, exec_eq live ((pauseEnd_due (s := { s with now := t }) he due).trans choice)⟩
  · exact exec_eq live (replyPlaced_full (s := { s with now := t }) h full)
  · exact ⟨_, exec_eq live (replyPlaced_room (s := { s with now := t }) h room),
      offerReply_offered r _⟩

end Sys2Proof.Machine
end

section
/-! What each group carries on a map, and this station's burst on the line (R18, R20, R24, R25, R28, R35). -/

namespace Sys2Proof.Machine

/-! ### What a group carries -/

/-- R20, R24: on the robust map. -/
theorem placeRobust_carries {notch coded : List Bool} (len : coded.length = 4 * groupsOn notch) {g : Nat}
    {y : GroupSignal} (h : (placeRobust notch coded)[g]? = some y) : (notch[g]? = some true ∧ y = .silent) ∨
      (notch[g]? = some false ∧
        ∃ a b c d : Bool, y = .carriers ([a, b, c, d].flatMap fun v => List.replicate 4 [v])) := by
  induction notch generalizing coded g with
  | nil => exact nomatch h
  | cons n notch ih =>
    rw [groupsOn_cons] at len
    cases n with
    | true =>
      cases g with
      | zero => exact .inl ⟨rfl, (Option.some.inj h).symm⟩
      | succ g => exact ih (by simpa using len) h
    | false =>
      cases g with
      | zero =>
        match coded, len with
        | a :: b :: c :: d :: rest, _ => exact .inr ⟨rfl, a, b, c, d, (Option.some.inj h).symm⟩
        | [], len | [_], len | [_, _], len | [_, _, _], len => simp at len <;> omega
      | succ g => exact ih (coded := coded.drop 4) (by rw [List.length_drop]; simp at len; omega) h

/-- R20, R25: on a window map. -/
theorem placeLoads_carries {loads : List Nat} {coded : List Bool} (len : rawBits loads ≤ coded.length)
    {g : Nat} {y : GroupSignal} (h : (placeLoads loads coded)[g]? = some y) :
    (loads.getD g 0 = 0 → y = .silent) ∧ (loads.getD g 0 ≠ 0 →
      ∃ bits, y = .carriers bits ∧ bits.length = 16 ∧ ∀ c ∈ bits, c.length = loads.getD g 0) := by
  induction loads generalizing coded g with
  | nil => exact nomatch h
  | cons b loads ih =>
    cases b with
    | zero =>
      cases g with
      | zero => exact ⟨fun _ => (Option.some.inj h).symm, fun h0 => absurd rfl h0⟩
      | succ g => exact ih (by simpa [rawBits] using len) h
    | succ b =>
      have more : 16 * (b + 1) + rawBits loads ≤ coded.length := by simpa [rawBits, Nat.mul_add] using len
      cases g with
      | zero =>
        refine ⟨nofun, fun _ => ⟨_, (Option.some.inj h).symm, by simp, fun c hc => ?_⟩⟩
        obtain ⟨k, hk, rfl⟩ := List.mem_map.mp hc
        have bound := Nat.mul_le_mul_left (b + 1) (List.mem_range.mp hk : k + 1 ≤ 16)
        rw [Nat.mul_succ] at bound
        rw [List.length_take, List.length_drop, List.getD_cons_zero]
        omega
      | succ g => exact ih (coded := coded.drop (16 * (b + 1))) (by rw [List.length_drop]; omega) h

theorem maskLoads_getD {notch : List Bool} {loads : List Nat} (len : loads.length = notch.length) (g : Nat) :
    (maskLoads notch loads).getD g 0 = if notch.getD g false then 0 else loads.getD g 0 := by
  induction notch generalizing loads g with
  | nil =>
    obtain rfl : loads = [] := List.length_eq_zero_iff.mp len
    rfl
  | cons n notch ih =>
    match loads, len with
    | b :: loads, len =>
      cases g with
      | zero => simp [maskLoads]
      | succ g => exact ih (by simpa using len) g

theorem rawBits_maskLoads_le (notch : List Bool) (loads : List Nat) :
    rawBits (maskLoads notch loads) ≤ rawBits loads := by
  induction notch generalizing loads with
  | nil => simp [maskLoads, rawBits]
  | cons n notch ih =>
    cases loads with
    | nil => simp [maskLoads, rawBits]
    | cons b loads =>
      have := ih loads
      simp only [rawBits, maskLoads, List.zipWith_cons_cons, List.sum_cons] at this ⊢
      cases n <;> simp only [if_true, Bool.false_eq_true, if_false] <;> omega

/-- R20, R24, R25: what each group of a symbol carries on its map. -/
theorem mapSymbol_carries {notch : List Bool} {map : PayloadMap} {data : List Bool}
    (len : ∀ loads, map = .window loads → loads.length = notch.length) {g : Nat} {y : GroupSignal}
    (h : (mapSymbol notch map data)[g]? = some y) : GroupCarries notch map g y := by
  cases map with
  | robust =>
    rcases placeRobust_carries (codeWord_length _ _ _) h with ⟨on, rfl⟩ | ⟨off, carried⟩
    · exact ⟨fun _ => rfl, fun off => absurd (on.symm.trans off) (by simp), nofun, nofun⟩
    · refine ⟨fun on => ?_, fun _ _ => carried, nofun, nofun⟩
      rw [List.getD_eq_getElem?_getD, off] at on
      exact absurd on Bool.false_ne_true
  | window loads =>
    obtain ⟨silent, loaded⟩ := placeLoads_carries
      ((rawBits_maskLoads_le notch loads).trans (codeWord_length _ _ _).ge) h
    rw [maskLoads_getD (len loads rfl)] at silent loaded
    refine ⟨fun on => silent (if_pos on), nofun, fun l hl zero => ?_, fun l off hl more => ?_⟩
    · obtain rfl := PayloadMap.window.inj hl
      exact silent (by rw [zero]; exact ite_self 0)
    · obtain rfl := PayloadMap.window.inj hl
      rw [List.getD_eq_getElem?_getD, off] at loaded
      exact loaded more

theorem mapSymbol_length_of {notch : List Bool} {map : PayloadMap}
    (len : ∀ loads, map = .window loads → loads.length = notch.length) (data : List Bool) :
    (mapSymbol notch map data).length = notch.length := by
  cases map with
  | robust => exact placeRobust_length _ _
  | window loads =>
    simp [mapSymbol, windowSymbol, placeLoads_length, maskLoads, len loads rfl]

/-! ### The burst begins and ends -/

theorem after_after (t : Time) (a b : Nat) : after (after t a) b = after t (a + b) := by
  rw [after, after, after, BitVec.ofNat_add, BitVec.add_assoc]

section OwnBurst

variable {s : State} {b : BurstOnLine}

theorem burstStart_due (line : s.tsc.onLine = some b) (sending : s.clc.medium = .sending)
    (waits : s.lmd.activity ≠ .sendBurst) (due : reached s.now s.lcu.latchStart = true) :
    burstStart s = (dropBurstInHand s).mapLmd fun m => { m with
      activity := .sendBurst, energy := none
      lineOut := .burst (List.replicate 2 (preambleSymbol m.notch))
        (mapSymbols m.notch .robust 2 (headerSymbols s.gOn (ownHeader s b)))
        (mapSymbols m.notch b.map b.symbols (payloadBits b.symbols b.dataBits b.blocks)) } := by
  simp only [burstStart, line]
  exact if_pos ⟨sending, waits, due⟩

theorem ownPayloadEnd_due (line : s.tsc.onLine = some b) (sending : s.lmd.activity = .sendBurst)
    (due : reached s.now (after s.lcu.latchStart (160 + 40 * b.symbols)) = true) :
    ownPayloadEnd s = endOwnPayload b (after s.lcu.latchStart (160 + 40 * b.symbols)) s := by
  simp only [ownPayloadEnd, line]
  exact if_pos ⟨sending, due⟩

end OwnBurst

theorem ownHeader_eq {s : State} {a : Addr} {label : BitVec 16} (address : s.suc.address = some a)
    (own : s.suc.label = some label) (b : BurstOnLine) : ownHeader s b =
      ⟨label, a, b.destAddr, s.lcu.latchPhase, b.selector, b.symbols, b.refs.length⟩ := by
  rw [ownHeader, own, address]
  rfl

theorem dropBurstInHand_none {s : State} (h : s.lmd.inHand = none) : dropBurstInHand s = s := by
  simp only [dropBurstInHand, h]

theorem dropBurstInHand_some {s : State} {x : BurstInHand} (h : s.lmd.inHand = some x) :
    dropBurstInHand s = { s with
      lmd := backToListen s.now s.lmd, rxa := { s.rxa with service := none } } := by
  simp only [dropBurstInHand, h]
  rfl

theorem endOwnPayload_peer {b : BurstOnLine} {i : Nat} (dest : b.dest = .peer i) (stop : Time) (s : State) :
    endOwnPayload b stop s = { s with
      lmd := { s.lmd with
        activity := .receiptWait, lineOut := .silent, energy := none, quietFrom := s.now
        expect := some { start := after stop 60, dest := b.destAddr, blocks := b.refs.length } }
      clc := { s.clc with medium := .awaitReceipt } } := by
  simp only [endOwnPayload, dest]
  rfl

/-- Settles O45: the burst at its start and at its payload end, and its symbols group by group. -/
theorem burstGoes : Obligations.BurstGoes := by
  refine ⟨fun t b a label s live line address own => ⟨fun sending waits due => ?_, fun i dest sending due => ?_⟩,
    fun notch map k data x len hx => ?_⟩
  · have start := burstStart_due (s := { s with now := t }) line sending waits due
    rw [ownHeader_eq (s := { s with now := t }) address own b] at start
    refine ⟨fun idle => exec_eq live (start.trans ?_), fun hand => exec_eq live (start.trans ?_)⟩
    · rw [dropBurstInHand_none (by exact idle)]
      rfl
    · obtain ⟨x, hx⟩ := Option.ne_none_iff_exists'.mp hand
      rw [dropBurstInHand_some (by exact hx)]
      rfl
  · refine exec_eq live ((ownPayloadEnd_due (s := { s with now := t }) line sending due).trans ?_)
    rw [endOwnPayload_peer dest, after_after, show 160 + 40 * b.symbols + 60 = 220 + 40 * b.symbols by omega]
  · obtain ⟨i, -, rfl⟩ := List.mem_map.mp hx
    exact ⟨by simp [mapSymbols], mapSymbol_length_of len _, fun g y h => mapSymbol_carries len h⟩

end Sys2Proof.Machine
end

section
/-! The prospective claim level, and the train that a claim decision forms (R112 to R114, R116). -/

namespace Sys2Proof.Machine

/-! ### The prospective claim level -/

theorem topQueue_eq_none_iff {q : Tsc} :
    topQueue q = none ↔ ∀ j, j ≤ 7 → j ≤ q.floor → queueAt q j = [] := by
  simp only [topQueue, List.find?_eq_none, List.mem_range, levelCount]
  refine forall_congr' fun j => ⟨fun h hj hf => ?_, fun h hj => ?_⟩
  · have := h (by omega)
    simpa [hf] using this
  · simp only [Bool.and_eq_true, decide_eq_true_iff, Bool.not_eq_true', not_and, Bool.not_eq_false,
      List.isEmpty_iff]
    exact h (by omega)

theorem topQueue_eq_some {q : Tsc} {l : Nat} (h : topQueue q = some l) :
    l ≤ 7 ∧ l ≤ q.floor ∧ queueAt q l ≠ [] ∧ ∀ j, j < l → queueAt q j = [] := by
  obtain ⟨found, i, hi, hl, before⟩ := List.find?_eq_some_iff_getElem.mp h
  simp only [levelCount, List.length_range] at hi
  simp only [List.getElem_range] at hl before
  subst hl
  simp only [Bool.and_eq_true, decide_eq_true_iff, Bool.not_eq_true', List.isEmpty_eq_false_iff] at found
  obtain ⟨floor, filled⟩ := found
  refine ⟨by omega, floor, filled, fun j hj => ?_⟩
  have := before j hj
  simpa [show j ≤ q.floor by omega] using this

theorem activeClaim_eq_some_iff {q : Tsc} {l : Nat} :
    activeClaim q = some l ↔ l ≤ q.floor ∧ ∃ a, q.active = some a ∧ a.level = l := by
  unfold activeClaim
  cases q.active with
  | none => simp
  | some a =>
    simp only [Option.some.injEq, Option.ite_none_right_eq_some, exists_eq_left']
    constructor
    · rintro ⟨floor, rfl⟩; exact ⟨floor, rfl⟩
    · rintro ⟨floor, rfl⟩; exact ⟨floor, rfl⟩

theorem newTrainLevel_of_none {q : Tsc} (top : topQueue q = none) : newTrainLevel q = none := by
  cases active : q.active <;> simp [newTrainLevel, top]

theorem newTrainLevel_of_urgent {q : Tsc} {l : Nat} (top : topQueue q = some l)
    (urgent : ∀ a, q.active = some a → l < a.level) : newTrainLevel q = some l := by
  cases active : q.active with
  | none => simp [newTrainLevel, top, active]
  | some a => simp [newTrainLevel, top, active, urgent a active]

theorem newTrainLevel_of_active {q : Tsc} {l : Nat} {a : Train} (top : topQueue q = some l)
    (active : q.active = some a) (more : a.level ≤ l) : newTrainLevel q = none := by
  simp [newTrainLevel, top, active, more]

/-- R113: the two ways to a prospective claim level, and to none. -/
theorem prospectiveLevel_cases (q : Tsc) :
    (∃ l, newTrainLevel q = some l ∧ prospectiveLevel q = some l) ∨
    (newTrainLevel q = none ∧ prospectiveLevel q = activeClaim q) := by
  cases h : newTrainLevel q with
  | none => exact .inr ⟨rfl, by simp [prospectiveLevel, h]⟩
  | some l => exact .inl ⟨l, rfl, by simp [prospectiveLevel, h]⟩

/-- The smallest level at or below the floor of a non-empty queue or of the active train (R113). -/
structure SmallestClaim (q : Tsc) (l : Nat) : Prop where
  floor : l ≤ q.floor
  claims : (l ≤ 7 ∧ queueAt q l ≠ []) ∨ ∃ a, q.active = some a ∧ a.level = l
  first : ∀ j, j < l → j ≤ 7 → queueAt q j = []
  least : ∀ a, q.active = some a → l ≤ a.level

theorem SmallestClaim.unique {q : Tsc} {l k : Nat} (hl : SmallestClaim q l) (hk : SmallestClaim q k) :
    l ≤ k := by
  rcases hk.claims with ⟨seven, filled⟩ | ⟨a, active, rfl⟩
  · by_contra less
    exact filled (hl.first k (Nat.lt_of_not_le less) seven)
  · exact hl.least a active

theorem smallestClaim_of_some {q : Tsc} {l : Nat} (h : prospectiveLevel q = some l) : SmallestClaim q l := by
  rcases prospectiveLevel_cases q with ⟨k, train, e⟩ | ⟨noTrain, e⟩
  · obtain rfl : k = l := Option.some.inj (e.symm.trans h)
    obtain ⟨-, top, urgent⟩ := newTrainLevel_eq_some train
    obtain ⟨seven, floor, filled, first⟩ := topQueue_eq_some top
    exact ⟨floor, .inl ⟨seven, filled⟩, fun j hj _ => first j hj, fun a ha => (urgent a ha).le⟩
  · obtain ⟨floor, a, active, rfl⟩ := activeClaim_eq_some_iff.mp (e.symm.trans h)
    refine ⟨floor, .inr ⟨a, active, rfl⟩, fun j hj seven => ?_, fun b hb => ?_⟩
    · cases top : topQueue q with
      | none => exact topQueue_eq_none_iff.mp top j seven (by omega)
      | some k =>
        have more : ¬k < a.level := fun less => by
          have := newTrainLevel_of_urgent top fun b hb => Option.some.inj (active.symm.trans hb) ▸ less
          exact absurd (noTrain.symm.trans this) nofun
        obtain ⟨-, -, -, first⟩ := topQueue_eq_some top
        exact first j (by omega)
    · rw [Option.some.inj (active.symm.trans hb)]

theorem prospectiveLevel_eq_none_iff {q : Tsc} : prospectiveLevel q = none ↔
    (∀ j, j ≤ 7 → j ≤ q.floor → queueAt q j = []) ∧ ∀ a, q.active = some a → q.floor < a.level := by
  constructor
  · intro h
    rcases prospectiveLevel_cases q with ⟨k, -, e⟩ | ⟨noTrain, e⟩
    · exact absurd (h.symm.trans e) nofun
    have idle : ∀ a, q.active = some a → q.floor < a.level := fun a ha => by
      by_contra floor
      have := activeClaim_eq_some_iff.mpr ⟨Nat.le_of_not_lt floor, a, ha, rfl⟩
      exact absurd (h.symm.trans (e.trans this)) nofun
    refine ⟨?_, idle⟩
    rw [← topQueue_eq_none_iff]
    cases top : topQueue q with
    | none => rfl
    | some l =>
      have := newTrainLevel_of_urgent top fun a ha => by
        obtain ⟨-, floor, -, -⟩ := topQueue_eq_some top
        have := idle a ha
        omega
      exact absurd (noTrain.symm.trans this) nofun
  · rintro ⟨empty, idle⟩
    cases h : prospectiveLevel q with
    | none => rfl
    | some l =>
      obtain ⟨floor, claims, -, -⟩ := smallestClaim_of_some h
      rcases claims with ⟨seven, filled⟩ | ⟨a, active, rfl⟩
      · exact absurd (empty l seven floor) filled
      · exact absurd (idle a active) (Nat.not_lt.mpr floor)

theorem prospectiveLevel_eq_some_iff {q : Tsc} {l : Nat} :
    prospectiveLevel q = some l ↔ SmallestClaim q l := by
  refine ⟨smallestClaim_of_some, fun h => ?_⟩
  cases hk : prospectiveLevel q with
  | none =>
    obtain ⟨empty, idle⟩ := prospectiveLevel_eq_none_iff.mp hk
    rcases h.claims with ⟨seven, filled⟩ | ⟨a, active, rfl⟩
    · exact absurd (empty l seven h.floor) filled
    · exact absurd (idle a active) (Nat.not_lt.mpr h.floor)
  | some k =>
    have hk := smallestClaim_of_some hk
    rw [Nat.le_antisymm (hk.unique h) (h.unique hk)]

/-! ### The frames of a train -/

/-- R112: the frames that go are those of one destination at the head of the queue, up to four. -/
theorem takeTrain_eq {d : Dest} {m n : Nat} {q : List Frame} (atMost : n ≤ m) (there : n ≤ q.length)
    (alike : ∀ g ∈ q.take n, g.dest = d) (ends : n < m → ∀ g, q[n]? = some g → g.dest ≠ d) :
    takeTrain d m q = (q.take n, q.drop n) := by
  induction m generalizing n q with
  | zero =>
    obtain rfl : n = 0 := by omega
    rfl
  | succ m ih =>
    cases q with
    | nil =>
      obtain rfl : n = 0 := by simpa using there
      rfl
    | cons f q =>
      unfold takeTrain
      cases n with
      | zero => rw [if_neg (ends (by omega) f rfl)]; rfl
      | succ n =>
        have hf : f.dest = d := alike f (by simp)
        rw [if_pos hf, ih (n := n) (by omega) (by simpa using there)
          (fun g hg => alike g (List.mem_cons_of_mem f hg)) fun less g hg => ends (by omega) g hg]
        rfl

/-- R112: the frames of a train have consecutive tags from the counter on. -/
theorem tagFrames_getElem? {tag : Nat} (range : tag < 256) (l : List Frame) (j : Nat) :
    (tagFrames tag l)[j]? = l[j]?.map (Frame.inTrain ((tag + j) % 256)) := by
  induction l generalizing tag j with
  | nil => rfl
  | cons f l ih =>
    cases j with
    | zero => rw [Nat.add_zero, Nat.mod_eq_of_lt range]; rfl
    | succ j =>
      refine (ih (Nat.mod_lt _ (by omega)) j).trans ?_
      rw [Nat.mod_add_mod, Nat.add_assoc, Nat.add_comm 1 j]
      rfl

/-! ### The claim decision -/

/-- A change of one element is a setting of it. -/
theorem updAt_getD {l : List Nat} {i k : Nat} (h : l.getD i 0 = k) (f : Nat → Nat) :
    updAt l i f = updAt l i fun _ => f k := by
  cases hx : l[i]? with
  | none => simp [updAt, hx]
  | some x =>
    rw [List.getD_eq_getElem?_getD, hx] at h
    obtain rfl : x = k := h
    rw [updAt_of_get hx, updAt_of_get hx]

section Forming

variable {l n k : Nat} {f : Frame} {rest : List Frame} {s : State}

/-- The train that the frames at the head of the queue form (R112). -/
def newTrain (l : Nat) (f : Frame) (rest : List Frame) (n k : Nat) : Train :=
  ⟨l, f.dest, tagFrames k ((f :: rest).take n)⟩

theorem FormsTrain.prospectiveLevel (forms : FormsTrain l f rest n k s) (floor : l ≤ s.tsc.floor) :
    prospectiveLevel s.tsc = some l :=
  prospectiveLevel_eq_some_iff.mpr ⟨floor, .inl ⟨forms.level, by rw [forms.queue]; exact nofun⟩,
    fun j hj _ => forms.first j hj, fun a ha => (forms.urgent a ha).le⟩

theorem FormsTrain.newTrainLevel (forms : FormsTrain l f rest n k s) (floor : l ≤ s.tsc.floor) :
    newTrainLevel s.tsc = some l := by
  have level := forms.prospectiveLevel floor
  rcases prospectiveLevel_cases s.tsc with ⟨j, train, e⟩ | ⟨-, e⟩
  · rwa [Option.some.inj (level.symm.trans e)]
  · obtain ⟨-, a, active, rfl⟩ := activeClaim_eq_some_iff.mp (e.symm.trans level)
    exact absurd (forms.urgent a active) (lt_irrefl _)

theorem FormsTrain.formTrain (forms : FormsTrain l f rest n k s) : formTrain l s =
    advanceTags f.dest l n (s.mapTsc (formed l (newTrain l f rest n k) ((f :: rest).drop n))) := by
  have taken : takeTrain f.dest trainFrames (f :: rest) = ((f :: rest).take n, (f :: rest).drop n) :=
    takeTrain_eq forms.atMost forms.there forms.alike forms.ends
  rcases formTrain_cases l s with ⟨empty, -⟩ | ⟨g, q, queue, e⟩
  · exact absurd (forms.queue.symm.trans empty) nofun
  · obtain ⟨rfl, rfl⟩ := List.cons.inj (queue.symm.trans forms.queue)
    rw [e, taken, forms.counter, newTrain, List.length_take, Nat.min_eq_left forms.there]

theorem advanceTags_tsc (d : Dest) (l n : Nat) (s : State) :
    ∃ tags, (advanceTags d l n s).tsc = { s.tsc with bcastTags := tags } := by
  cases d with
  | broadcast => exact ⟨_, rfl⟩
  | peer i => exact ⟨s.tsc.bcastTags, by simp [advanceTags]⟩

theorem lt_of_queueAt {t : Tsc} (h : queueAt t l ≠ []) : l < t.queues.length := by
  by_contra beyond
  exact h (List.getD_eq_default _ _ (Nat.le_of_not_lt beyond))

theorem queueAt_formed {train : Train} {left : List Frame} {t : Tsc} (there : l < t.queues.length) :
    queueAt (formed l train left t) l = left ∧
      ∀ j, j ≠ l → queueAt (formed l train left t) j = queueAt t j := by
  have after (j : Nat) := queueAt_updAt t l j fun _ => left
  exact ⟨(after l).trans (if_pos ⟨rfl, there⟩), fun j hj => (after j).trans (if_neg fun h => hj h.1.symm)⟩

theorem formed_stack (train : Train) (left : List Frame) (t : Tsc) :
    (formed l train left t).stack = t.active.toList ++ t.stack := by
  simp only [formed]
  cases t.active <;> rfl

theorem newTrain_frames (range : k < 256) {j : Nat} (hj : j < n) {g : Frame}
    (hg : (f :: rest)[j]? = some g) : (newTrain l f rest n k).frames[j]? =
      some (g.inTrain ((k + j) % 256)) := by
  rw [newTrain, tagFrames_getElem? range, List.getElem?_take_of_lt hj, hg]
  rfl

/-- R112, R113, R114: the train that a claim decision forms. -/
theorem claimDecision_trainStands (forms : FormsTrain l f rest n k s)
    (floor : l ≤ s.tsc.floor) : TrainStands l f rest n k s (claimDecision s).1 := by
  have decided : (claimDecision s).1 = (advanceTags f.dest l n
      (s.mapTsc (formed l (newTrain l f rest n k) ((f :: rest).drop n)))).mapTsc fun t =>
        { t with prospective := prospectiveLevel t } := by
    simp only [claimDecision, forms.newTrainLevel floor, forms.formTrain]
  obtain ⟨tags, tsc⟩ := advanceTags_tsc f.dest l n
    (s.mapTsc (formed l (newTrain l f rest n k) ((f :: rest).drop n)))
  obtain ⟨queue, others⟩ := queueAt_formed (train := newTrain l f rest n k)
    (left := (f :: rest).drop n) (lt_of_queueAt (by rw [forms.queue]; exact nofun))
  have level : prospectiveLevel (advanceTags f.dest l n
      (s.mapTsc (formed l (newTrain l f rest n k) ((f :: rest).drop n)))).tsc = some l := by
    rw [tsc]
    refine prospectiveLevel_eq_some_iff.mpr ⟨floor, .inr ⟨_, rfl, rfl⟩, fun j hj _ => ?_, fun a ha => ?_⟩
    · exact (others j (by omega)).trans (forms.first j hj)
    · rw [← Option.some.inj ha]
      exact le_rfl
  have result : (claimDecision s).1.tsc = { formed l (newTrain l f rest n k) ((f :: rest).drop n) s.tsc with
      bcastTags := tags, prospective := some l } := by
    rw [decided, State.mapTsc_tsc, level, tsc]
    rfl
  constructor
  case train =>
    refine ⟨newTrain l f rest n k, by rw [result]; rfl, rfl, rfl, ?_, fun j g hj hg =>
      newTrain_frames forms.tagRange hj hg⟩
    rw [newTrain, tagFrames_length, List.length_take, Nat.min_eq_left forms.there]
  case queue => rw [result]; exact queue
  case queues => rw [result]; exact others
  case stack => rw [result]; exact formed_stack (l := l) (newTrain l f rest n k) ((f :: rest).drop n) s.tsc
  case prospective => rw [result]
  case others => rw [result]; exact ⟨rfl, rfl, rfl⟩
  case bcast =>
    intro bcast
    have counter : s.tsc.bcastTags.getD l 0 = k := by
      have := forms.counter
      rwa [bcast] at this
    rw [decided, bcast]
    exact ⟨rfl, updAt_getD counter _⟩
  case peer =>
    intro i p dest peer
    have counter : p.nextTag.getD l 0 = k := by
      have := forms.counter
      rwa [dest, tagCounter, peer] at this
    rw [decided, dest, advanceTags, mapPeer_eq (by exact peer), updAt_getD counter]
    exact ⟨rfl, rfl⟩

end Forming

theorem TrainStands.congr {l n k : Nat} {f : Frame} {rest : List Frame} {s s' s'' : State}
    (h : TrainStands l f rest n k s s') (tsc : s''.tsc = s'.tsc) (peers : s''.peers = s'.peers) :
    TrainStands l f rest n k s s'' := by
  obtain ⟨train, queue, queues, stack, prospective, others, bcast, peer⟩ := h
  constructor <;> simpa only [tsc, peers]

/-- A claim decision that keeps the active train reports its level. -/
theorem claimDecision_keepsTrain {s : State} {l : Nat} {a : Train} (active : s.tsc.active = some a)
    (level : a.level = l) (first : ∀ j, j < l → j ≤ 7 → queueAt s.tsc j = []) :
    (claimDecision s).1 = s.mapTsc fun t => { t with prospective := prospectiveLevel t } := by
  have noTrain : newTrainLevel s.tsc = none := by
    cases new : newTrainLevel s.tsc with
    | none => rfl
    | some j =>
      obtain ⟨seven, top, urgent⟩ := newTrainLevel_eq_some new
      obtain ⟨-, -, filled, -⟩ := topQueue_eq_some top
      exact absurd (first j (level ▸ urgent a active) seven) filled
  simp only [claimDecision, noTrain]

/-- Settles O43: the level claimed, and the decision at the opening instant with and without a new train. -/
theorem trainFormed : Obligations.TrainFormed := by
  refine ⟨fun q l => ⟨prospectiveLevel_eq_none_iff, prospectiveLevel_eq_some_iff.trans
      ⟨fun h => ⟨h.floor, h.claims, h.first, h.least⟩, fun ⟨floor, claims, first, least⟩ =>
        ⟨floor, claims, first, least⟩⟩⟩,
    fun t u s live gap free due listen online empty idle => ?_,
    fun t u l s live gap free due listen online queues floor => ?_⟩
  · have level : prospectiveLevel s.tsc = none := prospectiveLevel_eq_none_iff.mpr ⟨empty, idle⟩
    obtain ⟨listens, -⟩ := openingInstant_due (s := { s with now := t }) gap free due listen online
    refine exec_eq live ((listens level).trans ?_)
    rw [claimDecision_none (by exact level)]
    rfl
  · obtain ⟨-, marks⟩ := openingInstant_due (s := { s with now := t }) gap free due listen online
    have marked : prospectiveLevel s.tsc = some l → ∃ s', exec (.openingInstant t) s = .next s' ∧
        Marked (after u 40) l s s' ∧ s'.tsc = (claimDecision s).1.tsc ∧ s'.peers = (claimDecision s).1.peers :=
      fun level => by
        refine ⟨_, exec_eq live (marks l level), startMark_marked _ _ (by simp) (by simp) (by simp) (by simp)
          (by simp), ?_, ?_⟩ <;> simp [claimDecision_at]
    refine ⟨fun f rest n k forms => ?_, fun a active level first => ?_⟩
    · obtain ⟨s', he, mark, tsc, peers⟩ := marked (forms.prospectiveLevel floor)
      exact ⟨s', he, mark, (claimDecision_trainStands forms floor).congr tsc peers⟩
    · have smallest : prospectiveLevel s.tsc = some l := prospectiveLevel_eq_some_iff.mpr
        ⟨floor, .inr ⟨a, active, level⟩, first, fun b hb => by
          rw [← Option.some.inj (active.symm.trans hb), level]⟩
      obtain ⟨s', he, mark, tsc, peers⟩ := marked smallest
      rw [claimDecision_keepsTrain active level first] at tsc peers
      exact ⟨s', he, mark, tsc.trans (by rw [State.mapTsc_tsc, smallest]), peers⟩

end Sys2Proof.Machine
end

section
/-! The map and the blocks of a burst cut from a train (R118 to R120). -/

namespace Sys2Proof.Machine

/-! ### Symbols and runs of windows -/

/-- R120: the symbols of `n` blocks are the fewest that carry them. -/
theorem symbolsNeeded_le_iff {n d : Nat} (hd : 0 < d) (k : Nat) :
    symbolsNeeded n d ≤ k ↔ n * 1088 ≤ k * d := by
  rw [symbolsNeeded, blockBits, ← Nat.ceilDiv_eq_add_pred_div, ceilDiv_le_iff_le_mul hd, Nat.mul_comm d k]

theorem windowOf_eq (phase : Nat) : windowOf phase = phase / 100 := rfl

theorem runEnd_eq_none_iff {ws : WindowList} {w k : Nat} :
    runEnd ws w k = none ↔ ∀ v, v < 12 → ws.getD v none = some k := by
  simp only [runEnd, windowCount, List.find?_eq_none, List.mem_map, List.mem_range, decide_eq_true_iff,
    Decidable.not_not, forall_exists_index, and_imp]
  constructor
  · intro h v hv
    exact h v ((v + 12 - (w + 1) % 12) % 12) (Nat.mod_lt _ (by omega)) (by omega)
  · rintro h _ i _ rfl
    exact h _ (Nat.mod_lt _ (by omega))

/-- R119: the run ends at the first window, cyclically, that is not of the slot. -/
theorem runEnd_eq_some_iff {ws : WindowList} {w k e : Nat} :
    runEnd ws w k = some e ↔ ∃ j, 1 ≤ j ∧ j ≤ 12 ∧ e = (w + j) % 12 ∧ ws.getD ((w + j) % 12) none ≠ some k ∧
      ∀ c, 1 ≤ c → c < j → ws.getD ((w + c) % 12) none = some k := by
  have place (i : Nat) : (w + 1 + i) % 12 = (w + (i + 1)) % 12 := by rw [Nat.add_right_comm, Nat.add_assoc]
  rw [runEnd, windowCount, List.find?_eq_some_iff_getElem]
  simp only [List.getElem_map, List.getElem_range, List.length_map, List.length_range, decide_eq_true_iff,
    Bool.not_eq_true', decide_eq_false_iff_not, Decidable.not_not, place]
  constructor
  · rintro ⟨other, i, hi, rfl, before⟩
    exact ⟨i + 1, by omega, by omega, rfl, other, fun c hc hci => by
      have := before (c - 1) (by omega)
      rwa [show c - 1 + 1 = c by omega] at this⟩
  · rintro ⟨j, hj, hj', rfl, other, before⟩
    refine ⟨other, j - 1, by omega, by rw [show j - 1 + 1 = j by omega], fun i hi => ?_⟩
    exact before (i + 1) (by omega) (by omega)

theorem runBound_of_none {ws : WindowList} {k phase : Nat} (h : runEnd ws (phase / 100) k = none)
    (p16 : Nat) : runBound ws k phase p16 = 28 := by
  simp only [runBound, windowOf_eq, h, maxSymbols]

theorem runBound_of_some {ws : WindowList} {k phase e : Nat} (h : runEnd ws (phase / 100) k = some e)
    (p16 : Nat) : runBound ws k phase p16 =
      min 28 ((((100 * e + 1200 - phase) % 1200) * p16 / 19200 - 160) / 40) := by
  simp only [runBound, windowOf_eq, h, maxSymbols, payloadOffset, symbolTime]

/-- R119: what the model bounds a burst by is what the statements allow it. -/
theorem runAllows_iff {ws : WindowList} {k phase p16 n : Nat} :
    RunAllows ws k phase p16 n ↔ runBound ws k phase p16 = n := by
  constructor
  · rintro (all | ⟨j, later, round, other, first⟩)
    · exact runBound_of_none (runEnd_eq_none_iff.mpr all) p16
    · exact runBound_of_some (runEnd_eq_some_iff.mpr ⟨j, later, round, rfl, other, first⟩) p16
  · rintro rfl
    cases h : runEnd ws (phase / 100) k with
    | none => rw [runBound_of_none h]; exact .endless (runEnd_eq_none_iff.mp h)
    | some e =>
      obtain ⟨j, later, round, rfl, other, first⟩ := runEnd_eq_some_iff.mp h
      rw [runBound_of_some h]
      exact .ends j later round other first

theorem RunAllows.le {ws : WindowList} {k phase p16 n : Nat} (h : RunAllows ws k phase p16 n) : n ≤ 28 := by
  rcases h with all | ⟨j, later, round, other, first⟩
  · exact le_rfl
  · exact Nat.min_le_left _ _

/-- R119: the payload of a burst of as many symbols as the run allows ends within the run. -/
theorem RunAllows.endsWithin {ws : WindowList} {k phase p16 n m : Nat} (h : RunAllows ws k phase p16 n)
    (carries : 1 ≤ m) (le : m ≤ n) : (∀ w, w < 12 → ws.getD w none = some k) ∨
      ∃ j, 1 ≤ j ∧ j ≤ 12 ∧ ws.getD ((phase / 100 + j) % 12) none ≠ some k ∧
        (∀ c, 1 ≤ c → c < j → ws.getD ((phase / 100 + c) % 12) none = some k) ∧
        (160 + 40 * m) * 19200 ≤ ((100 * ((phase / 100 + j) % 12) + 1200 - phase) % 1200) * p16 := by
  rcases h with all | ⟨j, later, round, other, first⟩
  · exact .inl all
  · refine .inr ⟨j, later, round, other, first, ?_⟩
    generalize (100 * ((phase / 100 + j) % 12) + 1200 - phase) % 1200 * p16 = ticks at le ⊢
    omega

/-! ### The map of a burst -/

/-- The choice of a window map (R118). -/
def onWindowChoice (k : Nat) (m : VersionedMap) (kMax : Nat) : MapChoice :=
  ⟨.slot k m.version, .window m.loads, dataBits m.loads, kMax⟩

theorem dataBits_eq (loads : List Nat) : dataBits loads = 3 * (16 * loads.sum) / 4 := rfl

theorem windowChoice_of {gOn k phase p16 : Nat} {set : TxMapSet} {m : VersionedMap}
    (window : set.windows.getD (phase / 100) none = some k) (slot : set.slots.getD k none = some m)
    (symbols : 4 ≤ runBound set.windows k phase p16)
    (block : 1 ≤ blocksCarried (runBound set.windows k phase p16) (dataBits m.loads)) :
    windowChoice gOn set phase p16 = onWindowChoice k m (runBound set.windows k phase p16) := by
  simp only [windowChoice, windowOf_eq, window, slot]
  exact if_neg (by omega)

theorem windowChoice_cases (gOn phase p16 : Nat) (set : TxMapSet) :
    windowChoice gOn set phase p16 = robustChoice gOn ∨
    ∃ k m, set.windows.getD (phase / 100) none = some k ∧ set.slots.getD k none = some m ∧
      4 ≤ runBound set.windows k phase p16 ∧
      1 ≤ blocksCarried (runBound set.windows k phase p16) (dataBits m.loads) ∧
      windowChoice gOn set phase p16 = onWindowChoice k m (runBound set.windows k phase p16) := by
  cases window : set.windows.getD (phase / 100) none with
  | none => exact .inl (by simp only [windowChoice, windowOf_eq, window])
  | some k =>
    cases slot : set.slots.getD k none with
    | none => exact .inl (by simp only [windowChoice, windowOf_eq, window, slot])
    | some m =>
      by_cases short : runBound set.windows k phase p16 < 4 ∨
          blocksCarried (runBound set.windows k phase p16) (dataBits m.loads) = 0
      · left
        simp only [windowChoice, windowOf_eq, window, slot]
        exact if_pos short
      · have symbols : 4 ≤ runBound set.windows k phase p16 := by omega
        have block : 1 ≤ blocksCarried (runBound set.windows k phase p16) (dataBits m.loads) := by omega
        exact .inr ⟨k, m, rfl, slot, symbols, block, windowChoice_of window slot symbols block⟩

theorem linkCondition_mapped_iff {p : Peer} :
    linkCondition p = .mapped ↔ (∃ m, p.txMaps = some m) ∧ p.fallback < 2 := by
  cases h : p.txMaps <;> simp [linkCondition, h]

section Choice

variable {s : State} {dest : Dest}

theorem chooseMap_mapped {i phase : Nat} {p : Peer} {set : TxMapSet} (peer : s.peer i = some p)
    (latched : s.lcu.latchPhase = some phase) (maps : p.txMaps = some set) (fallback : p.fallback < 2) :
    chooseMap s (.peer i) = windowChoice s.gOn set phase s.lcu.latchP16 := by
  have condition : linkCondition p = .mapped := linkCondition_mapped_iff.mpr ⟨⟨set, maps⟩, fallback⟩
  simp only [chooseMap, peer, latched, condition, maps]

theorem chooseMap_of_onWindow {k kMax : Nat} {m : VersionedMap} (h : OnWindow s dest k m kMax) :
    chooseMap s dest = onWindowChoice k m kMax := by
  obtain ⟨i, p, set, phase, rfl, peer, maps, fallback, latched, window, slot, run⟩ := h.mapped
  obtain rfl := runAllows_iff.mp run
  rw [chooseMap_mapped peer latched maps fallback]
  exact windowChoice_of window slot h.symbols h.block

/-- R118: a burst goes on a window map, or on the robust one. -/
theorem chooseMap_cases (s : State) (dest : Dest) : chooseMap s dest = robustChoice s.gOn ∨
    ∃ k m kMax, OnWindow s dest k m kMax ∧ chooseMap s dest = onWindowChoice k m kMax := by
  cases dest with
  | broadcast => exact .inl rfl
  | peer i =>
    cases peer : s.peer i with
    | none => exact .inl (by simp only [chooseMap, peer])
    | some p =>
      cases latched : s.lcu.latchPhase with
      | none => exact .inl (by simp only [chooseMap, peer, latched])
      | some phase =>
        by_cases mapped : linkCondition p = .mapped
        · obtain ⟨⟨set, maps⟩, fallback⟩ := linkCondition_mapped_iff.mp mapped
          have choice := chooseMap_mapped peer latched maps fallback
          rcases windowChoice_cases s.gOn phase s.lcu.latchP16 set with
            robust | ⟨k, m, window, slot, symbols, block, e⟩
          · exact .inl (choice.trans robust)
          · exact .inr ⟨k, m, _, ⟨⟨i, p, set, phase, rfl, peer, maps, fallback, latched, window, slot,
              runAllows_iff.mpr rfl⟩, symbols, block⟩, choice.trans e⟩
        · left
          cases condition : linkCondition p with
          | mapped => exact absurd condition mapped
          | fallback | unmapped => simp only [chooseMap, peer, latched, condition]

theorem chooseMap_robust (h : ∀ k m kMax, ¬OnWindow s dest k m kMax) :
    chooseMap s dest = robustChoice s.gOn := by
  rcases chooseMap_cases s dest with robust | ⟨k, m, kMax, window, -⟩
  · exact robust
  · exact absurd window (h k m kMax)

end Choice

/-! ### The blocks of a burst -/

theorem pendingRefs_length (f : Frame) :
    (pendingRefs f).length = (f.blocks.filter fun x => decide (x.state = .pending)).length := by
  have kept : (f.blocks.zipIdx.map Prod.fst).filter (fun x => decide (x.state = .pending)) =
      (f.blocks.zipIdx.filter fun x => decide (x.1.state = .pending)).map Prod.fst := List.filter_map
  rw [List.zipIdx_map_fst] at kept
  rw [pendingRefs, List.length_map, kept, List.length_map]

/-- R119: the number of blocks that may go, from the frames of the train. -/
theorem blocksAllowed_eq (gOn : Nat) (dest : Dest) (m : MapChoice) (frames : List Frame) :
    blocksAllowed gOn dest m (frames.flatMap pendingRefs).length =
      mayGo gOn dest frames m.symbolsMax m.dataBits := by
  have waiting : (frames.flatMap pendingRefs).length =
      (frames.map fun f => (f.blocks.filter fun x => decide (x.state = .pending)).length).sum := by
    rw [List.length_flatMap]
    exact congrArg List.sum (List.map_congr_left fun f _ => pendingRefs_length f)
  rw [waiting]
  cases dest <;> rfl

theorem mayGo_le (gOn : Nat) (dest : Dest) (frames : List Frame) (kMax d : Nat) :
    mayGo gOn dest frames kMax d ≤ kMax * d / 1088 ∧ mayGo gOn dest frames kMax d ≤ 48 ∧
      (∀ i, dest = .peer i → mayGo gOn dest frames kMax d ≤ min 48 (2 * gOn - 66)) ∧
      mayGo gOn dest frames kMax d ≤ (frames.flatMap pendingRefs).length := by
  have same := blocksAllowed_eq gOn dest ⟨.robust, .robust, d, kMax⟩ frames
  cases dest <;> simp only [mayGo, blocksAllowed, blocksCarried, blockBits] at * <;>
    refine ⟨by omega, by omega, fun i hi => ?_, by omega⟩
  · omega
  · exact nomatch hi

section Cut

variable {s : State} {a : Train} {b : BurstOnLine}

theorem burstFor_eq_none_iff : burstFor s a = none ↔
    mayGo s.gOn a.dest a.frames (chooseMap s a.dest).symbolsMax (chooseMap s a.dest).dataBits = 0 := by
  rw [burstFor, blocksAllowed_eq]
  dsimp only
  split <;> simp_all

/-- R120: the burst that a train gives on its map. -/
theorem burstFor_eq_some (h : burstFor s a = some b) :
    ∃ n, n = mayGo s.gOn a.dest a.frames (chooseMap s a.dest).symbolsMax (chooseMap s a.dest).dataBits ∧
      1 ≤ n ∧ b = {
        dest := a.dest, destAddr := destAddress s a.dest, selector := (chooseMap s a.dest).selector
        map := (chooseMap s a.dest).map, dataBits := (chooseMap s a.dest).dataBits
        symbols := symbolsNeeded n (chooseMap s a.dest).dataBits
        refs := (a.frames.flatMap pendingRefs).take n
        blocks := ((a.frames.flatMap pendingRefs).take n).map (trainBlock a.frames) } := by
  rw [burstFor, blocksAllowed_eq] at h
  dsimp only at h
  split at h
  · exact nomatch h
  next more => exact ⟨_, rfl, Nat.one_le_iff_ne_zero.mpr more, (Option.some.inj h).symm⟩

/-- R120: the blocks and symbols of a burst. -/
structure BurstWhole (s : State) (a : Train) (b : BurstOnLine) : Prop where
  blocks : b.refs.length =
    mayGo s.gOn a.dest a.frames (chooseMap s a.dest).symbolsMax (chooseMap s a.dest).dataBits
  some : 1 ≤ b.refs.length
  first : b.refs <+: a.frames.flatMap pendingRefs
  carried : b.blocks.length = b.refs.length
  dest : b.dest = a.dest
  destAddr : b.destAddr = destAddress s a.dest
  choice : b.selector = (chooseMap s a.dest).selector ∧ b.map = (chooseMap s a.dest).map ∧
    b.dataBits = (chooseMap s a.dest).dataBits
  symbols : 1 ≤ b.symbols ∧ b.symbols ≤ (chooseMap s a.dest).symbolsMax
  fits : b.refs.length * 1088 ≤ b.symbols * b.dataBits ∧
    (b.symbols - 1) * b.dataBits < b.refs.length * 1088

theorem burstFor_whole (h : burstFor s a = some b) : BurstWhole s a b := by
  obtain ⟨n, hn, more, rfl⟩ := burstFor_eq_some h
  obtain ⟨room, -, -, waiting⟩ := mayGo_le s.gOn a.dest a.frames (chooseMap s a.dest).symbolsMax
    (chooseMap s a.dest).dataBits
  rw [← hn] at room waiting
  have length : ((a.frames.flatMap pendingRefs).take n).length = n := by
    rw [List.length_take, Nat.min_eq_left waiting]
  have carries : n * 1088 ≤ (chooseMap s a.dest).symbolsMax * (chooseMap s a.dest).dataBits := by omega
  have positive : 0 < (chooseMap s a.dest).dataBits := Nat.pos_of_ne_zero fun zero => by
    rw [zero, Nat.mul_zero] at carries
    omega
  have needed := symbolsNeeded_le_iff (n := n) positive
  have one : 1 ≤ symbolsNeeded n (chooseMap s a.dest).dataBits := by
    by_contra none_needed
    have := (needed 0).mp (by omega)
    omega
  refine ⟨length.trans hn, more.trans_eq length.symm, List.take_prefix _ _, List.length_map _, rfl, rfl,
    ⟨rfl, rfl, rfl⟩, ⟨one, (needed _).mpr carries⟩, ?_⟩
  rw [length]
  refine ⟨(needed _).mp le_rfl, Nat.lt_of_not_le fun fewer => ?_⟩
  have less := (needed (symbolsNeeded n (chooseMap s a.dest).dataBits - 1)).mpr fewer
  omega

end Cut

/-- Settles O44: on a window map, on the robust map, and what every burst carries. -/
theorem burstFits : Obligations.BurstFits := by
  intro s a
  refine ⟨fun k m kMax window => ?_, fun robust => ?_, fun b cut => ?_⟩
  · have choice := chooseMap_of_onWindow window
    have none_iff := burstFor_eq_none_iff (s := s) (a := a)
    rw [choice] at none_iff
    refine ⟨none_iff, fun b cut => ?_⟩
    obtain ⟨blocks, -, -, -, -, -, ⟨selector, map, data⟩, ⟨-, symbols⟩, -⟩ := burstFor_whole cut
    rw [choice] at blocks selector map data symbols
    exact ⟨blocks, selector, map, data, symbols⟩
  · have choice := chooseMap_robust robust
    have none_iff := burstFor_eq_none_iff (s := s) (a := a)
    rw [choice] at none_iff
    refine ⟨none_iff, fun b cut => ?_⟩
    obtain ⟨blocks, -, -, -, -, -, ⟨selector, map, data⟩, -, -⟩ := burstFor_whole cut
    rw [choice] at blocks selector map data
    exact ⟨blocks, selector, map, data⟩
  · obtain ⟨blocks, more, first, carried, dest, address, ⟨selector, map, data⟩, ⟨one, symbols⟩, fits, fewest⟩ :=
      burstFor_whole cut
    obtain ⟨-, most, receipt, -⟩ := mayGo_le s.gOn a.dest a.frames (chooseMap s a.dest).symbolsMax
      (chooseMap s a.dest).dataBits
    rw [← blocks] at most receipt
    refine ⟨more, most, one, symbols.trans ?_, carried, fits, fewest, first, dest, receipt, ?_, ?_, ?_⟩
    · rcases chooseMap_cases s a.dest with choice | ⟨k, m, kMax, window, choice⟩
      · rw [choice]
        exact le_rfl
      · obtain ⟨i, p, set, phase, -, -, -, -, -, -, -, run⟩ := window.mapped
        rw [choice]
        exact run.le
    · intro robust
      rcases chooseMap_cases s a.dest with choice | ⟨k, m, kMax, -, choice⟩
      · rw [map, data, choice]
        exact ⟨rfl, rfl⟩
      · rw [selector, choice] at robust
        exact nomatch robust
    · intro bcast
      rw [selector, address, bcast]
      exact ⟨rfl, rfl⟩
    · intro k v slot
      rcases chooseMap_cases s a.dest with choice | ⟨j, m, kMax, window, choice⟩
      · rw [selector, choice] at slot
        exact nomatch slot
      · rw [choice] at selector map data symbols
        obtain ⟨rfl, rfl⟩ := MapSelector.slot.inj (selector.symm.trans slot)
        obtain ⟨i, p, set, phase, peer_dest, peer, maps, fallback, latched, window, there, run⟩ := window.mapped
        refine ⟨i, p, set, phase, peer_dest, peer, ?_, maps, fallback, latched, window,
          ⟨m, there, rfl, map, data⟩, run.endsWithin one symbols⟩
        rw [address, peer_dest]
        simp only [destAddress, peer]

end Sys2Proof.Machine
end

section
/-! The result of a burst, frame by frame: the states of its blocks, how its frames are resolved, and what
the resolutions add up to in the pools, the counters and the flags (R121 to R123). -/

namespace Sys2Proof.Machine

/-! ### The blocks of a frame -/

/-- R121, R122: the block of a frame at the first position of the burst that refers to it is decided, one
that the burst does not hold stands. -/
theorem settleFrame_settled (b : BurstOnLine) (accepted : List Bool) (f : Frame) :
    Settled b accepted f (settleFrame b accepted f) := by
  have block (j : Nat) : (settleFrame b accepted f).blocks[j]? =
      f.blocks[j]?.map fun x => settleBlock b accepted f (x, j) := by
    rw [settleFrame, List.getElem?_map, List.getElem?_zipIdx]
    cases f.blocks[j]? <;> simp
  refine ⟨rfl, by simp [settleFrame], fun i j x hx at_i first => ?_, fun j outside => ?_⟩
  · have found : b.refs.idxOf? ⟨f.kind, f.desc, j⟩ = some i := by
      obtain ⟨hi, e⟩ := List.getElem?_eq_some_iff.mp at_i
      refine List.findIdx?_eq_some_iff_getElem.mpr ⟨hi, by simp [e], fun k hk => ?_⟩
      have := first k hk
      rw [List.getElem?_eq_getElem (by omega)] at this
      simpa using this
    rw [block, hx, Option.map_some]
    simp only [settleBlock, found]
  · have absent : b.refs.idxOf? ⟨f.kind, f.desc, j⟩ = none := by
      rw [List.idxOf?_eq_none_iff]
      intro mem
      obtain ⟨i, hi⟩ := List.getElem?_of_mem mem
      exact outside i hi
    rw [block]
    simp only [settleBlock, absent]
    cases f.blocks[j]? <;> rfl

/-! ### How a frame is resolved -/

section Resolution

variable {b : BurstOnLine} {f : Frame}

theorem resolution_eq (b : BurstOnLine) (f : Frame) : resolution b f =
    if f.carried b = false then .stays else if f.isDone then .completes
    else if f.expired then .expires else if 16 ≤ f.attempts then .retryLimit else .stays := rfl

theorem resolution_completes_iff : resolution b f = .completes ↔ f.completes b = true := by
  rw [resolution_eq, Frame.completes]
  cases f.carried b <;> cases f.isDone <;> cases f.expired <;> by_cases h : 16 ≤ f.attempts <;> simp [h]

theorem resolution_expires_iff : resolution b f = .expires ↔ f.expires b = true := by
  rw [resolution_eq, Frame.expires]
  cases f.carried b <;> cases f.isDone <;> cases f.expired <;> by_cases h : 16 ≤ f.attempts <;> simp [h]

theorem resolution_retryLimit_iff : resolution b f = .retryLimit ↔ f.givenUp b = true := by
  rw [resolution_eq, Frame.givenUp]
  cases f.carried b <;> cases f.isDone <;> cases f.expired <;> by_cases h : 16 ≤ f.attempts <;> simp [h]

theorem resolution_stays_iff : resolution b f = .stays ↔ f.leaves b = false := by
  have completes := resolution_completes_iff (b := b) (f := f)
  have expires := resolution_expires_iff (b := b) (f := f)
  have givenUp := resolution_retryLimit_iff (b := b) (f := f)
  rw [Frame.leaves, Bool.or_eq_false_iff, Bool.or_eq_false_iff]
  simp only [← Bool.not_eq_true, ← completes, ← expires, ← givenUp]
  cases resolution b f <;> simp

theorem decide_stays (b : BurstOnLine) (f : Frame) :
    decide (resolution b f = .stays) = !f.leaves b := by
  rw [Bool.eq_iff_iff, decide_eq_true_iff, resolution_stays_iff, Bool.not_eq_true']

end Resolution

/-! ### The pools -/

/-- The pools with the frames of a list returned. -/
def allReturned (l : List Frame) (p : Bpm) : Bpm :=
  { p with
    txFree := p.txFree + blockSum (l.filter fun f => decide (f.kind = .data))
    txDesc := p.txDesc + (l.filter fun f => decide (f.kind = .data)).length
    ctlFree := p.ctlFree + blockSum (l.filter fun f => decide (f.kind = .notice))
    ctlDesc := p.ctlDesc + (l.filter fun f => decide (f.kind = .notice)).length }

theorem allReturned_cons (f : Frame) (l : List Frame) (p : Bpm) :
    allReturned (f :: l) p = allReturned l (returned f p) := by
  cases h : f.kind <;>
    simp [allReturned, returned, h, blockSum, Nat.add_assoc, Nat.add_comm]

theorem foldl_returned (l : List Frame) (p : Bpm) :
    l.foldl (fun p f => returnToPool f p) p = allReturned l p := by
  induction l generalizing p with
  | nil => rfl
  | cons f l ih => rw [List.foldl_cons, ih, allReturned_cons]; rfl

/-! ### The counters and the flags -/

/-- The result counters of every level lie within their 32 bits. -/
def ResultsInRange (m : Mgu) : Prop :=
  ∀ c ∈ m.counters.levels, c.sent ≤ 4294967295 ∧ c.expiries ≤ 4294967295 ∧ c.retryDrops ≤ 4294967295

/-- The counters of a level with frames sent, expired and given up (R126). -/
def countedResults (sent expired givenUp : Nat) (c : LevelCounters) : LevelCounters :=
  { c with
    sent := min 4294967295 (c.sent + sent)
    expiries := min 4294967295 (c.expiries + expired)
    retryDrops := min 4294967295 (c.retryDrops + givenUp) }

/-- The flags of frames expired and given up (R166). -/
def resultFlags (expired givenUp : Nat) : BitVec 14 :=
  (if expired = 0 then 0#14 else 1#14 <<< 7) ||| (if givenUp = 0 then 0#14 else 1#14 <<< 8)

/-- The MGU's state after frames of a level have been sent, have expired and have been given up (R123). -/
def withResults (l sent expired givenUp : Nat) (m : Mgu) : Mgu :=
  { m with
    flags := m.flags ||| resultFlags expired givenUp
    attn := if expired + givenUp = 0 then m.attn
      else decide ((m.flags ||| resultFlags expired givenUp) &&& m.mask ≠ 0)
    counters := { m.counters with levels := updAt m.counters.levels l (countedResults sent expired givenUp) } }

theorem updAt_congr {α : Type} {l : List α} {f g : α → α} (h : ∀ x ∈ l, f x = g x) (i : Nat) :
    updAt l i f = updAt l i g := by
  unfold updAt
  split
  next x hx => rw [h x (List.mem_of_getElem? hx)]
  · rfl

theorem updAt_updAt {α : Type} (l : List α) (i : Nat) (f g : α → α) :
    updAt (updAt l i f) i g = updAt l i fun x => g (f x) := by
  cases hx : l[i]? with
  | none => simp [updAt, hx]
  | some x =>
    have there : (l.set i (f x))[i]? = some (f x) := by
      rw [List.getElem?_set_self (List.getElem?_eq_some_iff.mp hx).1]
    rw [updAt_of_get hx, updAt_of_get there, updAt_of_get hx, List.set_set]

theorem countedResults_add (c : LevelCounters) (n x g n' x' g' : Nat) :
    countedResults n' x' g' (countedResults n x g c) = countedResults (n + n') (x + x') (g + g') c := by
  simp only [countedResults, LevelCounters.mk.injEq, true_and]
  omega

theorem resultFlags_add (x g x' g' : Nat) :
    resultFlags x g ||| resultFlags x' g' = resultFlags (x + x') (g + g') := by
  by_cases hx : x = 0 <;> by_cases hx' : x' = 0 <;> by_cases hg : g = 0 <;> by_cases hg' : g' = 0 <;>
    simp [resultFlags, hx, hx', hg, hg']

theorem resultFlags_zero : resultFlags 0 0 = 0#14 := rfl

theorem withResults_withResults (l n x g n' x' g' : Nat) (m : Mgu) :
    withResults l n' x' g' (withResults l n x g m) = withResults l (n + n') (x + x') (g + g') m := by
  have levels : updAt (updAt m.counters.levels l (countedResults n x g)) l (countedResults n' x' g') =
      updAt m.counters.levels l (countedResults (n + n') (x + x') (g + g')) := by
    rw [updAt_updAt]
    exact updAt_congr (fun c _ => countedResults_add c n x g n' x' g') l
  have flags : m.flags ||| resultFlags x g ||| resultFlags x' g' =
      m.flags ||| resultFlags (x + x') (g + g') := by rw [BitVec.or_assoc, resultFlags_add]
  have attn : (if x' + g' = 0 then (if x + g = 0 then m.attn
        else decide ((m.flags ||| resultFlags x g) &&& m.mask ≠ 0))
      else decide ((m.flags ||| resultFlags (x + x') (g + g')) &&& m.mask ≠ 0)) =
      if x + x' + (g + g') = 0 then m.attn
      else decide ((m.flags ||| resultFlags (x + x') (g + g')) &&& m.mask ≠ 0) := by
    by_cases h' : x' + g' = 0
    · obtain ⟨rfl, rfl⟩ : x' = 0 ∧ g' = 0 := by omega
      rfl
    · rw [if_neg h', if_neg (by omega)]
  simp only [withResults, levels, flags, attn]

theorem withResults_zero {m : Mgu} (range : ResultsInRange m) (l : Nat) : withResults l 0 0 0 m = m := by
  have levels : updAt m.counters.levels l (countedResults 0 0 0) = m.counters.levels := by
    refine updAt_of_fixed fun c hc => ?_
    obtain ⟨sent, expiries, retryDrops⟩ := range c (List.mem_of_getElem? hc)
    simp only [countedResults, Nat.add_zero, Nat.min_eq_right sent, Nat.min_eq_right expiries,
      Nat.min_eq_right retryDrops]
  simp only [withResults, levels, resultFlags_zero, BitVec.or_zero, if_true]

theorem ResultsInRange.withResults {m : Mgu} (range : ResultsInRange m) (l n x g : Nat) :
    ResultsInRange (withResults l n x g m) := by
  intro c hc
  rcases mem_updAt hc with hc | ⟨y, -, rfl⟩
  · exact range c hc
  · exact ⟨Nat.min_le_left _ _, Nat.min_le_left _ _, Nat.min_le_left _ _⟩

/-- A frame is sent: the result of one frame alone. -/
theorem withResults_sent {m : Mgu} (range : ResultsInRange m) (l : Nat) : withResults l 1 0 0 m =
    m.counting (atLevel l fun c => { c with sent := min 4294967295 (c.sent + 1) }) := by
  have levels : updAt m.counters.levels l (countedResults 1 0 0) =
      updAt m.counters.levels l fun c => { c with sent := min 4294967295 (c.sent + 1) } := by
    refine updAt_congr (fun c hc => ?_) l
    obtain ⟨-, expiries, retryDrops⟩ := range c hc
    simp only [countedResults, Nat.add_zero, Nat.min_eq_right expiries, Nat.min_eq_right retryDrops]
  simp only [withResults, levels, resultFlags_zero, BitVec.or_zero, if_true]
  rfl

/-- A frame expires. -/
theorem withResults_expired {m : Mgu} (range : ResultsInRange m) (l : Nat) : withResults l 0 1 0 m =
    latch .frameExpired (m.counting (atLevel l fun c =>
      { c with expiries := min 4294967295 (c.expiries + 1) })) := by
  have levels : updAt m.counters.levels l (countedResults 0 1 0) =
      updAt m.counters.levels l fun c => { c with expiries := min 4294967295 (c.expiries + 1) } := by
    refine updAt_congr (fun c hc => ?_) l
    obtain ⟨sent, -, retryDrops⟩ := range c hc
    simp only [countedResults, Nat.add_zero, Nat.min_eq_right sent, Nat.min_eq_right retryDrops]
  have flags : resultFlags 1 0 = 1#14 <<< Event.frameExpired.index := by decide
  simp only [withResults, levels, flags]
  rfl

/-- A frame is given up at the retry limit. -/
theorem withResults_givenUp {m : Mgu} (range : ResultsInRange m) (l : Nat) : withResults l 0 0 1 m =
    latch .frameRetryLimit (m.counting (atLevel l fun c =>
      { c with retryDrops := min 4294967295 (c.retryDrops + 1) })) := by
  have levels : updAt m.counters.levels l (countedResults 0 0 1) =
      updAt m.counters.levels l fun c => { c with retryDrops := min 4294967295 (c.retryDrops + 1) } := by
    refine updAt_congr (fun c hc => ?_) l
    obtain ⟨sent, expiries, -⟩ := range c hc
    simp only [countedResults, Nat.add_zero, Nat.min_eq_right sent, Nat.min_eq_right expiries]
  have flags : resultFlags 0 1 = 1#14 <<< Event.frameRetryLimit.index := by decide
  simp only [withResults, levels, flags]
  rfl

/-! ### The frames of a burst -/

/-- How many frames of a list have a property. -/
def howMany (p : Frame → Bool) (l : List Frame) : Nat := (l.filter p).length

theorem howMany_cons (p : Frame → Bool) (f : Frame) (l : List Frame) :
    howMany p (f :: l) = howMany p [f] + howMany p l := by
  cases h : p f <;> simp [howMany, h, Nat.add_comm]

/-- The MGU's state after the frames of a burst have been resolved. -/
def resolvedMgu (b : BurstOnLine) (l : Nat) (frames : List Frame) (m : Mgu) : Mgu :=
  withResults l (howMany (Frame.completes b) frames) (howMany (Frame.expires b) frames)
    (howMany (Frame.givenUp b) frames) m

theorem resolveFrame_mgu (b : BurstOnLine) {s : State} (range : ResultsInRange s.mgu) (f : Frame) :
    (resolveFrame b s f).mgu = resolvedMgu b f.level [f] s.mgu := by
  have counts (p : Frame → Bool) : howMany p [f] = (p f).toNat := by
    cases h : p f <;> simp [howMany, h]
  have completes := resolution_completes_iff (b := b) (f := f)
  have expires := resolution_expires_iff (b := b) (f := f)
  have givenUp := resolution_retryLimit_iff (b := b) (f := f)
  simp only [resolvedMgu, counts]
  cases h : resolution b f <;> simp only [h, reduceCtorEq, false_iff, true_iff, Bool.not_eq_true] at completes expires givenUp <;>
    simp only [completes, expires, givenUp, Bool.toNat_true, Bool.toNat_false, resolveFrame, h]
  · exact (withResults_sent range f.level).symm
  · exact (withResults_expired range f.level).symm
  · exact (withResults_givenUp range f.level).symm
  · exact (withResults_zero range f.level).symm

theorem resolveFrames_mgu (b : BurstOnLine) {l : Nat} {frames : List Frame} (level : ∀ f ∈ frames, f.level = l)
    {s : State} (range : ResultsInRange s.mgu) :
    (frames.foldl (resolveFrame b) s).mgu = resolvedMgu b l frames s.mgu := by
  induction frames generalizing s with
  | nil => exact (withResults_zero range l).symm
  | cons f frames ih =>
    have first := resolveFrame_mgu b range f
    rw [level f List.mem_cons_self] at first
    rw [List.foldl_cons, ih (fun g hg => level g (List.mem_cons_of_mem f hg))
      (by rw [first]; exact range.withResults _ _ _ _), first, resolvedMgu, resolvedMgu,
      withResults_withResults, resolvedMgu, howMany_cons _ f frames, howMany_cons _ f frames,
      howMany_cons _ f frames]

theorem resolveFrames_bpm (b : BurstOnLine) (frames : List Frame) (s : State) :
    (frames.foldl (resolveFrame b) s).bpm = allReturned (frames.filter fun f => f.leaves b) s.bpm := by
  have leaving : (frames.filter fun f => !decide (resolution b f = .stays)) =
      frames.filter fun f => f.leaves b := by
    refine List.filter_congr fun f _ => ?_
    rw [decide_stays, Bool.not_not]
  rw [resolveFrame_bpm, leaving, foldl_returned]

theorem resolveFrames_eq (b : BurstOnLine) (frames : List Frame) (s : State) :
    frames.foldl (resolveFrame b) s = { s with
      bpm := (frames.foldl (resolveFrame b) s).bpm, mgu := (frames.foldl (resolveFrame b) s).mgu } := by
  obtain ⟨h1, h2, h3, h4, h5, h6, h7, h8, h9, h10, h11, h12⟩ := resolveFrame_foldl_keeps b frames s
  generalize frames.foldl (resolveFrame b) s = r at *
  cases r
  simp_all

end Sys2Proof.Machine
end

section
/-! A result is applied: at the end of a receipt slot, and at the payload end of a broadcast burst
(R98, R121 to R123, R115). -/

namespace Sys2Proof.Machine

/-! ### The train after a result -/

/-- The scheduler after the frames of the burst on line have been resolved (R115, R123). -/
def unloaded (b : BurstOnLine) (frames : List Frame) (a : Train) (t : Tsc) : Tsc :=
  popIfComplete { t with
    active := some { a with frames := frames.filter fun f => !f.leaves b }, onLine := none }

theorem popIfComplete_of_empty {t : Tsc} {a : Train} (active : t.active = some a) (empty : a.frames = []) :
    (popIfComplete t).active = t.stack.head? ∧ (popIfComplete t).stack = t.stack.tail := by
  obtain ⟨l, d, frames⟩ := a
  obtain rfl : frames = [] := empty
  simp only [popIfComplete, active]
  cases t.stack <;> simp

theorem popIfComplete_bcastTags (t : Tsc) : (popIfComplete t).bcastTags = t.bcastTags := by
  unfold popIfComplete
  split
  · split <;> rfl
  · rfl

section Applying

variable {b : BurstOnLine} {accepted : List Bool} {a : Train} {frames : List Frame} {s s' : State}

/-- R121 to R123: what a result changes, when its report of the prospective claim level opens no claim. -/
theorem applyResult_eq (active : s.tsc.active = some a) (busy : s.clc.medium ≠ .idle)
    (level : ∀ f ∈ a.frames, f.level = a.level) (range : ResultsInRange s.mgu) :
    applyResult b accepted s = { s with
      tsc := { unloaded b (a.frames.map (settleFrame b accepted)) a s.tsc with
        prospective := prospectiveLevel (unloaded b (a.frames.map (settleFrame b accepted)) a s.tsc) }
      bpm := allReturned ((a.frames.map (settleFrame b accepted)).filter fun f => f.leaves b) s.bpm
      mgu := resolvedMgu b a.level (a.frames.map (settleFrame b accepted)) s.mgu } := by
  have levels : ∀ f ∈ a.frames.map (settleFrame b accepted), f.level = a.level := fun f hf => by
    obtain ⟨g, hg, rfl⟩ := List.mem_map.mp hf
    exact level g hg
  have staying (l : List Frame) : (l.filter fun f => decide (resolution b f = .stays)) =
      l.filter fun f => !f.leaves b := List.filter_congr fun f _ => decide_stays b f
  simp only [applyResult, active]
  rw [resolveFrames_eq, resolveFrames_bpm, resolveFrames_mgu b levels range, staying,
    recompute_of_not_idle (by exact busy)]
  rfl

/-- A result is applied as the statements say. -/
theorem applied_of {m : Mgu}
    (tsc : s'.tsc = { unloaded b frames a s.tsc with prospective := prospectiveLevel (unloaded b frames a s.tsc) })
    (bpm : s'.bpm = allReturned (frames.filter fun f => f.leaves b) s.bpm)
    (mgu : s'.mgu = resolvedMgu b a.level frames m) : Applied b frames a m s s' := by
  have pools (k : FrameKind) : ((frames.filter fun f => f.leaves b).filter fun f => decide (f.kind = k)) =
      frames.filter fun f => f.leaves b && decide (f.kind = k) := by
    rw [List.filter_filter]
    exact List.filter_congr fun f _ => Bool.and_comm _ _
  obtain ⟨floor, lifetimes, onLine⟩ := popIfComplete_stands { s.tsc with
    active := some { a with frames := frames.filter fun f => !f.leaves b }, onLine := none }
  constructor
  case onLine => rw [tsc]; exact onLine
  case stays =>
    rintro ⟨f, hf, stay⟩
    have filled : (frames.filter fun f => !f.leaves b) ≠ [] :=
      List.ne_nil_of_mem (List.mem_filter.mpr ⟨hf, by rw [stay]; rfl⟩)
    rw [tsc, unloaded, popIfComplete_of_filled rfl filled]
    exact ⟨rfl, rfl⟩
  case resumes =>
    intro leave
    have empty : (frames.filter fun f => !f.leaves b) = [] :=
      List.filter_eq_nil_iff.mpr fun f hf => by rw [leave f hf]; exact Bool.false_ne_true
    rw [tsc]
    exact popIfComplete_of_empty (a := { a with frames := frames.filter fun f => !f.leaves b }) rfl empty
  case queues => rw [tsc]; exact popIfComplete_queues _
  case prospective =>
    rw [tsc]
    exact prospectiveLevel_congr rfl (fun _ => rfl) rfl
  case others =>
    rw [tsc]
    exact ⟨floor, lifetimes, popIfComplete_bcastTags _⟩
  case pools => rw [bpm, allReturned, pools, pools]
  case results =>
    rw [mgu, resolvedMgu, withResults, resultFlags, ← BitVec.or_assoc]
    rfl

end Applying

end Sys2Proof.Machine
end

section
/-! The end of a receipt slot and of a broadcast burst (R35, R49, R98, R121 to R123). -/

namespace Sys2Proof.Machine

/-! ### What is heard in a receipt slot -/

theorem onEnabledPath_iff {p : PathMode} {onA onB : Bool} : onEnabledPath p onA onB = true ↔
    (p = .single → onA = true) ∧ (p = .dual → onA = true ∨ onB = true) := by
  cases p <;> simp [onEnabledPath]

theorem within_iff {n : Nat} {a b : Time} : within n a b = true ↔ elapsed a b ≤ n ∨ elapsed b a ≤ n := by
  simp [within]

/-- A robust symbol is not silent when a carrier of a group that is not notched gave a bit. -/
theorem symbolSilent_robust_iff {notch : List Bool} {heard : HeardSymbol} :
    symbolSilent notch .robust heard = false ↔
      ∃ g, g < 60 ∧ notch.getD g false = false ∧ ∃ c ∈ heard.getD g [], c ≠ [] := by
  simp only [symbolSilent, List.all_eq_false, List.mem_range, groupCount, groupUsed, Bool.and_true,
    Bool.or_eq_true, Bool.not_eq_true', List.all_eq_true, List.isEmpty_iff, not_or, not_forall,
    Bool.not_eq_false, exists_prop]

/-- R35: the receipt that is received. -/
theorem receivedReceipt_eq_some_iff {s : State} {x : ReceiptExpect} {h : ReceiptHeard} {r : Receipt} :
    receivedReceipt s x (some h) = some r ↔ ReceiptIs s x h r := by
  simp only [receivedReceipt, Option.bind_some, Option.ite_none_right_eq_some, onEnabledPath_iff, within_iff,
    receiptTolerance, symbolSilent_robust_iff]
  exact ⟨fun ⟨⟨path, start, whole⟩, decoded⟩ => ⟨path, start, whole, decoded⟩,
    fun ⟨path, start, whole, decoded⟩ => ⟨⟨path, start, whole⟩, decoded⟩⟩

theorem receivedReceipt_eq_none {s : State} {x : ReceiptExpect} {heard : Option ReceiptHeard}
    (h : NoReceipt s x heard) : receivedReceipt s x heard = none := by
  cases heard with
  | none => rfl
  | some y =>
    cases hr : receivedReceipt s x (some y) with
    | none => rfl
    | some r => exact absurd (receivedReceipt_eq_some_iff.mp hr) (h y r rfl)

/-! ### The end of a receipt slot -/

/-- The state at the end of a receipt slot at `t`, before what has been heard is applied (R35, R49). -/
def slotEnded (t : Time) (b : BurstOnLine) (s : State) : State :=
  { s with
    now := t
    lmd := { s.lmd with activity := .listen, listenFrom := some t, expect := none }
    clc := inGap (after s.lcu.latchStart (300 + 40 * b.symbols)) s.clc }

section Slot

variable {t : Time} {b : BurstOnLine} {x : ReceiptExpect} {i : Nat} {p : Peer} {a : Train} {s : State}

theorem exec_receiptSlotEnd (ends : SlotEnds t s b x i p a) (heard : Option ReceiptHeard) :
    exec (.receiptSlotEnd t heard) s = .next (takeDeferred i
      (applyReceipt i b (receivedReceipt s x heard) (slotEnded t b s))) := by
  refine exec_eq ends.live ?_
  have due : ({ s with now := t } : State).lmd.activity = .receiptWait ∧
      reached t (after s.lcu.latchStart (300 + 40 * b.symbols)) = true := ⟨ends.waiting, ends.due⟩
  simp only [effect, receiptSlotEnd, ends.onLine, ends.expect, ends.dest]
  exact if_pos due

/-- R59: no release waits for a burst to a peer that is not to be released. -/
theorem takeDeferred_none {q : Peer} (peer : s.peer i = some q) (deferred : q.deferred = false) :
    takeDeferred i s = s := by
  simp only [takeDeferred, peer, deferred, Bool.false_eq_true, if_false]

/-- A result of the burst on line, applied to the state at the end of its slot with the peer's record made
`q` and the MGU's state made `m`. -/
theorem slotResult (ends : SlotEnds t s b x i p a) {heard : Option ReceiptHeard} {accepted : List Bool}
    {q : Peer} {m : Mgu} (deferred : q.deferred = false) (level : ∀ f ∈ a.frames, f.level = a.level)
    (range : ResultsInRange m)
    (result : applyReceipt i b (receivedReceipt s x heard) (slotEnded t b s) =
      applyResult b accepted { slotEnded t b s with
        peers := tableSet s.peers i (some q), mgu := m }) :
    ∃ s', exec (.receiptSlotEnd t heard) s = .next s' ∧ SlotOver t b s s' ∧
      Applied b (a.frames.map (settleFrame b accepted)) a m s s' ∧
      s'.peers = tableSet s.peers i (some q) ∧
      s'.bpm = allReturned ((a.frames.map (settleFrame b accepted)).filter fun f => f.leaves b) s.bpm ∧
      s'.mgu = resolvedMgu b a.level (a.frames.map (settleFrame b accepted)) m := by
  have applied := applyResult_eq (b := b) (accepted := accepted) (s := { slotEnded t b s with
    peers := tableSet s.peers i (some q), mgu := m }) ends.active nofun level range
  have peerRange := tableGet_range ends.peer
  refine ⟨_, (exec_receiptSlotEnd ends heard).trans (congrArg Host.Outcome.next
    ((congrArg (takeDeferred i) (result.trans applied)).trans (takeDeferred_none (q := q) ?_ deferred))),
    ⟨rfl, rfl, rfl, rfl, rfl, rfl, rfl, rfl⟩, applied_of rfl rfl rfl, rfl, rfl, rfl⟩
  exact tableGet_tableSet_same _ peerRange.1 peerRange.2

end Slot

theorem mapPeer_mapPeer {i : Nat} {f g : Peer → Peer} {s : State} {p : Peer} (h : s.peer i = some p) :
    (s.mapPeer i f).mapPeer i g = { s with peers := tableSet s.peers i (some (g (f p))) } := by
  have range := tableGet_range h
  have changed : ({ s with peers := tableSet s.peers i (some (f p)) } : State).peer i = some (f p) :=
    tableGet_tableSet_same _ range.1 range.2
  rw [mapPeer_eq h, mapPeer_eq changed, tableSet_tableSet]

theorem resultsInRange_of {s : State} (h : CountersInRange s) : ResultsInRange s.mgu := by
  obtain ⟨-, -, -, -, -, -, -, -, levels, -⟩ := (counters_range_iff s.mgu.counters).mp h.1
  intro c hc
  obtain ⟨sent, -, expiries, retryDrops⟩ := levels c hc
  exact ⟨sent, expiries, retryDrops⟩

section Receipts

variable {i : Nat} {b : BurstOnLine} {s : State} {p : Peer}

theorem applyReceipt_received {r : Receipt} (result : r.result = .received) (peer : s.peer i = some p) :
    applyReceipt i b (some r) s = applyResult b r.bitmap { s with
      peers := tableSet s.peers i (some { p with fallback := 0 }) } := by
  simp only [applyReceipt, result, applyReceived]
  rw [mapPeer_eq peer]

theorem applyReceipt_none (peer : s.peer i = some p) :
    applyReceipt i b none s = applyResult b [] { s with
      peers := tableSet s.peers i (some { p with
        fallback := min 2 (p.fallback + 1)
        counters := { p.counters with noReceipts := satInc p.counters.noReceipts } }) } := by
  simp only [applyReceipt, applyNoReceipt, countPeer]
  rw [mapPeer_mapPeer peer]

theorem applyReceipt_mapUnknown {r : Receipt} (result : r.result = .mapUnknown) (peer : s.peer i = some p) :
    applyReceipt i b (some r) s = applyResult b [] { s with
      peers := tableSet s.peers i (some { p with
        txMaps := none
        fallback := 0
        counters := { p.counters with mapUnknown := satInc p.counters.mapUnknown } })
      mgu := latch .mapUnknownSeen s.mgu } := by
  simp only [applyReceipt, result, applyMapUnknown, countPeer]
  rw [mapPeer_mapPeer peer, raise_eq]

end Receipts

theorem endOwnPayload_broadcast {b : BurstOnLine} (dest : b.dest = .broadcast) (stop : Time) (s : State) :
    endOwnPayload b stop s =
      (applyBroadcastEnd b (resumeListen (silence s))).mapClc (freeAt stop) := by
  simp only [endOwnPayload, dest]

/-- Settles O46: the blocks of each frame, and the result applied after a receipt and after a broadcast. -/
theorem burstDelivered : Obligations.BurstDelivered := by
  refine ⟨settleFrame_settled, fun t b a s level range => ⟨fun x i p h r ends deferred heard result => ?_,
    fun live onLine dest active sending medium due => ?_⟩⟩
  · have received := receivedReceipt_eq_some_iff.mpr heard
    obtain ⟨s', he, slotOver, applied, peers, -, -⟩ := slotResult ends (heard := some h) (accepted := r.bitmap)
      (q := { p with fallback := 0 }) (m := s.mgu) deferred level (resultsInRange_of range)
      (by rw [received]; exact applyReceipt_received result ends.peer)
    exact ⟨s', he, slotOver, applied, peers⟩
  · have start := ownPayloadEnd_due (s := { s with now := t }) onLine sending due
    have busy : (resumeListen (silence { s with now := t })).clc.medium ≠ .idle := by
      rw [show (resumeListen (silence { s with now := t })).clc.medium = .sending from medium]
      exact nofun
    rw [endOwnPayload_broadcast dest, applyBroadcastEnd,
      applyResult_eq (by exact active) busy level (resultsInRange_of range)] at start
    exact ⟨_, exec_eq live start, applied_of rfl rfl rfl, rfl, rfl, rfl, rfl, rfl⟩

end Sys2Proof.Machine
end

section
/-! A burst without a receipt, and one whose receipt says MAP_UNKNOWN (R98, R115, R122, R123). -/

namespace Sys2Proof.Machine

/-! ### Frames of a burst that nothing accepts -/

/-- R122: a block of the burst that is not accepted is PENDING again. -/
theorem settleFrame_pending {b : BurstOnLine} {f : Frame} {j : Nat} {y : FrameBlock}
    (inBurst : ∃ r ∈ b.refs, r = ⟨f.kind, f.desc, j⟩) (block : f.blocks[j]? = some y) :
    (settleFrame b [] f).blocks[j]? = some { y with state := .pending } := by
  obtain ⟨_, hr, rfl⟩ := inBurst
  have first : ∃ i, b.refs.idxOf? ⟨f.kind, f.desc, j⟩ = some i :=
    Option.ne_none_iff_exists'.mp fun absent => List.idxOf?_eq_none_iff.mp absent hr
  obtain ⟨i, hi⟩ := first
  have zipped : (f.blocks.zipIdx)[j]? = some (y, j) := by
    rw [List.getElem?_zipIdx, block, Option.map_some, Nat.zero_add]
  rw [settleFrame, List.getElem?_map, zipped, Option.map_some]
  simp only [settleBlock, hi]
  rfl

theorem carried_settleFrame (b : BurstOnLine) (accepted : List Bool) (f : Frame) :
    (settleFrame b accepted f).carried b = f.carried b := rfl

theorem isDone_eq_false {f : Frame} (h : ∃ y ∈ f.blocks, y.state ≠ .done) : f.isDone = false := by
  obtain ⟨y, hy, other⟩ := h
  exact List.all_eq_false.mpr ⟨y, hy, by simpa using other⟩

/-- R123: how a frame of the burst with a block that is not DONE leaves. -/
theorem leaves_of_undone {b : BurstOnLine} {f : Frame} (carried : f.carried b = true) (undone : f.isDone = false) :
    f.completes b = false ∧ f.expires b = f.expired ∧
      (f.expired = false → f.givenUp b = decide (16 ≤ f.attempts)) ∧
      (f.expired = true → f.givenUp b = false) := by
  simp +contextual [Frame.completes, Frame.expires, Frame.givenUp, carried, undone]

theorem allReturned_single (f : Frame) (p : Bpm) : allReturned [f] p = returned f p := by
  rw [allReturned_cons]
  rfl

theorem returned_settleFrame (b : BurstOnLine) (accepted : List Bool) (f : Frame) (p : Bpm) :
    returned (settleFrame b accepted f) p = returned f p := by
  simp [returned, settleFrame]

/-- Settles O47: the blocks, the result applied, and the train of one frame that leaves. -/
theorem burstUnanswered : Obligations.BurstUnanswered := by
  intro t b a x i p heard s ends deferred level range
  have results := resultsInRange_of range
  have unanswered (silent : NoReceipt s x heard) := slotResult ends (heard := heard) (accepted := [])
    (q := { p with
      fallback := min 2 (p.fallback + 1)
      counters := { p.counters with noReceipts := min 4294967295 (p.counters.noReceipts + 1) } })
    (m := s.mgu) deferred level results
    (by rw [receivedReceipt_eq_none silent]; exact applyReceipt_none ends.peer)
  refine ⟨fun f j _ inBurst y block => settleFrame_pending inBurst block, fun silent => ?_,
    fun h r hh receipt unknown => ?_, fun f one carried silent undone leaving => ?_⟩
  · obtain ⟨s', he, slotOver, applied, peers, -, -⟩ := unanswered silent
    exact ⟨s', ⟨he, slotOver⟩, applied, peers⟩
  · have received := receivedReceipt_eq_some_iff.mpr receipt
    rw [← hh] at received
    obtain ⟨s', he, slotOver, applied, peers, -, mgu⟩ := slotResult ends (heard := heard) (accepted := [])
      (q := { p with
        txMaps := none
        fallback := 0
        counters := { p.counters with mapUnknown := min 4294967295 (p.counters.mapUnknown + 1) } })
      (m := latch .mapUnknownSeen s.mgu) deferred level results
      (by rw [received]; exact applyReceipt_mapUnknown unknown ends.peer)
    refine ⟨s', ⟨he, slotOver⟩, applied, ?_, peers⟩
    rw [mgu]
    simp [resolvedMgu, withResults, latch, Event.index]
  · obtain ⟨s', he, slotOver, applied, peers, bpm, mgu⟩ := unanswered silent
    have frames : a.frames.map (settleFrame b []) = [settleFrame b [] f] := by rw [one]; rfl
    obtain ⟨incomplete, expires, givenUp, notGivenUp⟩ :=
      leaves_of_undone (f := settleFrame b [] f) carried (isDone_eq_false undone)
    have leaves : (settleFrame b [] f).leaves b = true := by
      cases expired : f.expired with
      | true => simp [Frame.leaves, expires, show (settleFrame b [] f).expired = true from expired]
      | false =>
        have attempts : 16 ≤ f.attempts := leaving.resolve_left (by rw [expired]; exact Bool.false_ne_true)
        simp [Frame.leaves, givenUp expired, show 16 ≤ (settleFrame b [] f).attempts from attempts]
    have same : f.level = a.level := level f (by rw [one]; exact List.mem_singleton_self f)
    rw [frames] at applied bpm mgu
    obtain ⟨active, stack⟩ := applied.resumes fun g hg => by
      rw [List.mem_singleton.mp hg]; exact leaves
    refine ⟨s', ⟨he, slotOver⟩, applied.onLine, active, stack, ?_, fun expired => ?_, fun expired => ?_, peers⟩
    · rw [bpm, List.filter_cons_of_pos leaves, List.filter_nil, allReturned_single, returned_settleFrame]
    · have counts : resolvedMgu b a.level [settleFrame b [] f] s.mgu = withResults a.level 0 1 0 s.mgu := by
        simp [resolvedMgu, howMany, incomplete, expires, notGivenUp expired,
          show (settleFrame b [] f).expired = true from expired]
      rw [mgu, counts, withResults_expired results, same]
    · have attempts : 16 ≤ (settleFrame b [] f).attempts :=
        leaving.resolve_left (by rw [expired]; exact Bool.false_ne_true)
      have counts : resolvedMgu b a.level [settleFrame b [] f] s.mgu = withResults a.level 0 0 1 s.mgu := by
        simp [resolvedMgu, howMany, incomplete, expires, givenUp expired, attempts,
          show (settleFrame b [] f).expired = false from expired]
      rw [mgu, counts, withResults_givenUp results, same]

end Sys2Proof.Machine
end

section
/-! The expiry of a frame, and the release of a silent peer (R59, R60, R124). -/

namespace Sys2Proof.Machine

/-! ### Expiry -/

theorem frameStands_holds {f g : Frame} (h : FrameStands f g) (kind : FrameKind) (desc : Nat) :
    g.holds kind desc = f.holds kind desc := by
  rcases h with rfl | ⟨tag, rfl⟩ <;> rfl

theorem isOnLine_iff {f : Frame} : f.isOnLine = true ↔ ∃ x ∈ f.blocks, x.state = .onLine := by
  simp [Frame.isOnLine]

section Expiry

variable {kind : FrameKind} {desc : Nat} {f : Frame} {s : State}

theorem frameExpiry_early (found : (framesHeld s.tsc).find? (fun g => g.holds kind desc) = some f)
    (early : reached s.now f.expiry = false) : frameExpiry kind desc s = s := by
  simp only [frameExpiry, found]
  exact if_neg (Bool.eq_false_iff.mp early)

theorem frameExpiry_onLine (found : (framesHeld s.tsc).find? (fun g => g.holds kind desc) = some f)
    (due : reached s.now f.expiry = true) (line : f.isOnLine = true) :
    frameExpiry kind desc s = s.mapTsc (markExpired kind desc) := by
  simp only [frameExpiry, found]
  exact (if_pos due).trans (if_pos line)

theorem frameExpiry_drops (found : (framesHeld s.tsc).find? (fun g => g.holds kind desc) = some f)
    (due : reached s.now f.expiry = true) (off : ¬f.isOnLine = true) : frameExpiry kind desc s =
      recompute ((dropExpired s f).mapTsc (dropFrames fun g => g.holds kind desc)) := by
  simp only [frameExpiry, found]
  exact (if_pos due).trans (if_neg off)

end Expiry

theorem dropExpired_eq (s : State) (f : Frame) : dropExpired s f = { s with
    bpm := returned f s.bpm
    mgu := latch .frameExpired (s.mgu.counting (atLevel f.level fun c =>
      { c with expiries := min 4294967295 (c.expiries + 1) })) } := rfl

/-- R124: the marked frames stand in the trains. -/
theorem markExpired_framesHeld (kind : FrameKind) (desc : Nat) (t : Tsc) :
    framesHeld (markExpired kind desc t) = t.queues.flatten ++
      ((trains t).flatMap fun r => r.frames).map fun g =>
        if g.holds kind desc then { g with expired := true } else g := by
  rw [framesHeld_eq]
  simp only [markExpired, trains]
  cases t.active <;> simp [List.flatMap_map, List.map_flatMap]

/-- Settles O48: before the instant, with a block on the line, and without one. -/
theorem frameExpires : Obligations.FrameExpires := by
  intro t f s live found
  refine ⟨fun early => exec_eq live (frameExpiry_early (s := { s with now := t }) found early),
    fun due line => ⟨exec_eq live (frameExpiry_onLine (s := { s with now := t }) found due
      (isOnLine_iff.mpr line)), markExpired_framesHeld _ _ _⟩, fun due off => ?_⟩
  have away : ¬f.isOnLine = true := fun line => by
    obtain ⟨x, hx, line⟩ := isOnLine_iff.mp line
    exact off x hx line
  have dropped := frameExpiry_drops (s := { s with now := t }) found due away
  have kept : framesHeld (dropFrames (fun g => g.holds f.kind f.desc) s.tsc) =
      (framesHeld s.tsc).filter fun g => !g.holds f.kind f.desc := dropFrames_framesHeld _ _
  obtain ⟨frames, -⟩ := recompute_stand
    ((dropExpired { s with now := t } f).mapTsc (dropFrames fun g => g.holds f.kind f.desc))
  refine ⟨_, exec_eq live dropped, by simp [dropExpired_eq], by simp [dropExpired_eq], fun g hg => ?_,
    frames.length.trans (congrArg List.length kept), fun quiet => ?_, by simp [dropExpired_eq],
    by simp [dropExpired_eq], by simp [dropExpired_eq], by simp [dropExpired_eq]⟩
  · obtain ⟨x, hx, stands⟩ := frames.all g hg
    rw [frameStands_holds stands]
    have hx : x ∈ framesHeld (dropFrames (fun g => g.holds f.kind f.desc) s.tsc) := hx
    rw [kept] at hx
    simpa using (List.mem_filter.mp hx).2
  · rw [recompute_of_noClaim (by exact quiet)]
    exact ⟨kept, rfl, rfl, rfl⟩

/-! ### Silence -/

/-- R60: the record `i` has been released, with all that refers to it. -/
structure PeerGone (i : Nat) (s s' : State) : Prop where
  record : s'.peer i = none
  others : ∀ j q, j ≠ i → s.peer j = some q → ∃ q', s'.peer j = some q' ∧ q' = { q with nextTag := q'.nextTag }
  frames : ∀ f ∈ framesHeld s'.tsc, f.dest ≠ .peer i
  table : s'.rxa.table = (s.rxa.table.map fun e => e.filter fun e => decide (e.sender ≠ i))
  port : s'.ptu = { s.ptu with fwd := s.ptu.fwd.map fun e => e.filter fun e => decide (e.peer ≠ i) }
  reviews : s'.lae = { s.lae with reviews := tableSet s.lae.reviews i none }
  flag : s'.mgu.flags.getLsbD 4 = true

theorem PeerGone.of_same {i : Nat} {r s s' : State} (h : PeerGone i r s')
    (peers : ∀ j, j ≠ i → r.peer j = s.peer j) (table : r.rxa.table = s.rxa.table) (ptu : r.ptu = s.ptu)
    (lae : r.lae = s.lae) : PeerGone i s s' := by
  refine ⟨h.record, fun j q hj hq => h.others j q hj ((peers j hj).trans hq), h.frames, ?_, ?_, ?_, h.flag⟩
  · rw [h.table, table]
  · rw [h.port, ptu]
  · rw [h.reviews, lae]

theorem latch_peerReleased (m : Mgu) : (latch .peerReleased m).flags.getLsbD 4 = true := by
  simp [latch, Event.index]

theorem startMark_table (t : Time) (l : Nat) (s : State) : (startMark t l s).rxa.table = s.rxa.table := by
  unfold startMark sendClaimSignal dropBurstInHand
  dsimp only
  split <;> rfl

theorem openClaim_table (t : Time) (s : State) : (openClaim t s).rxa.table = s.rxa.table := by
  rcases openClaim_cases t s with ⟨-, e⟩ | ⟨l, -, e⟩
  · simp [e]
  · simp [e, startMark_table]

/-- A report of the prospective claim level leaves the reassembly entries. -/
theorem recompute_table (s : State) : (recompute s).rxa.table = s.rxa.table := by
  rcases recompute_cases s with ⟨-, e⟩ | ⟨-, e | ⟨-, -, -, e⟩⟩
  · rw [e]
  · rw [e]; rfl
  · rw [e]
    exact openClaim_table _ _

/-- R60: what a release takes away. -/
theorem releasePeer_gone {i : Nat} {s : State} {p : Peer} (peer : s.peer i = some p) :
    PeerGone i s (releasePeer i s) := by
  obtain ⟨frames, records⟩ := recompute_stand (releasing i s)
  have range := tableGet_range peer
  have gone : (releasing i s).peers = tableSet s.peers i none := by rw [releasing_eq]
  rw [releasePeer_eq]
  refine ⟨records.none ?_, fun j q hj hq => records.some ?_, fun f hf => ?_, ?_, ?_, ?_, ?_⟩
  · rw [State.peer, gone]
    exact tableGet_tableSet_same _ range.1 range.2
  · rw [State.peer, gone, tableGet_tableSet_other _ _ (Ne.symm hj)]
    exact hq
  · obtain ⟨g, hg, stands⟩ := frames.all f hf
    have dest : f.dest = g.dest := by rcases stands with rfl | ⟨tag, rfl⟩ <;> rfl
    rw [releasing_eq] at hg
    have hg : g ∈ framesHeld (dropFrames (fun f => f.isFor i) s.tsc) := hg
    rw [dropFrames_framesHeld] at hg
    rw [dest]
    simpa [Frame.isFor] using (List.mem_filter.mp hg).2
  · rw [recompute_table, releasing_eq]
    simp [vacate_eq_filter]
  · simp only [recompute_keeps, releasing_eq, vacate_eq_filter, decide_not]
  · simp only [recompute_keeps, releasing_eq]
  · simp only [recompute_keeps, releasing_eq]
    exact latch_peerReleased _

section Silence

variable {i : Nat} {p : Peer} {s : State}

theorem silenceInstant_early (peer : s.peer i = some p)
    (early : reached s.now (after p.lastHeard 120000000) = false) : silenceInstant i s = s := by
  simp only [silenceInstant, peer]
  exact if_neg (Bool.eq_false_iff.mp early)

theorem silenceInstant_due (peer : s.peer i = some p)
    (due : reached s.now (after p.lastHeard 120000000) = true) : silenceInstant i s =
      if burstOnLineTo s i then s.mapPeer i fun p => { p with deferred := true } else releasePeer i s := by
  simp only [silenceInstant, peer]
  exact if_pos due

theorem burstOnLineTo_iff : burstOnLineTo s i = true ↔ ∃ b, s.tsc.onLine = some b ∧ b.dest = .peer i := by
  cases h : s.tsc.onLine <;> simp [burstOnLineTo, h]

end Silence

/-! ### A release deferred to the end of a receipt slot -/

/-- A result that opens no claim period changes the scheduler, the pools and the MGU alone. -/
theorem applyResult_busy {b : BurstOnLine} {accepted : List Bool} {s : State} (busy : s.clc.medium ≠ .idle) :
    ∃ tsc bpm mgu, applyResult b accepted s = { s with tsc := tsc, bpm := bpm, mgu := mgu } := by
  cases active : s.tsc.active with
  | none =>
    simp only [applyResult, active]
    exact ⟨_, s.bpm, s.mgu, recompute_of_not_idle (by exact busy)⟩
  | some a =>
    simp only [applyResult, active]
    rw [resolveFrames_eq, recompute_of_not_idle (by exact busy)]
    exact ⟨_, _, _, rfl⟩

/-- The result of a burst to a peer keeps the mark of a release that waits. -/
theorem applyReceipt_busy {i : Nat} {b : BurstOnLine} {s : State} {p : Peer} (r : Option Receipt)
    (peer : s.peer i = some p) (busy : s.clc.medium ≠ .idle) :
    ∃ q tsc bpm mgu, applyReceipt i b r s =
      { s with peers := tableSet s.peers i (some q), tsc := tsc, bpm := bpm, mgu := mgu } ∧
      q.deferred = p.deferred := by
  cases r with
  | none =>
    rw [applyReceipt_none peer]
    obtain ⟨tsc, bpm, mgu, e⟩ := applyResult_busy (b := b) (accepted := []) (s := { s with
      peers := tableSet s.peers i (some { p with
        fallback := min 2 (p.fallback + 1)
        counters := { p.counters with noReceipts := satInc p.counters.noReceipts } }) }) busy
    exact ⟨_, tsc, bpm, mgu, e, rfl⟩
  | some r =>
    cases result : r.result with
    | received =>
      rw [applyReceipt_received result peer]
      obtain ⟨tsc, bpm, mgu, e⟩ := applyResult_busy (b := b) (accepted := r.bitmap) (s := { s with
        peers := tableSet s.peers i (some { p with fallback := 0 }) }) busy
      exact ⟨_, tsc, bpm, mgu, e, rfl⟩
    | mapUnknown =>
      rw [applyReceipt_mapUnknown result peer]
      obtain ⟨tsc, bpm, mgu, e⟩ := applyResult_busy (b := b) (accepted := []) (s := { s with
        peers := tableSet s.peers i (some { p with
          txMaps := none
          fallback := 0
          counters := { p.counters with mapUnknown := satInc p.counters.mapUnknown } })
        mgu := latch .mapUnknownSeen s.mgu }) busy
      exact ⟨_, tsc, bpm, mgu, e, rfl⟩

/-- R59: a release that waited is taken at the end of the receipt slot. -/
theorem slotEnd_releases {t : Time} {b : BurstOnLine} {x : ReceiptExpect} {i : Nat} {p : Peer} {a : Train}
    {s : State} (ends : SlotEnds t s b x i p a) (deferred : p.deferred = true)
    (heard : Option ReceiptHeard) : ∃ s', exec (.receiptSlotEnd t heard) s = .next s' ∧
      PeerGone i s s' ∧ s'.lmd.activity = .listen := by
  obtain ⟨q, tsc, bpm, mgu, e, waits⟩ := applyReceipt_busy (i := i) (b := b) (s := slotEnded t b s)
    (receivedReceipt s x heard) ends.peer nofun
  have range := tableGet_range ends.peer
  generalize hr : ({ slotEnded t b s with
    peers := tableSet (slotEnded t b s).peers i (some q), tsc := tsc, bpm := bpm, mgu := mgu } : State) = r at e
  have peer : r.peer i = some q := by
    rw [← hr]
    exact tableGet_tableSet_same _ range.1 range.2
  have released : takeDeferred i r = releasePeer i r := by
    simp only [takeDeferred, peer, waits, deferred, if_true]
  have busy : NoClaimOpens r := .inl (by rw [← hr]; exact nofun)
  refine ⟨releasePeer i r, (exec_receiptSlotEnd ends heard).trans (by rw [e, released]),
    (releasePeer_gone peer).of_same (fun j hj => ?_) (by rw [← hr]; rfl) (by rw [← hr]; rfl)
      (by rw [← hr]; rfl), ?_⟩
  · rw [← hr]
    exact tableGet_tableSet_other _ _ (Ne.symm hj)
  · rw [releasePeer_of_noClaim i busy, releasing_eq, ← hr]
    rfl

/-- Settles O52: before the instant, the release deferred, the release, and the one that was deferred. -/
theorem silenceReleases : Obligations.SilenceReleases := by
  intro t i p s live peer
  refine ⟨fun early => exec_eq live (silenceInstant_early (s := { s with now := t }) peer early),
    fun b due line dest => ?_, fun due away => ?_, fun b x a heard ends deferred => ?_⟩
  · have busy : burstOnLineTo { s with now := t } i = true := burstOnLineTo_iff.mpr ⟨b, line, dest⟩
    exact exec_eq live ((silenceInstant_due (s := { s with now := t }) peer due).trans
      ((if_pos busy).trans (mapPeer_eq (by exact peer))))
  · have idle : ¬burstOnLineTo { s with now := t } i = true := fun busy => by
      obtain ⟨b, line, dest⟩ := burstOnLineTo_iff.mp busy
      exact away b line dest
    obtain ⟨record, others, frames, table, port, reviews, flag⟩ :=
      releasePeer_gone (s := { s with now := t }) peer
    refine ⟨_, exec_eq live ((silenceInstant_due (s := { s with now := t }) peer due).trans (if_neg idle)),
      ⟨record, others, frames, table, port, reviews, flag⟩, ?_, ?_, fun quiet => ?_, ?_, ?_⟩
    · simp only [releasePeer_eq, recompute_keeps, releasing_eq]
      rfl
    · simp only [releasePeer_eq, recompute_keeps, releasing_eq]
    · rw [releasePeer_of_noClaim i (by exact quiet), releasing_eq]
      exact ⟨rfl, rfl, rfl, fun j hj => tableGet_tableSet_other _ _ (Ne.symm hj), dropFrames_framesHeld _ _⟩
    · simp only [releasePeer_eq, recompute_keeps, releasing_eq]
    · simp only [releasePeer_eq, recompute_keeps, releasing_eq]
  · obtain ⟨s', he, ⟨record, others, frames, table, port, reviews, flag⟩, listen⟩ :=
      slotEnd_releases ends deferred heard
    exact ⟨s', he, ⟨record, others, frames, table, port, reviews, flag⟩, listen⟩

end Sys2Proof.Machine
end

section
/-! A review completes: the announcement tests, the maps and versions, and the notice (R71, R81 to R85). -/

namespace Sys2Proof.Machine

/-! ### The announcement tests -/

/-- R81: what makes a window's change material. -/
theorem materialChange_iff {old new : Option (List Nat)} : materialChange old new = true ↔
    old.isSome ≠ new.isSome ∨ ∃ o m, old = some o ∧ new = some m ∧
      ((∃ g x y : Nat, o[g]? = some x ∧ m[g]? = some y ∧ y + 2 ≤ x) ∨
        ((16 * o.sum : Nat) : Int) ≤ 8 * (((16 * m.sum : Nat) : Int) - (16 * o.sum : Nat)).natAbs) := by
  have falls (o m : List Nat) : ((o.zip m).any fun x => decide (x.2 + 2 ≤ x.1)) = true ↔
      ∃ g x y : Nat, o[g]? = some x ∧ m[g]? = some y ∧ y + 2 ≤ x := by
    rw [List.any_eq_true]
    constructor
    · rintro ⟨⟨x, y⟩, hz, less⟩
      obtain ⟨g, hg⟩ := List.getElem?_of_mem hz
      obtain ⟨hx, hy⟩ := List.getElem?_zip_eq_some.mp hg
      exact ⟨g, x, y, hx, hy, of_decide_eq_true less⟩
    · rintro ⟨g, x, y, hx, hy, less⟩
      exact ⟨(x, y), List.mem_of_getElem? (List.getElem?_zip_eq_some.mpr ⟨hx, hy⟩), decide_eq_true less⟩
  cases old with
  | none => cases new <;> simp [materialChange]
  | some o =>
    cases new with
    | none => simp [materialChange]
    | some m =>
      rw [materialChange, Bool.or_eq_true, falls, decide_eq_true_iff]
      simp [rawBits]

theorem oldMap_eq (p : Peer) (w : Nat) : oldMap p w = (p.announced.getD w none).bind fun k =>
    ((p.rxMaps.getD k ⟨none, none⟩).current).map fun m => m.loads := by
  rw [oldMap]
  cases p.announced.getD w none <;> rfl

theorem newMap_eq (n : NewSet) (w : Nat) :
    newMap n w = (n.windows.getD w none).bind fun k => n.slots.getD k none := by
  rw [newMap]
  cases n.windows.getD w none <;> rfl

theorem announces_iff {p : Peer} {n : NewSet} :
    announces p n = true ↔ ∃ w, w < 12 ∧ materialChange (oldMap p w) (newMap n w) = true := by
  simp [announces, windowCount]

/-! ### The maps after an announcement -/

section Slots

variable {r : RxSlot}

theorem announceSlot_same {m : List Nat} {c : VersionedMap} (current : r.current = some c)
    (same : c.loads = m) : announceSlot r (some m) = r := by
  simp only [announceSlot, current]
  exact if_pos same

theorem announceSlot_changed {m : List Nat} {c : VersionedMap} (current : r.current = some c)
    (other : c.loads ≠ m) : announceSlot r (some m) = ⟨some ⟨(c.version + 1) % 16, m⟩, some c⟩ := by
  simp only [announceSlot, nextVersion, current]
  exact if_neg other

theorem announceSlot_first {m : List Nat} (current : r.current = none) (previous : r.previous = none) :
    announceSlot r (some m) = ⟨some ⟨0, m⟩, none⟩ := by
  simp only [announceSlot, nextVersion, current, previous]

theorem announceSlot_again {m : List Nat} {o : VersionedMap} (current : r.current = none)
    (previous : r.previous = some o) :
    announceSlot r (some m) = ⟨some ⟨(o.version + 1) % 16, m⟩, some o⟩ := by
  simp only [announceSlot, nextVersion, current, previous]

theorem announceSlot_dropped {c : VersionedMap} (current : r.current = some c) :
    announceSlot r none = ⟨none, some c⟩ := by
  simp only [announceSlot, current]

theorem announceSlot_unused (current : r.current = none) : announceSlot r none = ⟨none, r.previous⟩ := by
  simp only [announceSlot, current]
  obtain ⟨_, _⟩ := r
  exact congrArg (RxSlot.mk · _) current

end Slots

/-! ### The notice that goes at once -/

theorem mem_framesHeld_of_queue {t : Tsc} {l : Nat} {f : Frame} (h : f ∈ queueAt t l) : f ∈ framesHeld t := by
  rw [framesHeld_eq]
  refine List.mem_append_left _ ?_
  rw [queueAt, List.getD_eq_getElem?_getD] at h
  cases hl : t.queues[l]? with
  | none => rw [hl] at h; exact nomatch h
  | some q =>
    rw [hl] at h
    exact List.mem_flatten.mpr ⟨q, List.mem_of_getElem? hl, h⟩

/-- R84, R91, R109: a notice is held for the peer once it is admitted, whatever claim it opens. -/
theorem admitNotice_held {s : State} (i : Nat) (bytes : List Byte) (queues : s.tsc.queues.length = 8)
    (room : blocksOf bytes.length ≤ s.bpm.ctlFree) (desc : 1 ≤ s.bpm.ctlDesc) :
    RecordsStand s (admitNotice i bytes s) ∧
      ∃ f ∈ framesHeld (admitNotice i bytes s).tsc, f.kind = .notice ∧ f.dest = .peer i ∧ f.bytes = bytes := by
  have queue (f : List Frame → List Frame) :
      queueAt { s.tsc with queues := updAt s.tsc.queues 0 f } 0 = f (queueAt s.tsc 0) :=
    (queueAt_updAt s.tsc 0 0 f).trans (if_pos ⟨rfl, by omega⟩)
  by_cases waiting : (queueAt s.tsc 0).any (fun f => f.isNoticeFor i) = true
  · have e : admitNotice i bytes s = s.mapTsc fun t => { t with
        queues := updAt t.queues 0 (renewNotice i bytes (after s.now noticeLifetime)) } := if_pos waiting
    rw [e]
    obtain ⟨f, hf, notice⟩ := List.any_eq_true.mp waiting
    obtain ⟨kind, dest⟩ := (isNoticeFor_iff f i).mp notice
    refine ⟨.of_peers rfl, { f with bytes := bytes, expiry := after s.now noticeLifetime },
      mem_framesHeld_of_queue (l := 0) ?_, kind, dest, rfl⟩
    rw [State.mapTsc_tsc, queue]
    exact List.mem_map.mpr ⟨f, hf, if_pos notice⟩
  · have fits : (noticeFrame i bytes s).blocks.length ≤ s.bpm.ctlFree ∧ 0 < s.bpm.ctlDesc :=
      ⟨by simpa [noticeFrame, newFrame] using room, desc⟩
    have e : admitNotice i bytes s = recompute ((s.mapBpm fun b => { b with
        ctlFree := b.ctlFree - (noticeFrame i bytes s).blocks.length, ctlDesc := b.ctlDesc - 1 }).mapTsc
          (joinQueue (noticeFrame i bytes s))) := (if_neg waiting).trans (if_pos fits)
    obtain ⟨frames, records⟩ := recompute_stand ((s.mapBpm fun b => { b with
        ctlFree := b.ctlFree - (noticeFrame i bytes s).blocks.length, ctlDesc := b.ctlDesc - 1 }).mapTsc
          (joinQueue (noticeFrame i bytes s)))
    rw [e]
    refine ⟨records, ?_⟩
    obtain ⟨g, hg, stands⟩ := frames.each (noticeFrame i bytes s)
      (mem_framesHeld_of_queue (l := 0) (by
        rw [show queueAt _ 0 = queueAt s.tsc 0 ++ [noticeFrame i bytes s] from queue _]
        exact List.mem_append_right _ (List.mem_singleton_self _)))
    refine ⟨g, hg, ?_⟩
    rcases stands with rfl | ⟨tag, rfl⟩ <;> exact ⟨rfl, rfl, rfl⟩

/-! ### The review -/

section Completing

variable {i : Nat} {r : Review} {p : Peer} {s : State}

/-- The set that a review computes (R73 to R79). -/
def reviewed (r : Review) (s : State) : NewSet := reviewSet s.lmd.notch s.lae.margin r.snapshot

theorem completeReview_silent (review : tableGet s.lae.reviews i = some r) (peer : s.peer i = some p)
    (quiet : announces p (reviewed r s) = false) : completeReview i s =
      s.mapLae fun l => { l with reviews := tableSet l.reviews i none } := by
  simp only [completeReview, review, peer]
  exact if_neg (Bool.eq_false_iff.mp quiet)

/-- The state with the set of a review announced (R82, R83). -/
def announced (i : Nat) (r : Review) (p : Peer) (s : State) : State :=
  { s with
    lae := { s.lae with reviews := tableSet s.lae.reviews i none }
    peers := tableSet s.peers i (some (announceSet (reviewed r s) p)) }

theorem announced_peer (peer : s.peer i = some p) (r : Review) :
    (announced i r p s).peer i = some (announceSet (reviewed r s) p) := by
  have range := tableGet_range peer
  exact tableGet_tableSet_same _ range.1 range.2

theorem completeReview_announced (review : tableGet s.lae.reviews i = some r) (peer : s.peer i = some p)
    (announces : announces p (reviewed r s) = true) :
    completeReview i s = noticeDecision i (announced i r p s) := by
  simp only [completeReview, review, peer]
  refine (if_pos announces).trans ?_
  rw [mapPeer_eq (by exact peer)]
  rfl

theorem heardRecently_iff {t : Time} : heardRecently t p = true ↔
    ∃ u, p.lastUnicast = some u ∧ elapsed u t ≤ 10000000 := by
  cases h : p.lastUnicast with
  | none => simp [heardRecently, h]
  | some u =>
    simp only [heardRecently, h, decide_eq_true_iff, Option.some.injEq, exists_eq_left']
    exact Iff.rfl

theorem noticeDecision_late (peer : s.peer i = some p) (late : ¬heardRecently s.now p = true) :
    noticeDecision i s = { s with peers := tableSet s.peers i (some { p with noticePending := true }) } := by
  simp only [noticeDecision, peer]
  exact (if_neg late).trans (mapPeer_eq peer)

theorem noticeDecision_recent (peer : s.peer i = some p) (recent : heardRecently s.now p = true) :
    noticeDecision i s = admitNotice i (encodeNotice p.announced (currentSlots p)) { s with
      peers := tableSet s.peers i (some { p with lastNotice := some s.now, noticePending := false }) } := by
  simp only [noticeDecision, peer]
  refine (if_pos recent).trans ?_
  simp only [queueCurrentSet, peer]
  rw [mapPeer_eq peer]

end Completing

theorem reviewSet_windows_length (notch : List Bool) (margin : Nat) (snapshot : Store) :
    (reviewSet notch margin snapshot).windows.length = snapshot.length := by
  have grouped := groupWindows_grouped [] (snapshot.map (candidate notch margin))
  simpa [reviewSet, settleSet] using grouped.windows_length

/-- Settles O34: the review's three ends, the tests, and the maps of each slot. -/
theorem reviewCompletes : Obligations.ReviewCompletes := by
  refine ⟨fun t i r p s live review peer => ?_, fun p n => ?_⟩
  · have range := tableGet_range peer
    have announced := completeReview_announced (s := { s with now := t }) review peer
    have there := announced_peer (s := { s with now := t }) peer r
    refine ⟨fun quiet => exec_eq live (completeReview_silent (s := { s with now := t }) review peer quiet),
      fun announces late => ?_, fun announces recent whole queues free desc => ?_⟩
    · have late : ¬heardRecently t (announceSet (reviewed r s) p) = true := fun h =>
        late (heardRecently_iff.mp h)
      refine exec_eq live ((announced announces).trans ((noticeDecision_late there late).trans ?_))
      simp only [Machine.announced, tableSet_tableSet]
      rfl
    · have recent : heardRecently t (announceSet (reviewed r s) p) = true := heardRecently_iff.mpr recent
      have decided := (announced announces).trans (noticeDecision_recent there recent)
      have length : (encodeNotice (reviewed r s).windows
          (currentSlots (announceSet (reviewed r s) p))).length = 140 := by
        rw [encodeNotice_length, currentSlots_length, reviewed, reviewSet_windows_length, whole]
      obtain ⟨records, f, held, kind, dest, bytes⟩ := admitNotice_held
        (s := { Machine.announced i r p { s with now := t } with
          peers := tableSet (Machine.announced i r p { s with now := t }).peers i (some
            { announceSet (reviewed r s) p with lastNotice := some t, noticePending := false }) })
        i (encodeNotice (reviewed r s).windows (currentSlots (announceSet (reviewed r s) p)))
        queues (by rw [length]; exact free) desc
      obtain ⟨q, hq, same⟩ := records.some (j := i) (tableGet_tableSet_same _ range.1 (by
        simpa [Machine.announced] using range.2))
      have maps : q.rxMaps = (announceSet (reviewed r s) p).rxMaps := (congrArg Peer.rxMaps same :)
      have windows : q.announced = (reviewed r s).windows := (congrArg Peer.announced same :)
      have sent : q.lastNotice = some t := (congrArg Peer.lastNotice same :)
      have pending : q.noticePending = false := (congrArg Peer.noticePending same :)
      exact ⟨_, q, exec_eq live decided, by simp [Machine.announced], hq, maps, windows, sent, pending,
        f, held, kind, dest, bytes⟩
  · refine ⟨?_, rfl, by simp [announceSet], rfl, fun k r hr => ?_⟩
    · rw [announces_iff]
      simp only [materialChange_iff, oldMap_eq, newMap_eq]
    · have becomes := announceSet_rxMaps n p k
      rw [hr, Option.map_some] at becomes
      refine ⟨fun m c new current => ⟨fun same => ?_, fun other => ?_⟩,
        fun m new current => ⟨fun previous => ?_, fun o previous => ?_⟩,
        fun unused => ⟨fun c current => ?_, fun current => ?_⟩⟩
      · rw [becomes, new, announceSlot_same current same, ← current]
      · rw [becomes, new, announceSlot_changed current other]
      · rw [becomes, new, announceSlot_first current previous]
      · rw [becomes, new, announceSlot_again current previous]
      · rw [becomes, unused, announceSlot_dropped current]
      · rw [becomes, unused, announceSlot_unused current]

end Sys2Proof.Machine
end

section
/-! Frames from the port (R107, R144 to R147, R157): the mover, the classifier, and the frames that do not
go on to the line. Obligation O53. -/

namespace Sys2Proof.Machine

section Port

variable {s : State} {bytes : List Byte} {bad : Bool}

/-! ### The mover (R107, R144) -/

/-- The frame in ingress when bytes arrive that belong to one. -/
def inIngress (s : State) : Ingress := s.ptu.ingress.getD emptyIngress

/-- The blocks that the mover draws for `bytes`. -/
def drawsFor (s : State) (bytes : List Byte) : Nat := moverDraw (inIngress s) bytes s.bpm.txFree

theorem frameTaking_taken (taken : Taken s bytes) : frameTaking bytes s.ptu = some (inIngress s) := by
  unfold inIngress frameTaking
  cases h : s.ptu.ingress with
  | some g => rfl
  | none =>
    obtain there | ⟨here, quiet⟩ := taken
    · exact absurd h there
    · exact if_neg (by simp [here, quiet])

theorem frameTaking_not_taken (none : ¬Taken s bytes) :
    frameTaking bytes s.ptu = .none ∧ s.ptu.ingress = .none := by
  have h : s.ptu.ingress = .none := Classical.not_not.mp fun there => none (.inl there)
  refine ⟨?_, h⟩
  simp only [frameTaking, h]
  refine if_pos (Classical.or_iff_not_imp_left.mpr fun here => ?_)
  exact Bool.not_eq_false _ ▸ fun quiet => none (.inr ⟨here, quiet⟩)

theorem arrive_taken (taken : Taken s bytes) : arrive bytes bad s = { s with
    bpm := { s.bpm with txFree := s.bpm.txFree - drawsFor s bytes }
    ptu := { s.ptu with
      receiving := receivingAfter bytes s.ptu
      ingress := some ((inIngress s).grow bytes bad (drawsFor s bytes)) } } := by
  simp only [arrive, frameTaking_taken taken]
  rfl

theorem arrive_not_taken (none : ¬Taken s bytes) :
    arrive bytes bad s = { s with ptu := s.ptu.withReceiving (receivingAfter bytes s.ptu) } := by
  simp only [arrive, (frameTaking_not_taken none).1]
  rfl

theorem receivingAfter_of_ne (h : bytes ≠ []) : receivingAfter bytes s.ptu = true := by
  simp [receivingAfter, h]

theorem drawsFor_le : drawsFor s bytes ≤ s.bpm.txFree := by
  unfold drawsFor moverDraw
  split <;> omega

theorem moverBlocks_eq (n : Nat) : moverBlocks n = (min 1522 n + 127) / 128 := by
  simp only [moverBlocks, blocksOf, blockPayload, maxFrame]
  omega

/-- A frame is marked short exactly when some stretch of it has found no free block (R107). -/
theorem grow_short_iff : ((inIngress s).grow bytes bad (drawsFor s bytes)).short = false ↔
    NotShort s bytes := by
  have short : ((inIngress s).grow bytes bad (drawsFor s bytes)).short = false ↔
      (inIngress s).short = false ∧ moverBlocks (wholeFrame s bytes).length ≤
        (inIngress s).drawn + drawsFor s bytes := by
    rw [wholeFrame, List.length_append]
    refine Bool.or_eq_false_iff.trans (and_congr_right fun _ => ?_)
    rw [decide_eq_false_iff_not, Nat.not_lt]
    rfl
  have whole : (wholeFrame s bytes).length = (inIngress s).bytes.length + bytes.length :=
    List.length_append
  rw [short]
  change _ ↔ (inIngress s).short = false ∧ _ ≤ (inIngress s).drawn + s.bpm.txFree
  refine and_congr_right fun sound => ?_
  simp only [drawsFor, moverDraw, sound, ← whole]
  rw [if_neg Bool.false_ne_true]
  omega

/-! ### The classifier (R145) -/

/-- The frame that has ended, as the mover hands it to the classifier. -/
def arrived (s : State) (bytes : List Byte) (bad : Bool) : Ingress :=
  (inIngress s).grow bytes bad (drawsFor s bytes)

/-- The state in which the classifier finds a frame: its blocks drawn, the frame counted. -/
def atClassifier (s : State) (bytes : List Byte) : State :=
  { s with
    bpm := { s.bpm with txFree := s.bpm.txFree - drawsFor s bytes }
    ptu := { s.ptu with ingress := none, receiving := false }
    mgu := { s.mgu with counters := { s.mgu.counters with
      portReceived := min 4294967295 (s.mgu.counters.portReceived + 1) } } }

theorem portFrameReceived_taken (taken : Taken s bytes) :
    portFrameReceived bytes bad s = classify (arrived s bytes bad) (atClassifier s bytes) := by
  simp only [portFrameReceived, arrive_taken taken]
  rfl

theorem portFrameReceived_not_taken (none : ¬Taken s bytes) :
    portFrameReceived bytes bad s = { s with ptu := { s.ptu with receiving := false } } := by
  simp only [portFrameReceived, arrive_not_taken none, State.mapPtu, Ptu.withReceiving,
    (frameTaking_not_taken none).2]

theorem arrived_drawn : (arrived s bytes bad).drawn = (inIngress s).drawn + drawsFor s bytes := rfl

theorem arrived_bytes : (arrived s bytes bad).bytes = wholeFrame s bytes := rfl

theorem pool_restored :
    s.bpm.txFree - drawsFor s bytes + (arrived s bytes bad).drawn = s.bpm.txFree + (inIngress s).drawn := by
  have := drawsFor_le (s := s) (bytes := bytes)
  rw [arrived_drawn]
  omega

/-- The blocks of a frame that does not go on to the line are back in the pool. -/
theorem discardIngress_arrived :
    discardIngress (arrived s bytes bad) (atClassifier s bytes) = classified s.now id s := by
  unfold discardIngress State.mapBpm atClassifier
  simp only [pool_restored]
  rfl

theorem frameInError_iff :
    frameInError (arrived s bytes bad) = false ↔ GoodFrame s bytes bad := by
  have error : (arrived s bytes bad).rxError = ((inIngress s).rxError || bad) := rfl
  simp only [frameInError, arrived_bytes, error, Bool.or_eq_false_iff, Bool.not_eq_false']
  exact ⟨fun ⟨⟨⟨long, short⟩, check⟩, clean⟩ => ⟨Nat.not_lt.mp (of_decide_eq_false long),
      Nat.not_lt.mp (of_decide_eq_false short), check, clean⟩,
    fun ⟨long, short, check, clean⟩ => ⟨⟨⟨decide_eq_false (Nat.not_lt.mpr long),
      decide_eq_false (Nat.not_lt.mpr short)⟩, check⟩, clean⟩⟩

theorem good_at {t : Time} : GoodFrame { s with now := t } bytes bad ↔ GoodFrame s bytes bad :=
  ⟨fun ⟨long, short, check, clean⟩ => ⟨long, short, check, clean⟩,
    fun ⟨long, short, check, clean⟩ => ⟨long, short, check, clean⟩⟩

/-- The frame is for this station, or an IDENTIFY sent to every station (R146). -/
def ForStation (s : State) (f : List Byte) : Prop :=
  s.suc.address = none ∨ s.suc.address = some (addrAt f 1) ∨
    (addrAt f 1 = broadcastAddr ∧ byteAt f 15 = 1)

theorem diverted_iff (f : List Byte) : diverted s.suc.address f = true ↔ ForStation s f := by
  unfold diverted ForStation
  cases s.suc.address with
  | none => simp
  | some a =>
    simp only [Bool.or_eq_true, Bool.and_eq_true, decide_eq_true_iff, reduceCtorEq, false_or,
      Option.some.injEq, eq_comm (a := a)]
    rfl

theorem classify_error (h : ¬GoodFrame s bytes bad) :
    classify (arrived s bytes bad) (atClassifier s bytes) = classified s.now
      (fun c => { c with portErrors := min 4294967295 (c.portErrors + 1) }) s := by
  have error : frameInError (arrived s bytes bad) = true :=
    Bool.not_eq_false _ ▸ fun sound => h (frameInError_iff.mp sound)
  exact (if_pos error).trans (by rw [discardIngress_arrived]; rfl)

/-- A sound frame is judged by its type (R145, steps 2 to 8). -/
theorem classify_good (h : GoodFrame s bytes bad) :
    classify (arrived s bytes bad) (atClassifier s bytes) =
      if etherType (wholeFrame s bytes) = 0x8808 then
        controlFrame (wholeFrame s bytes) (classified s.now
          (fun c => { c with portControl := min 4294967295 (c.portControl + 1) }) s)
      else if etherType (wholeFrame s bytes) = 0x89C3 ∧ diverted s.suc.address (wholeFrame s bytes) = true then
        divertFrame (arrived s bytes bad) (atClassifier s bytes)
      else if s.suc.address = some (addrAt (wholeFrame s bytes) 1) then classified s.now
        (fun c => { c with portToStation := min 4294967295 (c.portToStation + 1) }) s
      else if s.isOnline = false then classified s.now
        (fun c => { c with portOffline := min 4294967295 (c.portOffline + 1) }) s
      else admitData (frameLevel s.ptu (wholeFrame s bytes)) (frameDest s.ptu (wholeFrame s bytes))
        (wholeFrame s bytes) (arrived s bytes bad).drawn (arrived s bytes bad).short
        (atClassifier s bytes) := by
  refine (if_neg (Bool.eq_false_iff.mp (frameInError_iff.mpr h))).trans ?_
  rw [discardIngress_arrived]
  rfl

/-! ### Diverted and control frames (R146, R147, R164) -/

theorem queueRequest_room (r : Request) (room : s.mgu.queue.length < 2) :
    queueRequest r s = { s with mgu := { s.mgu with queue := s.mgu.queue ++ [r] } } := if_pos room

theorem queueRequest_full (r : Request) (full : 2 ≤ s.mgu.queue.length) :
    queueRequest r s = { s with
      mgu := latch .mgmtOverflow { s.mgu with counters := { s.mgu.counters with
        requestsDropped := min 4294967295 (s.mgu.counters.requestsDropped + 1) } } } :=
  if_neg (Nat.not_lt.mpr full)

theorem divertFrame_short (short : ¬NotShort s bytes) :
    divertFrame (arrived s bytes bad) (atClassifier s bytes) = classified s.now
      (fun c => { c with managementLost := min 4294967295 (c.managementLost + 1) }) s := by
  have marked : (arrived s bytes bad).short = true :=
    Bool.not_eq_false _ ▸ fun whole => short (grow_short_iff.mp whole)
  refine (if_pos marked).trans ?_
  rw [discardIngress_arrived]
  rfl

theorem divertFrame_whole (whole : NotShort s bytes) :
    divertFrame (arrived s bytes bad) (atClassifier s bytes) =
      queueRequest (readRequest (wholeFrame s bytes)) (classified s.now id s) := by
  refine (if_neg (Bool.eq_false_iff.mp (grow_short_iff.mpr whole))).trans ?_
  rw [← discardIngress_arrived (bytes := bytes) (bad := bad), arrived_bytes]
  by_cases room : s.mgu.queue.length < 2
  · rw [queueRequest_room _ (by exact room), queueRequest_room _ (by exact room)]
    rfl
  · rw [queueRequest_full _ (by exact Nat.not_lt.mp room), queueRequest_full _ (by exact Nat.not_lt.mp room)]
    rfl

theorem controlFrame_other {f : List Byte} (other : fieldAt f 15 2 ≠ 1) : controlFrame f s = s :=
  if_neg other

theorem controlFrame_pause {f : List Byte} (pause : fieldAt f 15 2 = 1) (time : fieldAt f 17 2 ≠ 0) :
    controlFrame f s = { s with ptu := { s.ptu with
      pauseEnd := some (after s.now ((512 * fieldAt f 17 2 + 999) / 1000)) } } :=
  (if_pos pause).trans (if_neg time)

theorem controlFrame_resume {f : List Byte} (pause : fieldAt f 15 2 = 1) (time : fieldAt f 17 2 = 0) :
    controlFrame f s = egressChoice { s with ptu := { s.ptu with pauseEnd := none } } :=
  (if_pos pause).trans (if_pos time)

end Port

/-- Settles O53, branch by branch of the mover and of the classifier. -/
theorem portFrameDisposed : Obligations.PortFrameDisposed := by
  intro t bytes bad s live f ends control plain ours g grown
  have classify (taken : Taken s bytes) {s' : State}
      (h : Machine.classify (arrived { s with now := t } bytes bad) (atClassifier { s with now := t } bytes) = s') :
      ends s' :=
    exec_eq live ((portFrameReceived_taken (s := { s with now := t }) taken).trans h)
  refine ⟨fun none => ⟨exec_eq live (portFrameReceived_not_taken (s := { s with now := t }) none), fun here => ?_⟩,
    fun taken here => ?_, fun taken wrong => classify taken (classify_error fun good => wrong (good_at.mp good)),
    fun taken good type => ?_, fun taken good type ours => ?_, fun taken good control other => ?_⟩
  · refine exec_eq live ((arrive_not_taken (s := { s with now := t }) none).trans ?_)
    rw [receivingAfter_of_ne here]
    rfl
  · have draws {n : Nat} {short : Bool}
        (drawn : drawsFor s bytes = n) (mark : (g.grow bytes bad n).short = short) : grown n short := by
      refine exec_eq live ((arrive_taken (s := { s with now := t }) taken).trans ?_)
      rw [receivingAfter_of_ne here, show drawsFor { s with now := t } bytes = n from drawn, ← mark]
      rfl
    have length := List.length_pos_of_ne_nil here
    have unmarked (short : g.short = false) : drawsFor s bytes =
        min s.bpm.txFree (moverBlocks (g.bytes.length + bytes.length) - g.drawn) :=
      if_neg (Bool.eq_false_iff.mp short)
    have mark (short : g.short = false) (n : Nat) : (g.grow bytes bad n).short =
        decide (g.drawn + n < moverBlocks (g.bytes.length + bytes.length)) := by
      simp [Ingress.grow, short]
    refine ⟨fun k short start drawn few stretch => ?_, fun short => draws (if_pos short) (by
      simp [Ingress.grow, short]), fun short past drawn => ?_⟩
    · have blocks : moverBlocks (g.bytes.length + bytes.length) = k + 1 := by
        rw [moverBlocks_eq]
        omega
      refine ⟨fun free => draws ?_ ?_, fun empty => draws ?_ ?_⟩
      · rw [unmarked short, blocks]
        omega
      · rw [mark short, blocks, decide_eq_false_iff_not]
        omega
      · rw [unmarked short, blocks]
        omega
      · rw [mark short, blocks, decide_eq_true_iff]
        omega
    · have blocks : moverBlocks (g.bytes.length + bytes.length) = 12 := by
        rw [moverBlocks_eq]
        omega
      refine draws ?_ ?_
      · rw [unmarked short, blocks]
        omega
      · rw [mark short, blocks, decide_eq_false_iff_not]
        omega
  · have step := (classify_good (good_at (t := t).mpr good)).trans (if_pos type)
    refine ⟨fun other => classify taken (step.trans (controlFrame_other other)),
      fun pause time => classify taken (step.trans (controlFrame_pause pause time)),
      fun pause time => ?_⟩
    have step := step.trans (controlFrame_resume pause time)
    refine ⟨fun busy => classify taken (step.trans (egressChoice_waits (.inl busy))), fun idle => ?_⟩
    obtain ⟨q, chosen, choice⟩ := (egressChoice_of_idle (s := { control with
      ptu := { control.ptu with pauseEnd := none } }) idle).2 rfl
    exact ⟨q, chosen, classify taken (step.trans choice)⟩
  · have step := (classify_good (good_at (t := t).mpr good)).trans ((if_neg (by
      rw [show etherType (wholeFrame { s with now := t } bytes) = _ from type]; decide)).trans
      (if_pos ⟨type, (diverted_iff (s := s) f).mpr ours⟩))
    refine ⟨fun short => classify taken (step.trans (divertFrame_short (s := { s with now := t }) short)),
      fun whole room => ?_, fun whole full => ?_⟩
    · exact classify taken (step.trans ((divertFrame_whole (s := { s with now := t }) whole).trans
        (queueRequest_room _ room)))
    · exact classify taken (step.trans ((divertFrame_whole (s := { s with now := t }) whole).trans
        (queueRequest_full _ full)))
  · have step := (classify_good (good_at (t := t).mpr good)).trans ((if_neg control).trans
      (if_neg fun h => other h.1 ((diverted_iff (s := s) f).mp h.2)))
    refine ⟨fun station => classify taken (step.trans (if_pos station)), fun elsewhere offline =>
      classify taken (step.trans ((if_neg elsewhere).trans (if_pos ?_)))⟩
    exact decide_eq_false offline

end Sys2Proof.Machine
end

section
/-! Frames from the port for the line: admission, and the claim that it opens (R40, R108, R110, R148, R149).
Obligation O54. -/

namespace Sys2Proof.Machine

/-! ### The level after a claim decision -/

/-- R113, R114: a claim decision leaves the level that it was taken at. -/
theorem claimDecision_prospective (s : State) :
    (claimDecision s).1.tsc.prospective = prospectiveLevel s.tsc := by
  rcases prospectiveLevel_cases s.tsc with ⟨l, train, e⟩ | ⟨none, -⟩
  · obtain ⟨-, top, -⟩ := newTrainLevel_eq_some train
    obtain ⟨seven, floor, filled, first⟩ := topQueue_eq_some top
    rcases formTrain_cases l s with ⟨empty, -⟩ | ⟨f, q, -, forms⟩
    · exact absurd empty filled
    obtain ⟨tags, tsc⟩ := advanceTags_tsc f.dest l (takeTrain f.dest trainFrames (f :: q)).1.length
      (s.mapTsc (formed l ⟨l, f.dest, tagFrames (tagCounter s f.dest l)
        (takeTrain f.dest trainFrames (f :: q)).1⟩ (takeTrain f.dest trainFrames (f :: q)).2))
    simp only [claimDecision, train, forms, State.mapTsc_tsc]
    rw [tsc, e]
    refine prospectiveLevel_eq_some_iff.mpr ⟨floor, .inr ⟨_, rfl, rfl⟩, fun j hj _ => ?_, fun a ha => ?_⟩
    · obtain ⟨-, others⟩ := queueAt_formed (train := ⟨l, f.dest, tagFrames (tagCounter s f.dest l)
        (takeTrain f.dest trainFrames (f :: q)).1⟩) (left := (takeTrain f.dest trainFrames (f :: q)).2)
        (lt_of_queueAt filled)
      exact (others j (by omega)).trans (first j hj)
    · rw [← Option.some.inj ha]
  · simp only [claimDecision, none, State.mapTsc_tsc]

section Admission

variable {s : State} {bytes : List Byte} {bad : Bool} {l n : Nat} {d : Dest}

/-! ### The admission test (R108) -/

theorem blocksOf_whole (good : GoodFrame s bytes bad) (blocks : n = ((wholeFrame s bytes).length + 127) / 128) :
    blocksOf (wholeFrame s bytes).length = n ∧ moverBlocks (wholeFrame s bytes).length = n := by
  have short := good.short
  rw [moverBlocks_eq, blocks]
  refine ⟨?_, by omega⟩
  simp only [blocksOf, blockPayload]
  omega

theorem admissible_iff (drawn : (inIngress s).drawn ≤ n)
    (blocks : moverBlocks (wholeFrame s bytes).length = n) :
    admissible l (arrived s bytes bad).short (atClassifier s bytes).bpm = true ↔
      NotShort s bytes ∧ 1 ≤ s.bpm.txDesc ∧ 8 * l + n ≤ s.bpm.txFree + (inIngress s).drawn := by
  have short : (arrived s bytes bad).short = false ↔ NotShort s bytes := grow_short_iff
  simp only [admissible, Bool.and_eq_true, decide_eq_true_iff, Bool.not_eq_true', short]
  have desc : 0 < (atClassifier s bytes).bpm.txDesc ↔ 1 ≤ s.bpm.txDesc := Iff.rfl
  rw [desc, and_assoc, and_left_comm]
  refine and_congr_right fun whole => and_congr_right fun _ => ?_
  obtain ⟨unmarked, enough⟩ := whole
  have draws : drawsFor s bytes = min s.bpm.txFree (n - (inIngress s).drawn) := by
    have : drawsFor s bytes = min s.bpm.txFree
        (moverBlocks (wholeFrame s bytes).length - (inIngress s).drawn) := by
      rw [wholeFrame, List.length_append]
      exact if_neg (Bool.eq_false_iff.mp unmarked)
    rwa [blocks] at this
  have enough : n ≤ (inIngress s).drawn + s.bpm.txFree := blocks ▸ enough
  have free : (atClassifier s bytes).bpm.txFree = s.bpm.txFree - drawsFor s bytes := rfl
  rw [free, draws]
  omega

/-! ### The frame admitted (R108, R110) -/

/-- The frame that admission makes of the bytes. -/
def dataFrame (l : Nat) (d : Dest) (bytes : List Byte) (s : State) : Frame :=
  newFrame .data l d bytes (after s.now (lifetimeOf s.tsc l)) s.tsc

/-- The state with the frame in its queue, its blocks and its descriptor taken, and no level reported yet. -/
def joined (l : Nat) (d : Dest) (bytes : List Byte) (s : State) : State :=
  { s with
    bpm := { s.bpm with
      txFree := s.bpm.txFree + (inIngress s).drawn - blocksOf (wholeFrame s bytes).length
      txDesc := s.bpm.txDesc - 1 }
    ptu := { s.ptu with ingress := none, receiving := false }
    tsc := joinQueue (dataFrame l d (wholeFrame s bytes) s) s.tsc
    mgu := { s.mgu with counters := { s.mgu.counters with
      portReceived := min 4294967295 (s.mgu.counters.portReceived + 1) } } }

theorem admitData_admits
    (admits : admissible l (arrived s bytes bad).short (atClassifier s bytes).bpm = true) :
    admitData l d (wholeFrame s bytes) (arrived s bytes bad).drawn (arrived s bytes bad).short
      (atClassifier s bytes) = recompute (joined l d bytes s) := by
  refine (if_pos admits).trans (congrArg recompute ?_)
  have free : (atClassifier s bytes).bpm.txFree + (arrived s bytes bad).drawn =
    s.bpm.txFree + (inIngress s).drawn := pool_restored
  simp only [State.mapBpm, free, newFrame, List.length_replicate]
  rfl

theorem admitData_drops
    (drops : ¬admissible l (arrived s bytes bad).short (atClassifier s bytes).bpm = true) :
    admitData l d (wholeFrame s bytes) (arrived s bytes bad).drawn (arrived s bytes bad).short
      (atClassifier s bytes) = { s with
        bpm := { s.bpm with txFree := s.bpm.txFree + (inIngress s).drawn }
        ptu := { s.ptu with ingress := none, receiving := false }
        mgu := latch .frameDroppedAdmission ({ s.mgu with counters := { s.mgu.counters with
          portReceived := min 4294967295 (s.mgu.counters.portReceived + 1) } }.counting
          (atLevel l fun c => { c with admissionDrops := min 4294967295 (c.admissionDrops + 1) })) } := by
  refine (if_neg drops).trans ?_
  have free : (atClassifier s bytes).bpm.txFree + (arrived s bytes bad).drawn =
    s.bpm.txFree + (inIngress s).drawn := pool_restored
  simp only [State.mapBpm, free]
  rfl

theorem queueAt_joined (queues : s.tsc.queues.length = 8) (level : l ≤ 7) :
    queueAt (joined l d bytes s).tsc l =
      queueAt s.tsc l ++ [dataFrame l d (wholeFrame s bytes) s] ∧
    ∀ j, j ≠ l → queueAt (joined l d bytes s).tsc j = queueAt s.tsc j := by
  have queue (j : Nat) := queueAt_updAt s.tsc l j fun q => q ++ [dataFrame l d (wholeFrame s bytes) s]
  exact ⟨(queue l).trans (if_pos ⟨rfl, by omega⟩), fun j hj => (queue j).trans (if_neg fun h => hj h.1.symm)⟩

/-- The frame is held after the report of the new prospective level: as it joined its queue where no claim
opens, in the train of the claim otherwise. -/
theorem joined_held (queues : s.tsc.queues.length = 8) (level : l ≤ 7) :
    ∃ x ∈ framesHeld (recompute (joined l d bytes s)).tsc,
      FrameStands (dataFrame l d (wholeFrame s bytes) s) x ∧
      (NoClaimOpens s → x = dataFrame l d (wholeFrame s bytes) s) := by
  have there : dataFrame l d (wholeFrame s bytes) s ∈ framesHeld (joined l d bytes s).tsc :=
    mem_framesHeld_of_queue (l := l) (by
      rw [(queueAt_joined queues level).1]
      exact List.mem_append_right _ (List.mem_singleton_self _))
  by_cases quiet : NoClaimOpens s
  · refine ⟨_, ?_, .inl rfl, fun _ => rfl⟩
    rw [recompute_of_noClaim (s := joined l d bytes s) quiet]
    exact there
  · obtain ⟨frames, -⟩ := recompute_stand (joined l d bytes s)
    obtain ⟨x, held, stands⟩ := frames.each _ there
    exact ⟨x, held, stands, fun h => absurd h quiet⟩

theorem dataFrame_desc {y : Frame} (held : y ∈ framesHeld s.tsc) (data : y.kind = .data) :
    y.desc ≠ (dataFrame l d bytes s).desc := fun same =>
  freshDescriptor_new .data s.tsc (List.mem_map.mpr
    ⟨frameKey y, List.mem_map_of_mem held, Prod.ext data same⟩)

/-- R40: the frame of a station that was not pending is claimed for at once, in IDLE on a quiet line. -/
theorem joined_claims (queues : s.tsc.queues.length = 8) (level : l ≤ 7) (idle : s.clc.medium = .idle)
    (quiet : s.clc.quietFlag = true) (online : s.suc.station = .online)
    (unreported : s.tsc.prospective = none) (none : prospectiveLevel s.tsc = none)
    (noTrain : s.tsc.active = .none) (floor : l ≤ s.tsc.floor) :
    Marked s.now l s (recompute (joined l d bytes s)) ∧
      (recompute (joined l d bytes s)).tsc.prospective = some l := by
  obtain ⟨queue, others⟩ := queueAt_joined (bytes := bytes) (d := d) queues level
  obtain ⟨empty, -⟩ := prospectiveLevel_eq_none_iff.mp none
  have claims : prospectiveLevel (joined l d bytes s).tsc = some l := by
    refine prospectiveLevel_eq_some_iff.mpr
      ⟨floor, .inl ⟨level, by rw [queue]; simp⟩, fun j hj seven => ?_, fun a ha => ?_⟩
    · exact (others j (by omega)).trans (empty j seven (by omega))
    · exact nomatch noTrain.symm.trans ha
  rw [recompute_of_claim (s := joined l d bytes s) idle quiet online claims
    (fun h => nomatch unreported.symm.trans h)]
  refine ⟨startMark_marked _ l (by simp; rfl) (by simp; rfl) (by simp; rfl) (by simp; rfl) (by simp; rfl), ?_⟩
  rw [show ∀ u r, (startMark u l r).tsc = r.tsc from fun u r => by simp]
  exact (claimDecision_prospective _).trans claims

/-- R149: the destination is what the address and the forwarding table give. -/
theorem frameDest_eq {p : Ptu} {f : List Byte} (group : isGroup (addrAt f 1) = true → d = .broadcast)
    (single : isGroup (addrAt f 1) = false →
      (∀ k e, forwardFind (addrAt f 1) p.fwd = some (k, e) → d = .peer e.peer) ∧
      (forwardFind (addrAt f 1) p.fwd = none → d = .broadcast)) : frameDest p f = d := by
  unfold frameDest
  cases g : isGroup (addrAt f 1) with
  | true => exact (group g).symm
  | false =>
    obtain ⟨known, unknown⟩ := single g
    cases found : forwardFind (addrAt f 1) p.fwd with
    | none => exact (unknown found).symm
    | some e => exact (known e.1 e.2 found).symm

/-- R145: a frame for the line goes to admission. -/
theorem portFrameReceived_forLine (line : ForLine s bytes bad) :
    portFrameReceived bytes bad s = admitData (frameLevel s.ptu (wholeFrame s bytes))
      (frameDest s.ptu (wholeFrame s bytes)) (wholeFrame s bytes) (arrived s bytes bad).drawn
      (arrived s bytes bad).short (atClassifier s bytes) := by
  obtain ⟨elsewhere, -⟩ := line.elsewhere
  rw [portFrameReceived_taken line.taken, classify_good line.good, if_neg line.notControl,
    if_neg fun h => by simp [line.notManagement h.1] at h, if_neg elsewhere,
    if_neg (by simp [State.isOnline, line.online])]

end Admission

/-- Settles O54: the admission test in the pool's numbers, the frame admitted, and the claim it opens. -/
theorem portFrameAdmitted : Obligations.PortFrameAdmitted := by
  intro t bytes bad l n dest s line f g blocks drawn level queues levels group single admits received
  have live := line.live
  obtain ⟨-, taken, good, control, management, elsewhere, online⟩ := line
  have line : ForLine { s with now := t } bytes bad :=
    ⟨live, taken, good_at.mpr good, control, management, elsewhere, online⟩
  obtain ⟨whole, mover⟩ := blocksOf_whole good blocks
  have received := (portFrameReceived_forLine line).trans (congrArg₂ (fun l d => admitData l d f
    (arrived { s with now := t } bytes bad).drawn (arrived { s with now := t } bytes bad).short
    (atClassifier { s with now := t } bytes)) levels.symm (frameDest_eq group single))
  have test : admissible l (arrived { s with now := t } bytes bad).short
      (atClassifier { s with now := t } bytes).bpm = true ↔ admits :=
    admissible_iff (s := { s with now := t }) drawn mover
  refine ⟨fun passes => ?_, fun fails =>
    exec_eq live (received.trans (admitData_drops fun h => fails (test.mp h)))⟩
  have result := exec_eq (c := .portFrameReceived t bytes bad) live
    (received.trans (admitData_admits (test.mpr passes)))
  obtain ⟨x, held, stands, unclaimed⟩ := joined_held (s := { s with now := t }) (bytes := bytes)
    (d := dest) queues level
  have shared : x.kind = .data ∧ x.level = l ∧ x.dest = dest ∧ x.bytes = f ∧
      x.blocks = List.replicate n ⟨.pending, false⟩ ∧ x.attempts = 0 ∧ x.expired = false ∧
      x.expiry = after t (1000 * s.tsc.lifetimes.getD l 0) ∧ x.desc = freshDescriptor .data s.tsc := by
    rw [← whole]
    rcases stands with rfl | ⟨tag, rfl⟩
    · exact ⟨rfl, rfl, rfl, rfl, rfl, rfl, rfl, rfl, rfl⟩
    · exact ⟨rfl, rfl, rfl, rfl, List.map_replicate, rfl, rfl, rfl, rfl⟩
  obtain ⟨kind, xlevel, xdest, xbytes, xblocks, attempts, expired, expiry, desc⟩ := shared
  obtain ⟨-, -, -, -, pools, port, management, -, -⟩ :=
    recompute_keeps (joined l dest bytes { s with now := t })
  refine ⟨_, x, result, held, kind, xlevel, xdest, xbytes, xblocks, attempts, expired, expiry,
    fun y hy data => desc ▸ dataFrame_desc (d := dest) (l := l) (bytes := f) hy data, ?_, ?_, ?_,
    fun quiet => ?_, fun idle quiet unreported none noTrain floor => ?_⟩
  · rw [pools, ← whole]
    rfl
  · exact port
  · exact management
  · obtain rfl := unclaimed quiet
    rw [recompute_of_noClaim (s := joined l dest bytes { s with now := t }) quiet]
    obtain ⟨queue, others⟩ := queueAt_joined (s := { s with now := t }) (bytes := bytes) (d := dest) queues level
    exact ⟨rfl, queue, others, rfl, rfl, rfl, rfl, rfl⟩
  · obtain ⟨marked, level⟩ := joined_claims (s := { s with now := t }) (bytes := bytes) (d := dest) queues
      level idle quiet online unreported none noTrain floor
    exact ⟨⟨marked.medium, marked.claim, marked.mark, marked.claimLevel, marked.generator, marked.word,
      marked.streak, marked.waited, marked.signal, marked.hand⟩, level⟩

end Sys2Proof.Machine
end

section
/-! The configuration block: its check, its apply, and the reply to CONFIG LOAD (R160 to R163, R173).
Obligation O56. -/

namespace Sys2Proof.Machine

/-! ### The block (R162) -/

/-- The tests of R162 on the bytes of a block. -/
def ValidBlock (bs : List Byte) : Prop :=
  fieldAt bs 1 2 = 0x4E4B ∧ byteAt bs 3 = 1 ∧
    fieldAt bs 51 2 = (crc16 (bytesBits (bs.take 50))).toNat ∧ isGroup (addrAt bs 4) = false ∧
    ∃ g, g < 60 ∧ (byteAt bs (12 + g / 8)).getLsbD (7 - g % 8) = false

theorem groupsOn_readNotch_pos (bs : List Byte) : 0 < groupsOn (readNotch bs) ↔
    ∃ g, g < 60 ∧ (byteAt bs (12 + g / 8)).getLsbD (7 - g % 8) = false := by
  simp [groupsOn, readNotch, List.length_pos_iff_exists_mem, groupCount]

theorem configValid_iff {n : Nat} {bs : List Byte} :
    configValid n bs = true ↔ n = 52 ∧ ValidBlock bs := by
  simp only [configValid, Bool.and_eq_true, decide_eq_true_iff, Bool.not_eq_true', groupsOn_readNotch_pos,
    ValidBlock]
  exact ⟨fun ⟨⟨⟨⟨⟨length, start⟩, version⟩, check⟩, single⟩, on⟩ => ⟨length, start, version, check, single, on⟩,
    fun ⟨length, start, version, check, single, on⟩ => ⟨⟨⟨⟨⟨length, start⟩, version⟩, check⟩, single⟩, on⟩⟩

theorem getElem?_map_range {α : Type} (f : Nat → α) {n k : Nat} (h : k < n) :
    ((List.range n).map f)[k]? = some (f k) := by
  rw [List.getElem?_map, List.getElem?_range h, Option.map_some]

/-- R160: a byte that the flash does not return reads 0xFF. -/
theorem fitTo_of_le {α : Type} {n : Nat} (x : α) {l : List α} (h : l.length ≤ n) :
    fitTo n x l = l ++ List.replicate (n - l.length) x := by
  rw [fitTo, List.take_append, List.take_of_length_le h, List.take_replicate, Nat.min_eq_left (by omega)]

theorem loadValid_iff {r : Request} : loadValid r = true ↔
    r.argLength = 52 ∧ 52 ≤ r.args.length ∧ ValidBlock (r.args.take 52) := by
  rw [loadValid, Bool.and_eq_true, decide_eq_true_iff, configValid_iff]
  constructor
  · rintro ⟨there, length, valid⟩
    rw [length] at there valid
    exact ⟨length, there, valid⟩
  · rintro ⟨length, there, valid⟩
    rw [length]
    exact ⟨there, rfl, valid⟩

/-- R42: the seed is the low 16 bits of the address, and 1 where they are 0. -/
theorem rngSeed_eq (a : Addr) : rngSeed a =
    BitVec.ofNat 16 (if a.toNat % 65536 = 0 then 1 else a.toNat % 65536) := by
  have low : a.setWidth 16 = BitVec.ofNat 16 (a.toNat % 65536) := by
    apply BitVec.eq_of_toNat_eq
    simp
  have zero : a.setWidth 16 = 0 ↔ a.toNat % 65536 = 0 := by
    rw [low, ← BitVec.toNat_inj]
    simp
  unfold rngSeed
  by_cases h : a.toNat % 65536 = 0
  · rw [if_pos h]
    exact if_pos (zero.mpr h)
  · rw [if_neg h, ← low]
    exact if_neg fun e => h (zero.mp e)

/-! ### The flash read (R160) -/

section Flash

variable {s : State} {d : Time}

theorem flashReadStart_due (config : s.suc.station = .config) (due : s.suc.flashDue = some d)
    (now : reached s.now d = true) :
    flashReadStart s = { s with suc := { s.suc with flashDue := none, flashRead := some d } } := by
  simp only [flashReadStart, due]
  exact if_pos ⟨config, now⟩

theorem flashReadEnd_due {bytes : List Byte} (config : s.suc.station = .config)
    (read : s.suc.flashRead = some d) (now : reached s.now (after d 35) = true) :
    flashReadEnd bytes s = if configValid 52 (fitTo 52 0xFF bytes)
      then applyConfig (readConfig .flash (fitTo 52 0xFF bytes))
        { s with suc := { s.suc with flashRead := none } }
      else { s with
        suc := { s.suc with flashRead := none, station := .configWait }
        mgu := latch .configInvalid s.mgu } := by
  simp only [flashReadEnd, read]
  exact if_pos ⟨config, now⟩

end Flash

/-! ### The reply handed to egress (R164) -/

/-- The state with a reply handed to egress: the slot, what the port sends, and the reply that waits. -/
def handed (slot : List Reply) (egress : Egress) (txError : Bool) (service : Option Reply) (s : State) : State :=
  { s with
    ptu := { s.ptu with slot := slot, egress := egress, txError := txError }
    mgu := { s.mgu with service := service } }

/-- A reply that is handed to egress changes the port's sending and the reply that waits, and nothing else. -/
theorem Offered.handed {r : Reply} {s s' : State} (h : Offered r s s') :
    ∃ slot egress txError service, s' = handed slot egress txError service s := by
  by_cases full : 2 ≤ s.ptu.slot.length
  · exact ⟨_, _, _, _, h.full full⟩
  by_cases waits : s.ptu.egress ≠ .idle ∨ pauseHolds s.now s.ptu = true
  · exact ⟨_, _, _, _, h.waits (by omega) waits⟩
  obtain ⟨idle, free⟩ := not_or.mp waits
  have idle := Classical.not_not.mp idle
  have free := Bool.not_eq_true _ ▸ free
  match slot : s.ptu.slot, full with
  | [], _ => exact ⟨_, _, _, _, h.starts slot idle free⟩
  | [x], _ => exact ⟨_, _, _, _, h.oldest x slot idle free⟩
  | _ :: _ :: _, full => exact absurd (by simp) full

/-- The prospective claim level computed afresh, with no claim opened by it (R113). -/
def leveled (s : State) : State := s.mapTsc fun q => { q with prospective := prospectiveLevel s.tsc }

/-- R163: an apply outside IDLE opens no claim period. -/
theorem applyConfig_of_not_idle {c : ConfigImage} {s : State} (idle : s.clc.medium ≠ .idle) :
    applyConfig c s = leveled (configured c s) :=
  (applyConfig_eq c s).trans (recompute_of_not_idle idle)

/-- R162, R172: a CONFIG LOAD in CONFIG_WAIT whose block is refused. -/
theorem answerConfigLoad_refused {r : Request} {s : State} (waits : s.suc.station = .configWait)
    (refused : ¬loadValid r = true) :
    answerConfigLoad r s = answer r .badArgument [] { s with mgu := latch .configInvalid s.mgu } :=
  (if_pos waits).trans (if_neg refused)

theorem answerConfigLoad_applied {r : Request} {s : State} (waits : s.suc.station = .configWait)
    (valid : loadValid r = true) : answerConfigLoad r s =
      answer r .ok [] (applyConfig (readConfig .port (r.args.take r.argLength)) s) :=
  (if_pos waits).trans (if_pos valid)

/-- Settles O56: the image of the block stands in the state that the apply leaves, and a reply moves the
port's sending alone. -/
theorem configApplied : Obligations.ConfigApplied := by
  intro t d r rest block s live valid low applied
  have applies (source : Strap) (u : Suc) (strap : u.strap = s.suc.strap) (queue : List Request)
      (idle : s.clc.medium ≠ .idle) (a : List Reply) (b : Egress) (e : Bool) (w : Option Reply) :
      applied source (handed a b e w (applyConfig (readConfig source block)
        { s with now := t, suc := u, mgu := { s.mgu with queue := queue } })) := by
    rw [applyConfig_of_not_idle (by exact idle)]
    refine ⟨rfl, rfl, rfl, ⟨_, rfl, rfl⟩, rfl, rfl, live, strap, rfl, ?_, fun g hg => ?_, rfl, ?_, rfl, rfl, ?_, ?_,
      rfl, fun l hl => ⟨?_, ?_⟩, rfl, rfl, rfl, rfl, rfl, rfl, rfl, rfl, rfl, rfl, rfl, rfl, rfl, rfl⟩
    · exact (List.length_map ..).trans (List.length_range ..)
    · exact getElem?_map_range _ hg
    · exact congrArg (fun g => { s.clc with rng := g }) (rngSeed_eq _)
    · exact (List.length_map ..).trans (List.length_range ..)
    · exact (List.length_map ..).trans (List.length_range ..)
    · exact getElem?_map_range _ hl
    · exact getElem?_map_range _ hl
  refine ⟨fun config due now => exec_eq live (flashReadStart_due (s := { s with now := t }) config due now),
    fun bytes config read now length padded => ?_, fun due code => ?_⟩
  · have ends := flashReadEnd_due (s := { s with now := t }) (bytes := bytes) config read now
    rw [fitTo_of_le _ length, ← padded] at ends
    refine ⟨fun sound idle => ?_, fun wrong => ?_⟩
    · have done := ends.trans (if_pos (configValid_iff.mpr ⟨rfl, sound⟩))
      refine ⟨_, exec_eq live done, applies .flash { s.suc with flashRead := none } rfl s.mgu.queue idle
        s.ptu.slot s.ptu.egress s.ptu.txError s.mgu.service, ?_⟩
      rw [applyConfig_of_not_idle (by exact idle)]
      exact ⟨rfl, rfl, rfl, rfl, rfl, rfl, rfl⟩
    · exact exec_eq live (ends.trans (if_neg fun h => wrong (configValid_iff.mp h).2))
  · intro taken
    have takes : exec (.configLoad t) s = .next (answerConfigLoad r taken) :=
      exec_request rfl due (decide_eq_true code)
    refine ⟨fun other => ⟨_, takes.trans (congrArg _ (if_neg other)), offerReply_offered _ _⟩, fun waits =>
      ⟨fun length args whole sound idle => ?_, fun refused => ?_⟩⟩
    · have load : loadValid r = true := loadValid_iff.mpr
        ⟨length, by rw [← args, List.length_take] at whole; omega, by rw [args]; exact sound⟩
      have answered := answerConfigLoad_applied (s := taken) waits load
      rw [length, args] at answered
      have loads := applies .port s.suc rfl rest idle
      rw [applyConfig_of_not_idle (by exact idle)] at answered loads
      have offered := offerReply_offered ⟨encodeReply (addrAt block 4) r .ok [], false⟩
        (leveled (configured (readConfig .port block) taken))
      obtain ⟨slot, egress, txError, service, result⟩ := offered.handed
      have free : handed s.ptu.slot s.ptu.egress s.ptu.txError none
            (leveled (configured (readConfig .port block) taken)) =
          leveled (configured (readConfig .port block) taken) :=
        congrArg (handed s.ptu.slot s.ptu.egress s.ptu.txError · _) due.service.symm
      have takes := takes.trans (congrArg _ (answered.trans result))
      refine ⟨_, takes, loads slot egress txError service, rfl, rfl, rfl, ?_⟩
      change Offered _ (handed s.ptu.slot s.ptu.egress s.ptu.txError none
        (leveled (configured (readConfig .port block) taken))) _
      rw [free, ← result]
      exact offered
    · have load : ¬loadValid r = true := fun h => by
        obtain ⟨length, there, sound⟩ := loadValid_iff.mp h
        rcases refused with other | short | ⟨args, wrong⟩
        · exact other length
        · omega
        · rw [args] at sound
          exact wrong sound
      exact ⟨_, takes.trans (congrArg _ (answerConfigLoad_refused waits load)), offerReply_offered _ _⟩

end Sys2Proof.Machine
end

section
/-! The bytes of a reply and of its contents: where each field of IDENTIFY, STATUS, PEER LIST and PEER DETAIL
stands (R172). -/

namespace Sys2Proof.Machine

/-! ### What stands from a place on -/

section Places

variable {bs x rest : List Byte} {m j n : Nat}

theorem byteAt_of_drop (h : bs.drop m = x ++ rest) (first : 1 ≤ j) (last : j ≤ x.length) :
    byteAt bs (m + j) = byteAt x j := by
  have place : bs.getD (m + j - 1) 0 = (bs.drop m).getD (j - 1) 0 := by
    rw [List.getD_eq_getElem?_getD, List.getD_eq_getElem?_getD, List.getElem?_drop, Nat.add_sub_assoc first]
  rw [byteAt, place, h, List.getD_append _ _ _ _ (by omega)]
  rfl

theorem fieldAt_of_drop (h : bs.drop m = x ++ rest) (first : 1 ≤ j) (last : j + n ≤ x.length + 1) :
    fieldAt bs (m + j) n = fieldAt x j n := by
  rw [fieldAt, fieldAt, Nat.add_sub_assoc first, ← List.drop_drop, h, List.drop_append_of_le_length (by omega),
    List.take_append_of_le_length (by rw [List.length_drop]; omega)]

theorem addrAt_of_drop (h : bs.drop m = x ++ rest) (first : 1 ≤ j) (last : j + 6 ≤ x.length + 1) :
    addrAt bs (m + j) = addrAt x j := congrArg _ (fieldAt_of_drop h first last)

end Places

/-- Piece `k` of pieces of one length stands at its place after what comes before them. -/
theorem drop_pieces {α : Type} {f : α → List Byte} {w k : Nat} {l : List α} {x : α}
    (width : ∀ x ∈ l, (f x).length = w) (hk : l[k]? = some x) (before rest : List Byte) :
    (before ++ (l.flatMap f ++ rest)).drop (before.length + w * k) =
      f x ++ ((l.drop (k + 1)).flatMap f ++ rest) := by
  have there : w * k ≤ (l.flatMap f).length := by
    obtain ⟨hlt, -⟩ := List.getElem?_eq_some_iff.1 hk
    rw [flatMap_length width]
    exact Nat.mul_le_mul_left w hlt.le
  rw [← List.drop_drop, List.drop_left, List.drop_append_of_le_length there, drop_flatMap_of_get width hk,
    List.append_assoc]

theorem natBytes_four_lt {n : Nat} (h : n ≤ 4294967295) : n < 256 ^ 4 := by omega

theorem fieldAt_natBytes_self {k n : Nat} (h : n < 256 ^ k) : fieldAt (natBytes k n) 1 k = n := by
  simpa using fieldAt_natBytes h []

/-- A list of counters, each in four bytes. -/
theorem fieldAt_counters {l : List Nat} {k n : Nat} (hk : l[k]? = some n) (range : n ≤ 4294967295)
    (before : List Byte) : fieldAt (before ++ l.flatMap (natBytes 4)) (before.length + 4 * k + 1) 4 = n := by
  have place := drop_pieces (fun n _ => natBytes_length 4 n) hk before []
  rw [List.append_nil] at place
  rw [fieldAt_of_drop place le_rfl (by rw [natBytes_length]), fieldAt_natBytes_self (natBytes_four_lt range)]

/-! ### A reply (R172) -/

theorem encodeReply_places (a : Addr) (r : Request) (result : ResultCode) (contents : List Byte)
    (sequence : r.sequence < 65536) (length : contents.length < 65536) :
    let f := encodeReply a r result contents
    f.length = 20 + contents.length ∧ addrAt f 1 = r.source ∧ addrAt f 7 = a ∧
    fieldAt f 13 2 = 0x89C3 ∧ byteAt f 15 = r.code + 0x80 ∧ fieldAt f 16 2 = r.sequence ∧
    byteAt f 18 = resultByte result ∧ fieldAt f 19 2 = contents.length ∧ f.drop 20 = contents := by
  intro f
  have pieces : f = addrBytes r.source ++ (addrBytes a ++ (natBytes 2 managementType ++ ([r.code + 0x80] ++
      (natBytes 2 r.sequence ++ ([resultByte result] ++ (natBytes 2 contents.length ++ contents)))))) := by
    simp only [f, encodeReply, List.append_assoc]
  have tail : f.drop 20 = contents := List.drop_left' rfl
  clear_value f
  subst pieces
  refine ⟨?_, addrAt_addrBytes _ _, ?_, ?_, ?_, ?_, ?_, ?_, tail⟩
  all_goals simp only [addrAt_append, fieldAt_append, byteAt_append, addrBytes_length, natBytes_length,
    List.length_append, List.length_singleton, Nat.reduceSub, Nat.reduceLT]
  · omega
  · exact addrAt_addrBytes _ _
  · exact fieldAt_natBytes (by decide) _
  · rfl
  · exact fieldAt_natBytes sequence _
  · rfl
  · exact fieldAt_natBytes length _

/-! ### IDENTIFY and STATUS (R172) -/

theorem identifyContents_places (s : State) :
    let f := identifyContents s
    f.length = 13 ∧ byteAt f 1 = flagByte s.suc.address.isSome ∧
    addrAt f 2 = s.suc.address.getD 0 ∧ fieldAt f 8 2 = 0x0612 ∧ byteAt f 10 = strapByte s.suc.strap ∧
    byteAt f 11 = sourceByte s.suc.image ∧ byteAt f 12 = stationByte s.suc.station ∧
    byteAt f 13 = lockByte s.lcu.lock := by
  intro f
  have pieces : f = [flagByte s.suc.address.isSome] ++ (addrBytes (s.suc.address.getD 0) ++
      [0x06, 0x12, strapByte s.suc.strap, sourceByte s.suc.image, stationByte s.suc.station,
        lockByte s.lcu.lock]) := by
    simp only [f, identifyContents, List.append_assoc, List.cons_append, List.nil_append]
  clear_value f
  subst pieces
  refine ⟨rfl, rfl, ?_, ?_, ?_, ?_, ?_, ?_⟩
  all_goals simp only [addrAt_append, fieldAt_append, byteAt_append, addrBytes_length,
    List.length_singleton, Nat.reduceSub, Nat.reduceLT]
  · exact addrAt_addrBytes _ _
  all_goals rfl

theorem statusContents_places (s : State) :
    let f := statusContents s
    fieldAt f 1 2 = s.mgu.flags.toNat ∧ fieldAt f 3 2 = s.mgu.mask.toNat ∧
    byteAt f 5 = stationByte s.suc.station ∧ byteAt f 6 = lockByte s.lcu.lock ∧
    (s.lcu.p16 < 4294967296 → fieldAt f 7 4 = s.lcu.p16) ∧ byteAt f 11 = BitVec.ofNat 8 (activeRecords s) ∧
    byteAt f 12 = BitVec.ofNat 8 s.tsc.floor ∧
    f.length = 12 + 4 * (counterList s.mgu.counters).length ∧
    ∀ k n, (counterList s.mgu.counters)[k]? = some n → n ≤ 4294967295 → fieldAt f (13 + 4 * k) 4 = n := by
  intro f
  have pieces : f = natBytes 2 s.mgu.flags.toNat ++ (natBytes 2 s.mgu.mask.toNat ++
      ([stationByte s.suc.station, lockByte s.lcu.lock] ++ (natBytes 4 s.lcu.p16 ++
        ([BitVec.ofNat 8 (activeRecords s), BitVec.ofNat 8 s.tsc.floor] ++
          (counterList s.mgu.counters).flatMap (natBytes 4))))) := by
    simp only [f, statusContents, eventBytes, List.append_assoc]
  have head : f = (natBytes 2 s.mgu.flags.toNat ++ natBytes 2 s.mgu.mask.toNat ++
      [stationByte s.suc.station, lockByte s.lcu.lock] ++ natBytes 4 s.lcu.p16 ++
        [BitVec.ofNat 8 (activeRecords s), BitVec.ofNat 8 s.tsc.floor]) ++
          (counterList s.mgu.counters).flatMap (natBytes 4) := by
    simp only [f, statusContents, eventBytes]
  clear_value f
  have counters (k n : Nat) (hk : (counterList s.mgu.counters)[k]? = some n) (range : n ≤ 4294967295) :
      fieldAt f (13 + 4 * k) 4 = n := by
    have place := fieldAt_counters hk range (natBytes 2 s.mgu.flags.toNat ++ natBytes 2 s.mgu.mask.toNat ++
      [stationByte s.suc.station, lockByte s.lcu.lock] ++ natBytes 4 s.lcu.p16 ++
        [BitVec.ofNat 8 (activeRecords s), BitVec.ofNat 8 s.tsc.floor])
    rw [← head] at place
    convert place using 2
    simp only [List.length_append, natBytes_length, List.length_cons, List.length_nil]
    omega
  clear head
  have word (b : BitVec 14) : b.toNat < 256 ^ 2 := b.isLt.trans (by decide)
  subst pieces
  refine ⟨fieldAt_natBytes (word _) _, ?_, ?_, ?_, fun range => ?_, ?_, ?_, ?_, counters⟩
  all_goals simp only [fieldAt_append, byteAt_append, natBytes_length, List.length_append,
    List.length_cons, List.length_nil, Nat.reduceSub, Nat.reduceLT, Nat.reduceAdd]
  · exact fieldAt_natBytes (word _) _
  · rfl
  · rfl
  · exact fieldAt_natBytes range _
  · rfl
  · rfl
  · rw [flatMap_length fun n _ => natBytes_length 4 n]
    omega

/-! ### PEER LIST (R65, R172) -/

theorem length_entries {α : Type} (l : List (Option α)) (n : Nat) :
    ((l.zipIdx n).filterMap fun (x, k) => x.map fun e => (k + 1, e)).length =
      (l.filter fun x => x.isSome).length := by
  induction l generalizing n with
  | nil => rfl
  | cons x l ih =>
    cases x with
    | none => exact ih (n + 1)
    | some x => exact congrArg (· + 1) (ih (n + 1))

/-- An entry stands after those before it in the table. -/
theorem getElem?_entries {α : Type} {l : List (Option α)} {j : Nat} {x : α} (h : l[j]? = some (some x))
    (n : Nat) : ((l.zipIdx n).filterMap fun (x, k) => x.map fun e => (k + 1, e))[
      ((l.take j).filter fun x => x.isSome).length]? = some (n + j + 1, x) := by
  induction l generalizing n j with
  | nil => exact nomatch h
  | cons y l ih =>
    cases j with
    | zero =>
      obtain rfl : y = some x := Option.some.inj h
      rfl
    | succ j =>
      have there := ih (j := j) h (n + 1)
      rw [Nat.add_right_comm n 1 j] at there
      cases y with
      | none => exact there
      | some y => exact there

theorem activeRecords_eq (s : State) : activeRecords s = (s.peers.filter fun p => p.isSome).length :=
  length_entries s.peers 0

theorem tableEntries_get {s : State} {i : Nat} {p : Peer} (h : s.peer i = some p) :
    (tableEntries s.peers)[((s.peers.take (i - 1)).filter fun p => p.isSome).length]? = some (i, p) := by
  obtain ⟨k, rfl⟩ : ∃ k, i = k + 1 := ⟨i - 1, by have := tableGet_range h; omega⟩
  have there : s.peers[k]? = some (some p) := Option.join_eq_some_iff.mp h
  have entry := getElem?_entries there 0
  rw [Nat.zero_add] at entry
  exact entry

theorem peerLine_length (now : Time) (e : Nat × Peer) : (peerLine now e).length = 13 := by
  simp [peerLine, addrBytes_length, natBytes_length]

theorem peerLine_places (now : Time) (i : Nat) (p : Peer) :
    let f := peerLine now (i, p)
    byteAt f 1 = BitVec.ofNat 8 i ∧ addrAt f 2 = p.address ∧ fieldAt f 8 4 = elapsed p.lastHeard now / 1000 ∧
    byteAt f 12 = flagByte p.txMaps.isSome ∧ byteAt f 13 = BitVec.ofNat 8 p.fallback := by
  intro f
  have pieces : f = [BitVec.ofNat 8 i] ++ (addrBytes p.address ++ (natBytes 4 (elapsed p.lastHeard now / 1000) ++
      [flagByte p.txMaps.isSome, BitVec.ofNat 8 p.fallback])) := by
    simp only [f, peerLine, List.append_assoc]
  have range : elapsed p.lastHeard now / 1000 < 256 ^ 4 := by
    have : elapsed p.lastHeard now < 4294967296 := BitVec.isLt _
    omega
  clear_value f
  subst pieces
  refine ⟨rfl, ?_, ?_, ?_, ?_⟩
  all_goals simp only [addrAt_append, fieldAt_append, byteAt_append, addrBytes_length, natBytes_length,
    List.length_singleton, Nat.reduceSub, Nat.reduceLT]
  · exact addrAt_addrBytes _ _
  · exact fieldAt_natBytes range _
  all_goals rfl

theorem peerListContents_places (s : State) :
    let f := peerListContents s
    f.length = 1 + 13 * activeRecords s ∧ byteAt f 1 = BitVec.ofNat 8 (activeRecords s) ∧
    ∀ (i k : Nat) (p : Peer), s.peer i = some p →
      k = ((s.peers.take (i - 1)).filter fun p => p.isSome).length →
      byteAt f (2 + 13 * k) = BitVec.ofNat 8 i ∧ addrAt f (3 + 13 * k) = p.address ∧
      fieldAt f (9 + 13 * k) 4 = elapsed p.lastHeard s.now / 1000 ∧
      byteAt f (13 + 13 * k) = flagByte p.txMaps.isSome ∧ byteAt f (14 + 13 * k) = BitVec.ofNat 8 p.fallback := by
  intro f
  refine ⟨?_, rfl, fun i k p peer place => ?_⟩
  · simp only [f, peerListContents, List.length_append, flatMap_length fun e _ => peerLine_length s.now e]
    rfl
  · have line := drop_pieces (fun e _ => peerLine_length s.now e) (tableEntries_get peer)
      [BitVec.ofNat 8 (activeRecords s)] []
    rw [List.append_nil, ← place] at line
    have line : f.drop (1 + 13 * k) = _ := line
    have long := peerLine_length s.now (i, p)
    obtain ⟨index, address, heard, maps, fallback⟩ := peerLine_places s.now i p
    rw [show 2 + 13 * k = 1 + 13 * k + 1 by omega, show 3 + 13 * k = 1 + 13 * k + 2 by omega,
      show 9 + 13 * k = 1 + 13 * k + 8 by omega, show 13 + 13 * k = 1 + 13 * k + 12 by omega,
      show 14 + 13 * k = 1 + 13 * k + 13 by omega]
    rw [byteAt_of_drop line (by omega) (by omega), addrAt_of_drop line (by omega) (by omega),
      fieldAt_of_drop line (by omega) (by omega), byteAt_of_drop line (by omega) (by omega),
      byteAt_of_drop line (by omega) (by omega)]
    exact ⟨index, address, heard, maps, fallback⟩

/-! ### PEER DETAIL (R65, R172) -/

theorem MapInRange.fits {m : VersionedMap} (h : MapInRange m) : m.Fits :=
  ⟨h.version.trans (by decide), h.groups, fun b hb => (h.loads b hb).trans (by decide)⟩

theorem txMapBytes_length {p : Peer} (shape : PeerShape p) : (txMapBytes p.txMaps).length = 145 := by
  cases maps : p.txMaps with
  | none => exact List.length_replicate
  | some x =>
    obtain ⟨windows, -⟩ := shape.txWindows x maps
    obtain ⟨slots, -⟩ := shape.txSlots x maps
    simp only [txMapBytes, List.length_append, List.length_cons, natBytes_length, List.length_map, windows,
      flatMap_length fun y _ => slotRecord_length y, slots]
    rfl

section Detail

variable {i part : Nat} {p : Peer}

theorem detailPart0_tail : (detailPart0 i p).drop 1 = txMapBytes p.txMaps ++
    ((p.rxMaps.flatMap fun r => slotRecord r.current) ++ (peerCounterList p.counters).flatMap (natBytes 4)) := by
  rw [detailPart0, List.append_assoc, List.append_assoc]
  rfl

theorem rxRecords_length (shape : PeerShape p) :
    (p.rxMaps.flatMap fun r => slotRecord r.current).length = 128 := by
  rw [flatMap_length fun r _ => slotRecord_length r.current, shape.rxSlots]
  rfl

theorem detailPart0_length (shape : PeerShape p) : (detailPart0 i p).length = 302 := by
  simp only [detailPart0, List.length_append, List.length_singleton, txMapBytes_length shape,
    rxRecords_length shape, flatMap_length fun n _ => natBytes_length 4 n]
  rfl

/-- PEER DETAIL: a byte of the transmit map set. -/
theorem detailPart0_tx {j : Nat} (shape : PeerShape p) (first : 1 ≤ j) (last : j ≤ 145) :
    byteAt (detailPart0 i p) (1 + j) = byteAt (txMapBytes p.txMaps) j :=
  byteAt_of_drop detailPart0_tail first (by rwa [txMapBytes_length shape])

theorem detailPart0_present (shape : PeerShape p) :
    byteAt (detailPart0 i p) 2 = if p.txMaps = none then 0 else 1 := by
  rw [detailPart0_tx (j := 1) shape (by omega) (by omega)]
  cases p.txMaps <;> rfl

/-- Without a transmit map set its places are zero. -/
theorem detailPart0_absent (shape : PeerShape p) (none : p.txMaps = .none) {k : Nat} (first : 3 ≤ k)
    (last : k ≤ 146) : byteAt (detailPart0 i p) k = 0 := by
  obtain ⟨j, rfl⟩ : ∃ j, k = 1 + (j + 1) := ⟨k - 2, by omega⟩
  rw [detailPart0_tx shape (by omega) (by omega), none]
  exact byteAt_of_get (List.getElem?_replicate_of_lt (show j < 145 by omega))

/-- PEER DETAIL: the install time, the window list and the slots of a transmit map set. -/
theorem detailPart0_maps (shape : PeerShape p) {x : TxMapSet} (maps : p.txMaps = some x) :
    fieldAt (detailPart0 i p) 3 4 = x.installed.toNat ∧
    (∀ w y, x.windows[w]? = some y → byteAt (detailPart0 i p) (7 + w) = windowByte y) ∧
    ∀ k y, x.slots[k]? = some y → RecordBytes (((detailPart0 i p).drop (18 + 32 * k)).take 32) y := by
  obtain ⟨windows, -⟩ := shape.txWindows x maps
  obtain ⟨-, ranges⟩ := shape.txSlots x maps
  have pieces : detailPart0 i p = [BitVec.ofNat 8 i, 1] ++ (natBytes 4 x.installed.toNat ++
      (x.windows.map windowByte ++ (x.slots.flatMap slotRecord ++
        ((p.rxMaps.flatMap fun r => slotRecord r.current) ++
          (peerCounterList p.counters).flatMap (natBytes 4))))) := by
    simp only [detailPart0, maps, txMapBytes, List.append_assoc, List.cons_append, List.nil_append]
  refine ⟨?_, fun w y hw => ?_, fun k y hk => ?_⟩
  · rw [pieces, fieldAt_append (show 2 < 3 by decide)]
    exact fieldAt_natBytes x.installed.isLt _
  · obtain ⟨there, -⟩ := List.getElem?_eq_some_iff.mp hw
    rw [pieces, byteAt_append (by rw [List.length_cons, List.length_singleton]; omega),
      byteAt_append (by rw [natBytes_length, List.length_cons, List.length_singleton]; omega),
      byteAt_append_left (by
        rw [natBytes_length, List.length_cons, List.length_singleton, List.length_map]; omega),
      natBytes_length, show 7 + w - [BitVec.ofNat 8 i, 1].length - 4 = w + 1 by
        rw [List.length_cons, List.length_singleton]; omega]
    exact byteAt_of_get (by rw [List.getElem?_map, hw, Option.map_some])
  · have place := drop_pieces (fun y _ => slotRecord_length y) hk
      ([BitVec.ofNat 8 i, 1] ++ natBytes 4 x.installed.toNat ++ x.windows.map windowByte)
      ((p.rxMaps.flatMap fun r => slotRecord r.current) ++
          (peerCounterList p.counters).flatMap (natBytes 4))
    rw [List.length_append, List.length_append, natBytes_length, List.length_map, windows, List.append_assoc,
      List.append_assoc, ← pieces] at place
    rw [show (detailPart0 i p).drop (18 + 32 * k) = _ from place, List.take_left' (slotRecord_length y)]
    exact recordBytes_slotRecord fun m hm => (ranges m (hm ▸ List.mem_of_getElem? hk)).fits

/-- PEER DETAIL: the current receive map of each slot. -/
theorem detailPart0_rx (shape : PeerShape p) {k : Nat} {r : RxSlot} (hk : p.rxMaps[k]? = some r) :
    RecordBytes (((detailPart0 i p).drop (146 + 32 * k)).take 32) r.current := by
  have place := drop_pieces (fun (r : RxSlot) _ => slotRecord_length r.current) hk
    ([BitVec.ofNat 8 i] ++ txMapBytes p.txMaps) ((peerCounterList p.counters).flatMap (natBytes 4))
  rw [List.length_append, txMapBytes_length shape, ← List.append_assoc] at place
  rw [show (detailPart0 i p).drop (146 + 32 * k) = _ from place, List.take_left' (slotRecord_length r.current)]
  exact recordBytes_slotRecord fun m hm => (shape.rxMaps r (List.mem_of_getElem? hk) m (.inl hm)).fits

/-- PEER DETAIL: the counters. -/
theorem detailPart0_counters (shape : PeerShape p) {k n : Nat}
    (hk : (peerCounterList p.counters)[k]? = some n) (range : n ≤ 4294967295) :
    fieldAt (detailPart0 i p) (275 + 4 * k) 4 = n := by
  have place := fieldAt_counters hk range ([BitVec.ofNat 8 i] ++ txMapBytes p.txMaps ++
    p.rxMaps.flatMap fun r => slotRecord r.current)
  rw [List.length_append, List.length_append, txMapBytes_length shape, rxRecords_length shape,
    List.length_singleton] at place
  rwa [show 275 + 4 * k = 1 + 145 + 128 + 4 * k + 1 by omega]

theorem groupBytes_length (w : WindowStore) :
    (w.groups.flatMap fun g => [BitVec.ofNat 8 g.average, BitVec.ofNat 8 g.worst]).length =
      2 * w.groups.length := flatMap_length fun _ _ => rfl

theorem windowBytes_group {w : WindowStore} {g : Nat} {y : GroupStat} (hg : w.groups[g]? = some y) :
    byteAt (windowBytes w) (2 + 2 * g) = BitVec.ofNat 8 y.average ∧
    byteAt (windowBytes w) (3 + 2 * g) = BitVec.ofNat 8 y.worst := by
  have place := drop_pieces (w := 2) (f := fun g : GroupStat => [BitVec.ofNat 8 g.average, BitVec.ofNat 8 g.worst])
    (fun _ _ => rfl) hg [BitVec.ofNat 8 w.count] []
  rw [List.append_nil] at place
  have place : (windowBytes w).drop (1 + 2 * g) = _ := place
  rw [show 2 + 2 * g = 1 + 2 * g + 1 by omega, show 3 + 2 * g = 1 + 2 * g + 2 by omega,
    byteAt_of_drop place le_rfl (show 1 ≤ 2 by decide), byteAt_of_drop place (by omega) (show 2 ≤ 2 from le_rfl)]
  exact ⟨rfl, rfl⟩

/-- PEER DETAIL: the windows of the store. -/
theorem detailStore_places (shape : PeerShape p) (first : 1 ≤ part) (last : part ≤ 2) :
    let f := detailStore i part p
    f.length = 728 ∧ ∀ w x, w < 6 → p.store[6 * (part - 1) + w]? = some x →
      byteAt f (3 + 121 * w) = BitVec.ofNat 8 x.count ∧
      ∀ g y, x.groups[g]? = some y →
        byteAt f (4 + 121 * w + 2 * g) = BitVec.ofNat 8 y.average ∧
        byteAt f (5 + 121 * w + 2 * g) = BitVec.ofNat 8 y.worst := by
  intro f
  obtain ⟨windows, groups⟩ := shape.windows
  have windowLength (x : WindowStore) (hx : x ∈ p.store) : (windowBytes x).length = 121 := by
    rw [windowBytes, List.length_cons, groupBytes_length, groups x hx]
    rfl
  have width : ∀ x ∈ (p.store.drop (6 * (part - 1))).take 6, (windowBytes x).length = 121 := fun x hx =>
    windowLength x (List.mem_of_mem_drop (List.mem_of_mem_take hx))
  have six : ((p.store.drop (6 * (part - 1))).take 6).length = 6 := by
    rw [List.length_take, List.length_drop, windows, windowCount]
    omega
  refine ⟨by rw [show f.length = _ from List.length_append, flatMap_length width, six]; rfl,
    fun w x hw hx => ?_⟩
  have place := drop_pieces width (by rw [List.getElem?_take_of_lt hw, List.getElem?_drop]; exact hx)
    [BitVec.ofNat 8 i, BitVec.ofNat 8 part] []
  rw [List.append_nil] at place
  have place : f.drop (2 + 121 * w) = _ := place
  have length := windowLength x (List.mem_of_getElem? hx)
  refine ⟨?_, fun g y hg => ?_⟩
  · rw [show 3 + 121 * w = 2 + 121 * w + 1 by omega, byteAt_of_drop place le_rfl (by omega)]
    rfl
  · obtain ⟨average, worst⟩ := windowBytes_group hg
    have there : g < 60 := by
      obtain ⟨hlt, -⟩ := List.getElem?_eq_some_iff.mp hg
      exact hlt.trans_eq (groups x (List.mem_of_getElem? hx))
    rw [show 4 + 121 * w + 2 * g = 2 + 121 * w + (2 + 2 * g) by omega,
      show 5 + 121 * w + 2 * g = 2 + 121 * w + (3 + 2 * g) by omega,
      byteAt_of_drop place (by omega) (by omega), byteAt_of_drop place (by omega) (by omega)]
    exact ⟨average, worst⟩

theorem peerDetailContents_index : byteAt (peerDetailContents i part p) 1 = BitVec.ofNat 8 i := by
  unfold peerDetailContents
  split <;> rfl

end Detail

end Sys2Proof.Machine
end

section
/-! The requests and their answers (R116, R164 to R168, R172). Obligation O57. -/

namespace Sys2Proof.Machine

/-! ### The floor and the claim that it opens (R40, R116) -/

/-- R40, R113: where a report names no new level, or opens no claim period, the prospective claim level moves
and nothing else. -/
theorem recompute_quiet {s : State} (quiet : NoClaimOpens s ∨ prospectiveLevel s.tsc = none ∨
    prospectiveLevel s.tsc = s.tsc.prospective) : recompute s = leveled s := by
  rcases quiet with none | none | same
  · exact recompute_of_noClaim none
  · rcases recompute_cases s with ⟨same, e⟩ | ⟨-, e | ⟨-, -, -, e⟩⟩
    · rw [e, leveled, same]; rfl
    · exact e
    · rw [e, openClaim_none (by exact none), leveled, none]; rfl
  · rw [leveled, same]
    exact if_pos same

/-- A frame that forms a train there forms it here, where queues, trains and tag counters are those. -/
theorem FormsTrain.congr {l n k : Nat} {f : Frame} {rest : List Frame} {s r : State}
    (forms : FormsTrain l f rest n k s) (queues : r.tsc.queues = s.tsc.queues)
    (active : r.tsc.active = s.tsc.active) (tags : r.tsc.bcastTags = s.tsc.bcastTags)
    (peers : r.peers = s.peers) : FormsTrain l f rest n k r := by
  obtain ⟨queue, level, first, urgent, atMost, atLeast, there, alike, ends, counter, range⟩ := forms
  have queueAt_eq (j : Nat) : queueAt r.tsc j = queueAt s.tsc j := by rw [queueAt, queueAt, queues]
  have tag : tagCounter r f.dest l = tagCounter s f.dest l := by
    cases f.dest <;> simp only [tagCounter, tags, State.peer, peers]
  exact ⟨(queueAt_eq l).trans queue, level, fun j hj => (queueAt_eq j).trans (first j hj),
    fun a ha => urgent a (active ▸ ha), atMost, atLeast, there, alike, ends, tag.trans counter, range⟩

section Floor

variable {s : State} {l floor : Nat}

/-- The state with another floor. -/
def floored (floor : Nat) (s : State) : State := s.mapTsc fun t => { t with floor := floor }

/-- R40, R116: a floor that gives another level, in IDLE on a quiet line: the state with the mark slot begun. -/
theorem recompute_floored (idle : s.clc.medium = .idle) (quiet : s.clc.quietFlag = true)
    (online : s.suc.station = .online) (level : prospectiveLevel (floored floor s).tsc = some l)
    (other : s.tsc.prospective ≠ some l) :
    recompute (floored floor s) = startMark s.now l
      (claimDecision ((floored floor s).mapTsc fun t => { t with prospective := some l })).1 :=
  recompute_of_claim (s := floored floor s) idle quiet online level other

theorem recompute_floored_marked (idle : s.clc.medium = .idle) (quiet : s.clc.quietFlag = true)
    (online : s.suc.station = .online) (level : prospectiveLevel (floored floor s).tsc = some l)
    (other : s.tsc.prospective ≠ some l) :
    Marked s.now l s (recompute (floored floor s)) ∧ (recompute (floored floor s)).clc.quietFlag = true := by
  rw [recompute_floored idle quiet online level other]
  refine ⟨startMark_marked _ l (by simp; rfl) (by simp; rfl) (by simp; rfl) (by simp; rfl) (by simp; rfl), ?_⟩
  rw [startMark_clc]
  simpa [floored] using quiet

/-- R112: the train that the claim forms. -/
theorem recompute_floored_trainStands {n k : Nat} {f : Frame} {rest : List Frame}
    (idle : s.clc.medium = .idle) (quiet : s.clc.quietFlag = true)
    (online : s.suc.station = .online) (level : prospectiveLevel (floored floor s).tsc = some l)
    (other : s.tsc.prospective ≠ some l) (forms : FormsTrain l f rest n k s) :
    TrainStands l f rest n k (floored floor s) (recompute (floored floor s)) := by
  rw [recompute_floored idle quiet online level other]
  have stands := claimDecision_trainStands
    (s := (floored floor s).mapTsc fun t => { t with prospective := some l })
    (forms.congr rfl rfl rfl rfl) (smallestClaim_of_some level).floor
  obtain ⟨train, queue, queues, stack, prospective, others, bcast, peer⟩ :=
    stands.congr (s'' := startMark s.now l (claimDecision ((floored floor s).mapTsc fun t =>
      { t with prospective := some l })).1) (by simp) (by simp)
  exact ⟨train, queue, queues, stack, prospective, others, bcast, peer⟩

/-- R114: the active train that stays. -/
theorem recompute_floored_keepsTrain {a : Train} (idle : s.clc.medium = .idle) (quiet : s.clc.quietFlag = true)
    (online : s.suc.station = .online) (level : prospectiveLevel (floored floor s).tsc = some l)
    (other : s.tsc.prospective ≠ some l) (active : s.tsc.active = some a) (claims : a.level = l)
    (first : ∀ j, j < l → j ≤ 7 → queueAt s.tsc j = []) :
    (recompute (floored floor s)).tsc = { s.tsc with floor := floor, prospective := some l } ∧
    (recompute (floored floor s)).peers = s.peers := by
  rw [recompute_floored idle quiet online level other, claimDecision_keepsTrain (by exact active) claims
    (by exact first)]
  obtain ⟨-, -, -, peers, -, tsc, -⟩ := startMark_keeps s.now l (((floored floor s).mapTsc fun t =>
    { t with prospective := some l }).mapTsc fun t => { t with
      prospective := prospectiveLevel ((floored floor s).mapTsc fun t => { t with prospective := some l }).tsc })
  refine ⟨tsc.trans ?_, peers⟩
  rw [← level]
  rfl

end Floor

/-! ### The answers (R164, R165, R167) -/

section Answers

variable {r : Request} {s : State}

/-- The argument length fits the bytes present and covers what the request needs (R164). -/
def ArgsFit (r : Request) (need : Nat) : Prop := need ≤ r.argLength ∧ r.argLength ≤ r.args.length

/-- R167, R168: with no flag left ATTN is inactive. -/
theorem clearReported_eq : clearReported s = { s with mgu := { s.mgu with flags := 0, attn := false } } := by
  have silent : attnOf 0 s.mgu.mask = false := by simp [attnOf]
  simp only [clearReported, State.mapMgu, judgeAttn, silent]

theorem answerStatus_fits (fits : ArgsFit r 0) : answerStatus r s = answer r .ok (statusContents s)
    { s with mgu := { s.mgu with flags := 0, attn := false } } :=
  (withArgs_fits fits).trans (congrArg _ clearReported_eq)

theorem answerEventMask_sets (fits : ArgsFit r 3) (code : byteAt r.args 1 = 1) :
    answerEventMask r s = answer r .ok
      (natBytes 2 (s.mgu.mask ||| BitVec.ofNat 14 (fieldAt r.args 2 2)).toNat)
      (setMask (s.mgu.mask ||| BitVec.ofNat 14 (fieldAt r.args 2 2)) s) :=
  (withArgs_fits fits).trans (if_pos code)

theorem answerEventMask_clears (fits : ArgsFit r 3) (code : byteAt r.args 1 = 2) :
    answerEventMask r s = answer r .ok
      (natBytes 2 (s.mgu.mask &&& ~~~BitVec.ofNat 14 (fieldAt r.args 2 2)).toNat)
      (setMask (s.mgu.mask &&& ~~~BitVec.ofNat 14 (fieldAt r.args 2 2)) s) :=
  (withArgs_fits fits).trans ((if_neg (by rw [code]; decide)).trans (if_pos code))

theorem answerEventMask_refused
    (refused : ¬ArgsFit r 3 ∨ (byteAt r.args 1 ≠ 1 ∧ byteAt r.args 1 ≠ 2)) :
    answerEventMask r s = answer r .badArgument (natBytes 2 s.mgu.mask.toNat) s := by
  by_cases fits : ArgsFit r 3
  · obtain ⟨sets, clears⟩ := refused.resolve_left (not_not.mpr fits)
    exact (withArgs_fits fits).trans ((if_neg sets).trans (if_neg clears))
  · exact withArgs_unfit fits

theorem answerFloor_fits (fits : ArgsFit r 1) : answerFloor r s = answer r .ok
    [BitVec.ofNat 8 (min 7 (byteAt r.args 1).toNat)]
    (recompute (floored (min 7 (byteAt r.args 1).toNat) s)) := by
  refine (withArgs_fits fits).trans ?_
  have floor := (recompute_stands (floored (min 7 (byteAt r.args 1).toNat) s)).floor
  simp only [floorContents]
  rw [show s.mapTsc _ = floored (min 7 (byteAt r.args 1).toNat) s from rfl, floor]
  rfl

theorem answerPeerDetail_fits {p : Peer} (fits : ArgsFit r 2) (peer : s.peer (byteAt r.args 1).toNat = some p)
    (part : (byteAt r.args 2).toNat ≤ 2) : answerPeerDetail r s = answer r .ok
      (peerDetailContents (byteAt r.args 1).toNat (byteAt r.args 2).toNat p) s := by
  refine (withArgs_fits fits).trans ?_
  simp only [peer]
  exact if_pos part

theorem answerPeerDetail_refused (refused : ¬ArgsFit r 2 ∨ s.peer (byteAt r.args 1).toNat = none ∨
    2 < (byteAt r.args 2).toNat) : answerPeerDetail r s = answer r .badArgument [] s := by
  by_cases fits : ArgsFit r 2
  · refine (withArgs_fits fits).trans ?_
    rcases refused.resolve_left (not_not.mpr fits) with none | beyond
    · simp only [none]
    · cases peer : s.peer (byteAt r.args 1).toNat with
      | none => simp only [peer]
      | some p =>
        simp only [peer]
        exact if_neg (Nat.not_le.mpr beyond)
  · exact withArgs_unfit fits

theorem codeKnown_unknown {c : Byte} (h : c = 0 ∨ 8 < c.toNat) : codeKnown c = false := by
  rw [codeKnown, Bool.and_eq_false_iff, decide_eq_false_iff_not, decide_eq_false_iff_not]
  rcases h with rfl | h
  · exact .inl (by decide)
  · exact .inr (by omega)

end Answers

/-- Settles O57: the places of each reply's bytes, and each request by its arguments. -/
theorem requestsAnswered : Obligations.RequestsAnswered := by
  refine ⟨fun a r result contents sequence length => ?_, fun s => ?_, fun i part p shape => ?_,
    fun t r rest s due => ?_⟩
  · obtain ⟨size, dest, source, type, code, number, outcome, count, tail⟩ :=
      encodeReply_places a r result contents sequence length
    exact ⟨size, dest, source, type, code, number, by rw [outcome]; cases result <;> rfl, count, tail⟩
  · intro station lock active
    have station_eq : station = stationByte s.suc.station := by
      simp only [station]
      cases s.suc.station <;> rfl
    have lock_eq : lock = lockByte s.lcu.lock := by
      simp only [lock]
      cases s.lcu.lock <;> rfl
    rw [station_eq, lock_eq, show active = activeRecords s from (activeRecords_eq s).symm]
    refine ⟨?_, statusContents_places s, ?_⟩
    · obtain ⟨size, present, address, kind, strap, source, mode, line⟩ := identifyContents_places s
      refine ⟨size, by rw [present]; cases s.suc.address <;> rfl, fun a ha => by rw [address, ha]; rfl, kind,
        by rw [strap]; cases s.suc.strap <;> rfl, fun none => by rw [source, none]; rfl,
        fun c hc => by rw [source, hc]; cases h : c.source <;> simp only [sourceByte, h], mode, line⟩
    · obtain ⟨size, count, lines⟩ := peerListContents_places s
      refine ⟨size, count, fun i k p peer place => ?_⟩
      obtain ⟨index, address, heard, maps, fallback⟩ := lines i k p peer place
      exact ⟨index, address, heard, by rw [maps]; cases p.txMaps <;> rfl, fallback⟩
  · intro f c
    refine ⟨?_, fun zero => ?_, fun first last => ?_⟩
    · exact peerDetailContents_index
    · subst zero
      refine ⟨detailPart0_length shape, detailPart0_present shape, fun none k => detailPart0_absent shape none,
        fun x maps => ?_, fun k r => detailPart0_rx shape, fun k n => detailPart0_counters shape⟩
      obtain ⟨installed, windows, slots⟩ := detailPart0_maps (i := i) shape maps
      exact ⟨installed, fun w y hw => by rw [show byteAt f (7 + w) = _ from windows w y hw]; cases y <;> rfl, slots⟩
    · have stored : f = detailStore i part p := if_neg (by omega)
      rw [stored]
      obtain ⟨size, windows⟩ := detailStore_places (i := i) shape first last
      exact ⟨size, rfl, windows⟩
  · intro taken fits answers masked selection floored level record part
    have replies {c : Instr} {kind : Byte → Bool} {act : Request → State → State} {result : ResultCode}
        {contents : List Byte} {s₁ : State} (command : effect c = takeRequest kind act) (time : c.time = t)
        (asked : kind r.code = true) (acts : act r taken = answer r result contents s₁)
        (station : s₁.suc = s.suc) : answers c result contents s₁ := by
      refine ⟨_, (exec_request command due asked).trans (congrArg _ ?_), offerReply_offered _ _⟩
      rw [time]
      refine acts.trans ?_
      rw [answer, station]
      rfl
    refine ⟨fun code => ⟨fun h => ?_, fun h => ?_⟩, fun code => ⟨fun h => ?_, fun h => ?_⟩,
      fun code => ⟨fun h one => ?_, fun h two => ?_, fun refused => ?_⟩,
      fun code => ⟨fun h quiet => ?_, fun l h idle quiet online claims other => ?_, fun h => ?_⟩,
      fun code => ⟨fun h => ?_, fun h => ?_⟩, fun code => ⟨fun p h peer there => ?_, fun refused => ?_⟩,
      fun unknown => ?_⟩
    · exact replies rfl rfl (decide_eq_true code) (withArgs_fits h) rfl
    · exact replies rfl rfl (decide_eq_true code) (withArgs_unfit h) rfl
    · exact replies rfl rfl (decide_eq_true code) (answerStatus_fits h) rfl
    · exact replies rfl rfl (decide_eq_true code) (withArgs_unfit h) rfl
    · exact replies rfl rfl (decide_eq_true code) (answerEventMask_sets h one) rfl
    · exact replies rfl rfl (decide_eq_true code) (answerEventMask_clears h two) rfl
    · exact replies rfl rfl (decide_eq_true code) (answerEventMask_refused refused) rfl
    · refine replies rfl rfl (decide_eq_true code) ((answerFloor_fits h).trans (congrArg _ ?_)) rfl
      exact recompute_quiet (s := Machine.floored (min 7 (byteAt r.args 1).toNat) taken) quiet
    · obtain ⟨marked, flag⟩ := recompute_floored_marked (s := taken) idle quiet online claims other
      obtain ⟨now, -, lcu, lae, bpm, ptu, mgu, suc, -⟩ :=
        recompute_keeps (Machine.floored (min 7 (byteAt r.args 1).toNat) taken)
      refine ⟨_, replies rfl rfl (decide_eq_true code) (answerFloor_fits h) suc,
        ⟨marked.medium, marked.claim, marked.mark, marked.claimLevel, marked.generator, marked.word,
          marked.streak, marked.waited, marked.signal, marked.hand⟩, flag, fun f rest n k forms => ?_,
        fun a active level first => recompute_floored_keepsTrain (s := taken) idle quiet online claims other
          active level first, now, lcu, bpm, ptu, mgu, suc, lae, recompute_table _⟩
      obtain ⟨train, queue, queues, stack, prospective, others, bcast, peer⟩ :=
        recompute_floored_trainStands (s := taken) idle quiet online claims other
          (forms.congr rfl rfl rfl rfl)
      exact ⟨train, queue, queues, stack, prospective, others, bcast, peer⟩
    · exact replies rfl rfl (decide_eq_true code) (withArgs_unfit h) rfl
    · exact replies rfl rfl (decide_eq_true code) (withArgs_fits h) rfl
    · exact replies rfl rfl (decide_eq_true code) (withArgs_unfit h) rfl
    · exact replies rfl rfl (decide_eq_true code) (answerPeerDetail_fits h peer there) rfl
    · exact replies rfl rfl (decide_eq_true code) (answerPeerDetail_refused refused) rfl
    · exact replies (kind := fun c => !codeKnown c) rfl rfl
        ((congrArg not (codeKnown_unknown unknown)).trans rfl) rfl rfl

end Sys2Proof.Machine
end
